-- ==== Sys2Proof/Word.lean ====
section
/-!
DEFINITION. The word types of the Fanik model and the index types of its units.
Multi-byte values are little-endian (R7); a scalar register is 64 bits wide (R32), a vector register 8192 (R122).
-/
namespace Sys2Proof

/-- A byte of memory. -/
abbrev Byte := BitVec 8
/-- A scalar register or one 8-byte register word (R32, R407). -/
abbrev Word := BitVec 64
/-- A vector register: 256 lanes of 32 bits (R122). -/
abbrev VWord := BitVec 8192

/-- A physical core (R29). -/
abbrev CoreId := Fin 104
/-- A context number (R52). -/
abbrev CtxId := Fin 16
/-- A compute die: 0 north, 1 south (R15). -/
abbrev DieId := Fin 2
/-- A plinth site (R15). -/
abbrev SiteId := Fin 8
/-- A memory channel of a stack (R191). -/
abbrev ChanId := Fin 32
/-- A port window index: 0 to 23 rope ports, 24 to 31 ridge ports (R238). -/
abbrev PortId := Fin 32
/-- A submission queue (R302). -/
abbrev QueueId := Fin 64
/-- A mailbox request channel (R309). -/
abbrev MbxId := Fin 7
/-- A cube of a core (R60). -/
abbrev CubeId := Fin 16
/-- A DMA engine of a core (R44). -/
abbrev DmaId := Fin 4
/-- A scalar register number (R32). -/
abbrev SReg := Fin 32
/-- A vector register number (R122). -/
abbrev VReg := Fin 64
/-- A group handle (R264). -/
abbrev GroupId := Fin 256
/-- A partition (R55). -/
abbrev PartId := Fin 4

end Sys2Proof
end

