-- ==== Sys2Proof/Syntax.lean ====
section
/-!
DEFINITION. The commands of the Fanik block: one constructor of `Instr` for each row of the table of operations and
events. An instruction row carries the fields of its TIS encoding (R143 to R166) and the physical core that commits it;
an event row carries what arrives from outside the chip (a message, a sensor reading, the host's bytes).
-/
namespace Sys2Proof

/-- Element formats (Table 24). -/
inductive Fmt where
  | fp32 | bf16 | fp16 | e4m3 | e5m2 | e2m3 | e3m2 | e2m1 | bell4 | int8 | int32 | e8m0
  deriving DecidableEq, Repr

/-- Access sizes of the M layout (R151). -/
inductive MSize where
  | b1 | b2 | b4 | b8
  deriving DecidableEq, Repr

/-- Address spaces of the M layout (R151). -/
inductive Space where
  | spd | mem
  deriving DecidableEq, Repr

/-- Branch conditions (R152). -/
inductive Cond where
  | eq | ne | lt | ge | ltu | geu
  deriving DecidableEq, Repr

/-- Fence scopes (R152, R234). -/
inductive FScope where
  | core | chip | fabric
  deriving DecidableEq, Repr

/-- Vector compare relations (R157). -/
inductive Rel where
  | eq | ne | lt | le
  deriving DecidableEq, Repr

/-- Reduction operations of VEC.RED (R157). -/
inductive RedOp where
  | sum | max | min | and | or | xor | iadd
  deriving DecidableEq, Repr

/-- Telemetry counter kinds (R166). -/
inductive TelKind where
  | produced | overflow | vanish | subnormal
  deriving DecidableEq, Repr

/-- Overflow modes of a convert (R95). -/
inductive Ovf where
  | sat | nonfinite
  deriving DecidableEq, Repr

/-- Stored state of a tile (R40). -/
inductive TState where
  | unwritten | sealed | poison
  deriving DecidableEq, Repr

/-- The access a translation is asked for (R223, R224). -/
inductive Access where
  | read | write | fetch | spec
  deriving DecidableEq, Repr

/-- What goes wrong in the hardware while a vector instruction runs: by how much the checked product or sum of one element is wrong
(R141, R323; 0: nothing), and whether a read finds a lane parity error (R123). -/
structure VFault where
  lane   : BitVec 9
  err    : Int
  parity : Bool
  deriving DecidableEq, Repr

/-- Where an error falls in a cube's arithmetic (R322): a product of the group, or a window of the exact adder; E5M2 × E5M2 has a second
window, of the products' high parts (R108). -/
inductive ErrSite where
  | product (k : Fin 16)
  | window
  | windowHi
  deriving DecidableEq, Repr

/-- An error of the hardware in one step: the accumulator and group it falls in, and by how much the product or sum is wrong (R323). -/
structure CubeErr where
  cube : CubeId
  acc  : Fin 256
  grp  : Fin 2
  site : ErrSite
  err  : Int
  deriving DecidableEq, Repr

/-- Source modifiers of a vector instruction (R130, R157). -/
structure VMod where
  abs : Bool
  fin : Bool
  deriving DecidableEq, Repr

/-- Fields of DMA.COPY (Table 53). -/
structure DmaCopy where
  eng    : DmaId
  ssp    : Space
  dsp    : Space
  rs     : SReg
  rdst   : SReg
  rl     : SReg
  rt     : SReg
  waitEn : Bool
  wcell  : BitVec 10
  icell  : BitVec 10
  shaped : Bool
  soff   : BitVec 20
  doff   : BitVec 20
  amount : BitVec 16
  deriving DecidableEq, Repr

/-- Fields of CUB.LDS (Table 54). -/
structure CubLds where
  mask : BitVec 16
  slot : Fin 2
  fmt  : Fmt
  ra   : SReg
  boff : BitVec 26
  bstr : BitVec 16
  deriving DecidableEq, Repr

/-- Fields of CUB.LDSC (Table 54). `s32` is the S field: blocks of 32 elements. `ring` is the RING code 0 to 4. -/
structure CubLdsc where
  mask  : BitVec 16
  slot  : Fin 2
  ring  : Fin 5
  fmt   : Fmt
  s32   : Bool
  ldB   : Bool
  ldA   : Bool
  rbB   : SReg
  rbA   : SReg
  bsoff : BitVec 20
  asoff : BitVec 20
  deriving DecidableEq, Repr

/-- Fields of CUB.MMA (Table 54). -/
structure CubMma where
  mask  : BitVec 16
  slot  : Fin 2
  ring  : Fin 5
  start : Bool
  sr    : Bool
  fmtA  : Fmt
  fmtB  : Fmt
  scaA  : Bool
  scaB  : Bool
  s32   : Bool
  ra    : SReg
  aoff  : BitVec 26
  mstr  : BitVec 16
  kstr  : BitVec 16
  deriving DecidableEq, Repr

/-- Fields of CUB.DRAIN (Table 54). -/
structure CubDrain where
  mask  : BitVec 16
  clear : Bool
  ra    : SReg
  doff  : BitVec 26
  deriving DecidableEq, Repr

/-- Fields of VEC.XFM (Table 51). `m` holds the sizes 4 to 8 of R134, one more than three bits of [24:22] can name. -/
structure VecXfm where
  rd     : VReg
  ra     : VReg
  rb     : VReg
  rc     : VReg
  perm   : Bool
  smooth : Bool
  had    : Bool
  m      : BitVec 4
  h      : BitVec 4
  deriving DecidableEq, Repr

/-- Fields of a CVT instruction (R159). -/
structure Cvt where
  rd     : VReg
  ra     : VReg
  rb     : VReg
  rc     : VReg
  minmax : Bool
  reg    : Bool
  strided : Bool
  s32    : Bool
  pair   : Bool
  sord   : Bool
  srcf   : Fmt
  dstf   : Fmt
  ss     : BitVec 3
  ds     : BitVec 3
  ovf    : Ovf
  tag    : BitVec 6
  soff   : BitVec 7
  deriving DecidableEq, Repr

/-- Fields of an SPL instruction (Table 55). -/
structure Spl where
  group  : GroupId
  kind   : BitVec 4
  fmt    : BitVec 4
  rs     : SReg
  rdst   : SReg
  rl     : SReg
  waitEn : Bool
  wcell  : BitVec 10
  rt     : SReg
  soff   : BitVec 20
  doff   : BitVec 20
  icell  : BitVec 10
  amount : BitVec 10
  deriving DecidableEq, Repr

/-- Header of a Jenaris request or response (Table 74). -/
structure FabHdr where
  whole  : Bool
  dst    : BitVec 17
  src    : BitVec 17
  key    : BitVec 16
  addr   : BitVec 40
  len    : BitVec 6
  tag    : BitVec 16
  sealAmt : BitVec 32
  state  : BitVec 2
  poison : Bool
  status : BitVec 4
  stream : BitVec 16
  deriving DecidableEq, Repr

/-- The route word of a ridge-borne message (R251). -/
structure RouteWord where
  hopsX : BitVec 4
  negX  : Bool
  hopsY : BitVec 4
  negY  : Bool
  hopsZ : BitVec 3
  negZ  : Bool
  replay : Bool
  deriving DecidableEq, Repr

/-- NOTICE message fields (Table 83). -/
structure Notice where
  src   : BitVec 17
  site  : BitVec 3
  bound : BitVec 16
  box   : BitVec 40
  seq   : BitVec 16
  deriving DecidableEq, Repr

/-- Key of a witness report (R260). -/
structure WitKey where
  suspect : BitVec 17
  unit    : BitVec 8
  fclass  : BitVec 4
  deriving DecidableEq, Repr

/-- WITNESS message fields (R261). -/
structure Witness where
  dst   : BitVec 17
  src   : BitVec 17
  key   : WitKey
  count : BitVec 24
  firstTs : BitVec 64
  deriving DecidableEq, Repr

/-- Splice control message fields (Table 88). -/
structure SplCtl where
  dst   : BitVec 17
  src   : BitVec 17
  key   : BitVec 16
  group : GroupId
  seq   : BitVec 32
  chunk : BitVec 24
  arg   : BitVec 64
  hasCarry : Bool
  deriving DecidableEq, Repr

/-- Chunk kinds (Table 87). -/
inductive CKind where
  | data | partialSum | carry | result
  deriving DecidableEq, Repr

/-- Chunk header fields (Table 87). -/
structure Chunk where
  ckind  : CKind
  dst    : BitVec 17
  src    : BitVec 17
  key    : BitVec 16
  group  : GroupId
  kind   : BitVec 4
  fmt    : BitVec 4
  seq    : BitVec 32
  chunk  : BitVec 24
  member : BitVec 17
  poison : Bool
  last   : Bool
  viaSwitch : Bool
  len    : BitVec 10
  crc    : BitVec 64
  deriving DecidableEq, Repr

/-- One submission entry as fetched from host memory (Table 95). -/
structure SqEntry where
  opcode : BitVec 8
  flags  : BitVec 8
  cmdId  : BitVec 32
  core   : BitVec 16
  cell   : BitVec 16
  amount : BitVec 32
  deriving DecidableEq, Repr

/-- How a port's training ends (Table 82, R247). -/
inductive TrainEnd where
  | up        -- every step passed
  | idWait    -- a ridge port reaches step 4 while JNR_CHIP.VALID is 0
  | miscabled -- the identity check fails
  | timeout   -- the bound passes
  | verifyFail -- the saved settings of the fast path fail their verification in step 2
  deriving DecidableEq, Repr

/-- How the CXL link trains (Table 94). -/
inductive CxlEnd where
  | full | x4 | slow
  deriving DecidableEq, Repr

/-- What the host answers to a host-window access (R301). -/
inductive HostAnswer where
  | data | go | error | poison
  deriving DecidableEq, Repr

/-- Firmware processors (Table 130). -/
inductive FwProc where
  | base | hutN | hutS
  deriving DecidableEq, Repr

/-- Why a firmware processor restarts (R392). -/
inductive FwCause where
  | watchdog | except | activation
  deriving DecidableEq, Repr

/-- The sensor part that trips (Table 14). -/
inductive TripSrc where
  | die | stack | optics
  deriving DecidableEq, Repr

/-- The engine whose host-window or remote access is meant. -/
inductive Engine where
  | seq | dma (n : DmaId) | splice
  deriving DecidableEq, Repr

/-- PLLs whose loss of lock stops a clock domain (R386, DIE_STATUS). -/
inductive Pll where
  | core | noc | bridge
  deriving DecidableEq, Repr

/-- The commands of the block. -/
inductive Instr where
  -- SCL
  | sclAdd (p : CoreId) (rd ra rb : SReg)
  | sclSub (p : CoreId) (rd ra rb : SReg)
  | sclMul (p : CoreId) (rd ra rb : SReg)
  | sclAnd (p : CoreId) (rd ra rb : SReg)
  | sclOr (p : CoreId) (rd ra rb : SReg)
  | sclXor (p : CoreId) (rd ra rb : SReg)
  | sclShl (p : CoreId) (rd ra rb : SReg)
  | sclShr (p : CoreId) (rd ra rb : SReg)
  | sclSar (p : CoreId) (rd ra rb : SReg)
  | sclSlt (p : CoreId) (rd ra rb : SReg)
  | sclSltu (p : CoreId) (rd ra rb : SReg)
  | sclAddi (p : CoreId) (rd ra : SReg) (imm : BitVec 40)
  | sclAndi (p : CoreId) (rd ra : SReg) (imm : BitVec 40)
  | sclOri (p : CoreId) (rd ra : SReg) (imm : BitVec 40)
  | sclXori (p : CoreId) (rd ra : SReg) (imm : BitVec 40)
  | sclShli (p : CoreId) (rd ra : SReg) (count : BitVec 6)
  | sclShri (p : CoreId) (rd ra : SReg) (count : BitVec 6)
  | sclSari (p : CoreId) (rd ra : SReg) (count : BitVec 6)
  | sclSlti (p : CoreId) (rd ra : SReg) (imm : BitVec 40)
  | sclLi (p : CoreId) (rd : SReg) (imm : BitVec 40)
  | sclLih (p : CoreId) (rd ra : SReg) (imm : BitVec 24)
  | sclLd (p : CoreId) (rd ra : SReg) (size : MSize) (space : Space) (off : BitVec 32)
  | sclLds (p : CoreId) (rd ra : SReg) (size : MSize) (space : Space) (off : BitVec 32)
  | sclSt (p : CoreId) (rd ra : SReg) (size : MSize) (space : Space) (off : BitVec 32)
  | sclInfo (p : CoreId) (rd : SReg) (sel : BitVec 4)
  | seqLoadReturn (p : CoreId)
  | specReadReturn (p : CoreId)
  | runaheadSquash (p : CoreId)
  -- CTL
  | ctlNop (p : CoreId)
  | ctlBr (p : CoreId) (cond : Cond) (hint : Bool) (ra rb : SReg) (off : BitVec 34)
  | ctlJmp (p : CoreId) (rd : SReg) (off : BitVec 40)
  | ctlJr (p : CoreId) (rd ra : SReg)
  | ctlStep (p : CoreId)
  | ctlYield (p : CoreId)
  | yieldSwitch (p : CoreId) (sealFail : Bool)
  | ctlHalt (p : CoreId)
  | ctlFence (p : CoreId) (scope : FScope)
  | ctlSeth (p : CoreId) (ra : SReg)
  | ctlReth (p : CoreId)
  -- BLY
  | blyInc (p : CoreId) (cell : BitVec 10) (ra : SReg) (imm : BitVec 18)
  | blyInca (p : CoreId) (ra rb : SReg) (imm : BitVec 18)
  | blyWait (p : CoreId) (cell : BitVec 10) (rb rc : SReg) (coll : Bool)
  | blyRead (p : CoreId) (rd : SReg) (cell : BitVec 10)
  | belayWaitResume (p : CoreId)
  | waitIdleEntry (p : CoreId)
  | belayTimeout (p : CoreId)
  -- DMA
  | dmaCopy (p : CoreId) (d : DmaCopy)
  | dmaShape (p : CoreId) (eng : DmaId) (rn rss rds : SReg)
  | dmaDescriptorStart (p : CoreId) (eng : DmaId)
  | dmaWaitTimeout (p : CoreId) (eng : DmaId)
  | dmaComplete (p : CoreId) (eng : DmaId)
  -- CUB
  | cubLds (p : CoreId) (d : CubLds)
  | cubLdsc (p : CoreId) (d : CubLdsc)
  | cubMma (p : CoreId) (d : CubMma)
  | cubDrain (p : CoreId) (d : CubDrain)
  | cubeLoadGrant (p : CoreId)
  | cubeRingStep (p : CoreId) (which : Fin 16)
  | cubeAccumUpdate (p : CoreId) (errs : List CubeErr)
  | cubeDrainExec (p : CoreId)
  | ballastOp (p : CoreId) (c : CubeId) (err : Int)
  | cubeRampDownEntry (p : CoreId) (c : CubeId)
  | cubeDutyStep (p : CoreId) (c : CubeId)
  -- VEC
  | vecAdd (p : CoreId) (fmt : Fmt) (rd ra rb : VReg) (ma mb : VMod) (flt : VFault)
  | vecSub (p : CoreId) (fmt : Fmt) (rd ra rb : VReg) (ma mb : VMod) (flt : VFault)
  | vecMul (p : CoreId) (fmt : Fmt) (rd ra rb : VReg) (ma mb : VMod) (flt : VFault)
  | vecFma (p : CoreId) (fmt : Fmt) (rd ra rb rc : VReg) (ma mb mc : VMod) (flt : VFault)
  | vecMax (p : CoreId) (fmt : Fmt) (rd ra rb : VReg) (ma mb : VMod) (flt : VFault)
  | vecMin (p : CoreId) (fmt : Fmt) (rd ra rb : VReg) (ma mb : VMod) (flt : VFault)
  | vecIadd (p : CoreId) (rd ra rb : VReg) (flt : VFault)
  | vecIsub (p : CoreId) (rd ra rb : VReg) (flt : VFault)
  | vecImul (p : CoreId) (rd ra rb : VReg) (flt : VFault)
  | vecAnd (p : CoreId) (rd ra rb : VReg) (flt : VFault)
  | vecOr (p : CoreId) (rd ra rb : VReg) (flt : VFault)
  | vecXor (p : CoreId) (rd ra rb : VReg) (flt : VFault)
  | vecNot (p : CoreId) (rd ra : VReg) (flt : VFault)
  | vecShl (p : CoreId) (rd ra rb : VReg) (flt : VFault)
  | vecShr (p : CoreId) (rd ra rb : VReg) (flt : VFault)
  | vecSar (p : CoreId) (rd ra rb : VReg) (flt : VFault)
  | vecCmp (p : CoreId) (fmt : Fmt) (rel : Rel) (rd ra rb : VReg) (flt : VFault)
  | vecSel (p : CoreId) (rd ra rb rc : VReg) (flt : VFault)
  | vecClass (p : CoreId) (fmt : Fmt) (slice : Fin 2) (rd ra : VReg) (flt : VFault)
  | vecRcp (p : CoreId) (rd ra : VReg) (flt : VFault)
  | vecRsq (p : CoreId) (rd ra : VReg) (flt : VFault)
  | vecExp2 (p : CoreId) (rd ra : VReg) (flt : VFault)
  | vecLog2 (p : CoreId) (rd ra : VReg) (flt : VFault)
  | vecRed (p : CoreId) (fmt : Fmt) (op : RedOp) (k : BitVec 4) (rd ra : VReg) (flt : VFault)
  | vecXfm (p : CoreId) (d : VecXfm) (flt : VFault)
  | vecLd (p : CoreId) (rd : VReg) (ra : SReg) (off : BitVec 32)
  | vecLd2 (p : CoreId) (rd : VReg) (ra : SReg) (off : BitVec 32)
  | vecSt (p : CoreId) (rd : VReg) (ra : SReg) (off : BitVec 32) (parity : Bool)
  | vecSt2 (p : CoreId) (rd : VReg) (ra : SReg) (off : BitVec 32) (parity : Bool)
  -- CVT
  | cvtF (p : CoreId) (d : Cvt) (parity : Bool)
  | cvtQ (p : CoreId) (d : Cvt) (parity : Bool)
  | cvtQsc (p : CoreId) (d : Cvt) (parity : Bool)
  | cvtDq (p : CoreId) (d : Cvt) (parity : Bool)
  | telDeliver (p : CoreId)
  -- SPL instructions
  | splRun (p : CoreId) (d : Spl)
  | splBatch (p : CoreId) (d : Spl)
  | splCounts (p : CoreId) (d : Spl)
  -- CHK
  | chkState (p : CoreId) (rd ra : SReg) (space : Space) (off : BitVec 32)
  | chkVerify (p : CoreId) (rd ra rb : SReg)
  -- SCA
  | scaLsget (p : CoreId) (rd : SReg)
  | scaLsupd (p : CoreId) (ra : SReg)
  | scaHrec (p : CoreId) (ra rb : SReg)
  | scaHget (p : CoreId) (rd ra : SReg)
  | scaTread (p : CoreId) (rd : SReg) (tag : BitVec 6) (fmt : BitVec 4) (kind : TelKind)
  -- core power
  | coreWake (p : CoreId)
  | coreGate (p : CoreId)
  -- stacked memory
  | hbmRead (addr : BitVec 40) (len : BitVec 12) (spec : Bool) (ce : BitVec 8) (ue : Bool)
  | hbmWriteWhole (addr : BitVec 40) (data : List Byte) (sl : BitVec 32) (st : TState)
  | hbmWritePartial (addr : BitVec 40) (data : List Byte) (poison : Bool)
  | wcbMergeAge (site : SiteId) (tile : BitVec 29)
  | wcbMergeDone (site : SiteId) (tile : BitVec 29) (ue : Bool)
  | specRequestDrop (site : SiteId)
  | stackThermalEval (site : SiteId) (temp : BitVec 8)
  | thermalPauseSend (site : SiteId)
  | retrainPeriodic (site : SiteId) (ch : ChanId)
  | plnCmdRetrain (site : SiteId) (ch : ChanId)
  | retrainStart (site : SiteId)
  | retrainConfirm (site : SiteId)
  | retrainHoldTimeout (site : SiteId)
  | plnCmdRepair (site : SiteId) (ch : ChanId)
  | repairMigrateGranule (site : SiteId) (ue : Bool)
  | repairStateSave (site : SiteId)
  -- fabric
  | rdReq (h : FabHdr)
  | wrReq (h : FabHdr) (data : List Byte)
  | blyIncReq (h : FabHdr) (replay : Bool)
  | rdRsp (h : FabHdr) (data : List Byte)
  | wrAck (h : FabHdr)
  | incAck (h : FabHdr)
  | errRsp (h : FabHdr)
  | remoteTimeout (tag : BitVec 16)
  | pageWalkComplete (p : CoreId) (va : BitVec 64) (acc : Access)
  | jnrCtxCmdInval (ctx : CtxId)
  | invalDone (ctx : CtxId)
  -- links
  | ridgeForward (w : PortId) (rw : RouteWord) (msg : BitVec 256)   -- the first 32 bytes of the message
  | flitReceive (w : PortId) (flit : List Byte) (corrected : BitVec 8) (uncorr : Bool)
  | nakReceive (w : PortId) (seq : BitVec 12)
  | linkAckTimeout (w : PortId)
  | laneLockLoss (w : PortId) (lanes : BitVec 8)
  | requestReplay (tag : BitVec 16)
  | lnkCtrlRetrain (w : PortId)
  | portTraining (w : PortId) (res : TrainEnd) (lanes : BitVec 8) (peer : BitVec 17)
  | settingsFlashCopy
  | noticeThermalPause (w : PortId) (n : Notice)
  | noticePauseEnd (w : PortId) (n : Notice)
  | pauseEntryExpire (src : BitVec 17) (site : BitVec 3)
  | witnessReceive (m : Witness)
  | witnessWindowClose (key : WitKey)
  -- splice engine
  | splCollectiveStart (ctx : CtxId) (g : GroupId)
  | splReady (m : SplCtl)
  | splMode (m : SplCtl)
  | splCredit (m : SplCtl)
  | splGrant (m : SplCtl)
  | splNoSlot (m : SplCtl)
  | claimRetry (ctx : CtxId) (g : GroupId)
  | claimFallback (ctx : CtxId) (g : GroupId)
  | splChunk (c : Chunk) (payload : List Byte)
  | splFenced (m : SplCtl)
  | splLost (m : SplCtl)
  | splRedo (m : SplCtl)
  | splAbort (m : SplCtl)
  | splComplete (ctx : CtxId) (g : GroupId)
  | collDeadline (ctx : CtxId) (g : GroupId)
  -- submission queues, interrupts, CXL.mem
  | sqWake (q : QueueId) (tail head : BitVec 32) (readFail : Bool) (entries : List SqEntry)
  | sqStart (q : QueueId) (image : List Byte)
  | sqBelayInc (q : QueueId)
  | sqNop (q : QueueId)
  | contextHalted (ctx : CtxId)
  | qEnable (q : QueueId)
  | qDisable (q : QueueId)
  | msixSend (v : Fin 64)
  | msixHoldoffEnd (v : Fin 64)
  | hostMemRead (off : BitVec 48)
  | hostMemWrite (off : BitVec 48) (data : List Byte) (poison : Bool)
  | hostLineRequest (line : BitVec 34)
  | birspReceive (line : BitVec 34)
  -- mailbox
  | getVersion (ch : MbxId)
  | load (ch : MbxId) (image groups : List Byte)
  | unload (ch : MbxId)
  | setPartitionMode (ch : MbxId)
  | resetReq (ch : MbxId)
  | cairnInfo (ch : MbxId)
  | fwStage (ch : MbxId) (image : List Byte) (readbackOk : Bool)
  | fwActivate (ch : MbxId) (verifyOk : Bool)
  | attest (ch : MbxId) (pubkey sig : List Byte)
  | getMeasurements (ch : MbxId)
  | jigInstall (ch : MbxId) (pkg : List Byte)
  | bivConfig (ch : MbxId)
  | bivRestart (ch : MbxId)
  | evtHeadWrite (v : BitVec 6)
  -- jigs and health
  | jigRunStart (p : CoreId) (variant : BitVec 4)
  | jigRunEnd (p : CoreId)
  | jigTimeout (p : CoreId)
  | jigCmdRun (p : CoreId)
  | jigOverdue (p : CoreId)
  | jigPkgFlash
  | healthWindowExpire (p : CoreId)
  | spareSubstitute (p : CoreId)
  | fenceListFlash
  -- resets and errors
  | contextReset (ctx : CtxId)
  | hbmQuarantineRelease (ctx : CtxId)
  | engineHang (unit : BitVec 16) (ctx : Option CtxId)
  | plinthHang (site : SiteId) (ch : ChanId)
  | nocTimeout (die : DieId)
  | bridgeFail
  | drainTimeout (ctx : CtxId) (unit : BitVec 16)
  | engineReset (unit : BitVec 16) (bad : BitVec 8)
  | partitionReset (part : PartId) (bad : BitVec 8)
  | warmChipReset (bad : BitVec 8) (badChans : BitVec 256)
  | resetOverrun (log : Fin 21)
  | cairnTimeLimit (bad : BitVec 8)
  | cdcTimeout (off : BitVec 28) (isRead : Bool)
  | cdcModeWrite (recovery : Bool)
  | errLogAck (d : Fin 21) (seq : BitVec 32)
  | logHandlingDone (d : Fin 21)
  -- bivouac
  | bivTrigger (ctx : CtxId)
  | urgentCopyDone (ctx : CtxId) (page : BitVec 19)
  | bivPageSend (ctx : CtxId)
  | bivStreamComplete (ctx : CtxId)
  | bivRestartPull (ctx : CtxId)
  | bivRestartFinish (ctx : CtxId)
  -- bring-up, firmware, clamp
  | aonPowerUp (mgtAddr : BitVec 3) (selfCheckOk : Bool)
  | powerGoodLoss
  | holdResetAssert
  | holdResetRelease (okA okB : Bool) (storeFail residueFail : BitVec 104) (badChans : BitVec 256)
  | thermTrip (src : TripSrc) (idx : BitVec 4) (temp : BitVec 8)
  | fwProcRestart (proc : FwProc) (cause : FwCause)
  | svnFloorRaise
  | activationDeferredStart (verifyOk : Bool)
  | clampPowerStep (watts : BitVec 11)
  | clampCurrentLimit (die : DieId) (amps : BitVec 10)
  | clampDieThermal (die : DieId) (temp : BitVec 8)
  | optThermal (eng : Fin 2) (temp : BitVec 8)
  | vidAck (addr : BitVec 7) (seq : BitVec 4) (mvN mvS : BitVec 10) (senseN senseS : BitVec 10)
  | vidTimeout
  | voltageAlarm (die : DieId) (high : Bool)
  | voltageAlarmClear (die : DieId)
  | telClear (die : DieId) (ctx : CtxId)
  | telClearDone (die : DieId) (ctx : CtxId)
  | rbApertureRead (k : Fin 4) (off : BitVec 24)
  | registerWrite (off : BitVec 28) (width : BitVec 4) (value : BitVec 64)
  | vddAonRemoval
  | cxlLinkTraining (res : CxlEnd)
  | pllLossOfLock (die : DieId) (pll : Pll)
  | hostWindowResponse (p : CoreId) (eng : Engine) (ans : HostAnswer) (data : List Byte)
  deriving DecidableEq, Repr

end Sys2Proof
end

