-- ==== Sys2Proof/Decode.lean ====
section
/-!
DEFINITION. Reading a command from a word. No row of the table of operations and events gives its command any bits, so no
word spells one; the TIS encodings of the instructions (which the manual gives apart from that table) are in Machine/Tis.lean.
-/
namespace Sys2Proof

/-- The command a word of the table spells: none, since no row has bits. -/
def decodeTableWord (_nbits _w : Nat) : Option Instr := none

end Sys2Proof
end

