-- ==== Sys2Proof/Config.lean ====
section
/-!
DEFINITION. Values the manual leaves open and that the machine goes on with: opaque constants, of which nothing can be proved.
Each is applied to a counter of the state or to the operands it depends on.
-/
namespace Sys2Proof

/-- A free choice between two outcomes the manual allows, one for each draw. -/
opaque Config.freeBool : Nat → Bool

/-- A free 64-bit value, one for each draw. -/
opaque Config.freeWord : Nat → BitVec 64

/-- A free byte, one for each draw. -/
opaque Config.freeByte : Nat → BitVec 8

/-- The result of VEC.EXP2 or VEC.LOG2 where the model's own bound arithmetic cannot decide the rounding (never met: the log
entry on transcendental results says why). -/
opaque Config.undecided : BitVec 32 → BitVec 32

/-- The fused voltage-frequency curve of the unit: VDD_CORE set point in mV for a core clock in MHz. The manual gives no values. -/
opaque Config.vfCurve : Nat → Nat

/-- The SHA3-512 digest of a section of the image that the factory put into a flash slot: slot × 4 + KIND. -/
opaque Config.factoryDigest : Nat → BitVec 512

/-- The key hashes fused into the factory's units: 0 of the firmware key, 1 of the jig key. -/
opaque Config.keyHash : Nat → BitVec 512

/-- Whether an ML-DSA-87 signature verifies (FIPS 204): key, message, signature. -/
opaque Config.sigVerifies : List (BitVec 8) → List (BitVec 8) → List (BitVec 8) → Bool

/-- The bytes of the factory's default jig package, by offset. -/
opaque Config.factoryPkg : Nat → BitVec 8

/-- The number of a sub-code that the manual names and gives no number. -/
opaque Config.subCode : Nat → BitVec 16

end Sys2Proof
end

