-- ==== Sys2Proof/Machine/State.lean ====
section
/-!
DEFINITION. The state of the Fanik block: every register of the manual (the BAR0 register file `regs`), every memory,
queue, buffer and pin the manual gives the chip, and the queue of waiting commands. Plain data throughout.
Registers live in `regs` under their own BAR0 offset, one 64-bit word for each naturally aligned 8-byte slot (R407);
an offset that is not listed holds the reset value of its register.
-/
namespace Sys2Proof.Machine

/-- A finite map from natural-number keys, keys strictly rising; what an unlisted key holds is said where it is read. -/
abbrev SMap (α : Type) := List (Nat × α)

/-- Byte memory: listed bytes only, addresses strictly rising, no listed byte zero; an unlisted byte reads as zero. -/
abbrev Memory := List Host.Cell

/-- The canonical form of a byte memory. -/
def Memory.wf : Memory → Bool
  | [] => true
  | [(_, b)] => b != 0
  | (a, b) :: (a', b') :: m => b != 0 && decide (a < a') && Memory.wf ((a', b') :: m)

/-- Seal and state of one 2 KiB tile (R40, R195). -/
structure TileMeta where
  sl : BitVec 32 := 0
  st : TState := .unwritten
  deriving DecidableEq, Repr

/-- A tiled memory: bytes, and the sideband of seals and states; an unlisted tile is UNWRITTEN with seal 0. -/
structure Tiled where
  bytes : Memory := []
  tiles : SMap TileMeta := []
  deriving DecidableEq, Repr

/-- Where a translated address lies (R217, R223, R226). -/
inductive Target where
  | spd (a : Nat)                    -- this core's scratchpad, core-local address
  | hbm (a : Nat)                    -- this chip's HBM, local address
  | remote (chip : BitVec 17) (a : Nat)  -- a fabric request
  | host (a : Nat)                   -- the host window, host physical address
  deriving DecidableEq, Repr

/-- A scalar load issued and not yet committed (R149, R151). -/
structure LoadWait where
  rd     : SReg
  size   : Nat
  signed : Bool
  tgt    : Target
  tag    : Option (BitVec 16) := none
  data   : Option (List Byte × Bool) := none
  err    : Bool := false
  chk    : Bool := false     -- the whole-tile read of a CHK.STATE (R165)
  since  : Word := 0         -- when it was issued
  old    : Bool := false     -- translated before the last INVAL (R225)
  deriving DecidableEq, Repr

/-- A BLY.WAIT that is not yet satisfied (R50, R293). -/
structure BlyWait where
  cell     : Nat
  target   : Word
  deadline : Word
  since    : Word
  coll     : Bool
  limit    : Word := 0             -- COLL = 1: the collective timeout, read when the wait began (R293)
  idleAt   : Option Word := none   -- when the core entered WAIT_IDLE
  deriving DecidableEq, Repr

/-- A posted sequencer store that is not yet accepted (R234). -/
structure Posted where
  tgt  : Target
  data : List Byte
  tag  : Option (BitVec 16) := none
  old  : Bool := false       -- translated before the last INVAL (R225)
  deriving DecidableEq, Repr

/-- A DMA descriptor with its scalar operands read at issue (R148, R160, R161). -/
inductive DmaOp where
  | copy (ssp dsp : Space) (src dst : Word) (len : Nat) (wait : Option (Nat × Word)) (inc : Option (Nat × Nat))
      (shaped : Bool)
  | shape (rows sstr dstr : Word)
  deriving DecidableEq, Repr

/-- A piece of a DMA copy, inside one source tile and one destination tile. -/
structure DmaPiece where
  ssp : Space
  dsp : Space
  src : Nat
  dst : Nat
  n   : Nat
  deriving DecidableEq, Repr

/-- What a DMA descriptor has still to do, in order: read a piece, or write bytes already read (with the seal and state a whole
aligned tile carries, R46). -/
inductive DmaTodo where
  | piece (p : DmaPiece)
  | store (dsp : Space) (dst : Nat) (data : List Byte) (poison : Bool) (whole : Option TileMeta)
  deriving DecidableEq, Repr

/-- The DMA descriptor in progress. `status` is the first error status met, 0 if none (R424). -/
structure DmaActive where
  inc     : Option (Nat × Nat)
  todo    : List DmaTodo
  status  : Nat := 0
  wrotePoison : Bool := false
  deriving DecidableEq, Repr

/-- Whose work it is: context 0 to 15, or the pattern of a jig run (R330). -/
abbrev Owner := Fin 17

/-- A DMA engine (R44). A fresh engine's shape is one row and zero strides (R161). -/
structure DmaEng where
  queue  : List (DmaOp × Owner) := []
  active : Option (DmaActive × Owner) := none
  rows   : Word := 1
  sstr   : Word := 0
  dstr   : Word := 0
  since  : Word := 0      -- when the head of the queue reached the head, and the timeout that applies to its wait (R47)
  limit  : Word := 0
  jig    : Nat × Nat × Nat := (1, 0, 0)   -- rows and strides of a jig's pattern
  deriving DecidableEq, Repr

/-- What a cube takes into a step at its grant (R65, R69): the streamed block and whether it arrived poisoned, the slot's block and
scales, and the slot's poison. -/
structure CubFeed where
  cube    : Nat
  blk     : List Byte
  poison  : Bool
  b       : BitVec 8192
  sb      : BitVec 256
  sa      : BitVec 4096
  spoison : Bool
  deriving DecidableEq, Repr

/-- A ring step that has been granted and waits for its accumulator update (R69): what each cube of the mask takes into it. -/
structure CubUpd where
  d     : CubMma
  step  : Nat
  blocks : List CubFeed
  base  : Nat := 0               -- A_BASE of the MMA
  deriving DecidableEq, Repr

/-- A queued CUB instruction with its addresses formed at issue (R148, R162). -/
inductive CubOp where
  | lds (d : CubLds) (base : Nat)
  | ldsc (d : CubLdsc) (baseB baseA : Nat)
  | mma (d : CubMma) (base : Nat) (granted : Nat)
  | drain (d : CubDrain) (base : Nat)
  | reseed (slot : Fin 2) (seed : BitVec 32)   -- a seed that takes effect after the instructions before it (R115)
  deriving DecidableEq, Repr

/-- One cube (R60, R425). Poison marks are per part of a slot: block, B scales, A scales (R71). Term counts, ACCUM_LONG
flags, counters and duty stand in the cube's registers. -/
structure Cube where
  block0 : BitVec 8192 := 0
  block1 : BitVec 8192 := 0
  bsc0   : BitVec 256 := 0
  bsc1   : BitVec 256 := 0
  asc0   : BitVec 4096 := 0
  asc1   : BitVec 4096 := 0
  mark0  : BitVec 3 := 0
  mark1  : BitVec 3 := 0
  acc    : BitVec 8192 := 0
  lastFmt : Option Fmt := none
  deriving DecidableEq, Repr

/-- A resident slot of a core beyond what CORE_STATUS shows. -/
structure Slot where
  started : Bool := false
  halted  : Bool := false
  saved   : Bool := false        -- its save area holds an image of it (R54)
  fresh   : Bool := false        -- its program has not begun on this core: its DMA shapes are still to be set (R161)
  deriving DecidableEq, Repr

/-- The run-ahead window (R33 to R37): shadow registers and those among them whose value is not known, the addresses of the instructions
run ahead in their order, the instruction they follow (while it has not committed), where run-ahead goes on, and the buffered
speculative reads. -/
structure RunAhead where
  sregs : SMap Word := []
  unknown : List Nat := []
  path  : List Word := []
  base  : Option Word := none
  pc    : Word := 0
  buf   : List (Target × List Byte × Bool) := []   -- true: the tile was written since (R37)
  dropped : Bool := false                          -- the plinth has dropped the read that run-ahead waits for (R201)
  deriving DecidableEq, Repr

/-- Counts of one CVT instruction not yet delivered to the die's counters (R185). -/
structure TelDue where
  ctx  : Owner
  tag  : Nat
  fmt  : Nat
  produced : Nat
  overs : Nat
  van  : Nat
  sub  : Nat
  deriving DecidableEq, Repr

/-- A jig run in progress on a core (R330). -/
structure JigRun where
  start   : Word
  pattern : Nat
  variant : Nat
  inject  : Nat       -- INJECT of the pattern (Table 106)
  gated   : Bool
  unfence : Bool
  began   : Option Word := none            -- when the pattern began (Table 105 step 4); none while the core wakes for it
  code    : List (Nat × Nat × Nat) := []   -- its code sections: first virtual address, bytes, core-local address
  halted  : Bool := false                  -- it has executed CTL.HALT
  ctxErr  : Bool := false                  -- it has raised a context error
  bench   : Bool := false                  -- a seal of the jig bench has failed, or a read of it met poison
  cubes   : Nat := 0                       -- residue failures of cubes and of the vector engine, register parity failures
  vecs    : Nat := 0
  parity  : Nat := 0
  words   : SMap Word := []                -- what the registers held that a jig does not change (R333)
  uninit  : Nat := 0
  fmts    : List (Option Fmt) := []
  deriving DecidableEq, Repr

/-- One physical core beyond its register window. -/
structure Core where
  sregs  : SMap Word := []
  vregs  : SMap VWord := []
  spd    : Tiled := {}          -- core-local addresses 0 to 0x0187_FFFF, jig bench included (R38, R328)
  cubes  : SMap Cube := []
  cubeQ  : List (CubOp × Owner) := []
  upds   : List (CubUpd × Owner) := []
  dma    : SMap DmaEng := []
  slot0  : Slot := {}
  slot1  : Slot := {}
  load   : Option LoadWait := none
  wait   : Option BlyWait := none
  posted : List Posted := []
  ahead  : Option RunAhead := none
  fetched : List Nat := []       -- tiles of virtual addresses whose fetch has been translated and checked
  yielding : Bool := false
  seqP   : Option (BitVec 1) × Option (BitVec 6) × Option (BitVec 1) := (none, none, none)
  seedP0 : Option (BitVec 32) := none
  seedP1 : Option (BitVec 32) := none
  tel    : List TelDue := []
  jig    : Option JigRun := none
  unfenceLeft : List Nat := []   -- patterns of an UNFENCE package still to run (R338)
  deriving DecidableEq, Repr

/-- One core entry of a load (R170, R312). -/
structure CtxCore where
  logical  : Nat
  phys     : CoreId
  slot     : Fin 2
  granules : Nat
  cells    : Nat
  base     : Nat      -- first granule
  cellBase : Nat
  entry    : Word
  arg      : Word
  deriving DecidableEq, Repr

/-- Life of a context number. A load that waits for its cores to wake is LOADING (Table 19). -/
inductive CtxPhase where
  | absent | loading | loaded | running
  deriving DecidableEq, Repr

/-- An error record (Table 109) as the device holds it. -/
inductive RecState where
  | queued | active | done | covered
  deriving DecidableEq, Repr

structure ErrRec where
  ts     : Word := 0
  cls    : BitVec 8 := 0
  sev    : BitVec 8 := 0
  cause  : BitVec 16 := 0
  ctx    : BitVec 8 := 0xFF
  st     : RecState := .queued
  preempted : Bool := false
  escalated : Bool := false
  unit   : BitVec 16 := 0
  addr   : Word := 0
  detail : BitVec 32 := 0
  seq    : BitVec 32 := 0
  deriving DecidableEq, Repr

/-- An error log (R346): entries by place 0 to 63. -/
structure ErrLog where
  entries : SMap ErrRec := []
  next    : BitVec 32 := 0
  overflows : Nat := 0
  lost    : Bool := false
  deriving DecidableEq, Repr

/-- A queued SPL instruction (R148, R272). -/
inductive SplOp where
  | run (kind : Nat) (fmt : BitVec 4) (src dst : Word) (n : Nat) (wait : Option (Nat × Word)) (inc : Option (Nat × Nat))
  | batch (list : Nat) (count : Nat) (wait : Option (Nat × Word)) (inc : Option (Nat × Nat))
  | counts (src dst : Word) (k : Nat) (wait : Option (Nat × Word)) (inc : Option (Nat × Nat))
  deriving DecidableEq, Repr

/-- One stream of a collective: a source, a destination and a block length in bytes (R269, R289). -/
structure Stream where
  kind  : Nat
  fmt   : BitVec 4
  src   : Word
  dst   : Word
  block : Nat
  deriving DecidableEq, Repr

/-- A chunk to be sent to a receiver: a chip index, or 2^17 + p for switch plane p. With data it stands in a send buffer, or waits in a
receive buffer for one; without data it carries this member's own chunk, read when it is sent. -/
structure SplSend where
  key    : Nat
  ckind  : CKind
  chunk  : Nat
  member : Nat
  data   : Option (List Byte × Bool)
  last   : Bool
  deriving DecidableEq, Repr

/-- A destination write that is not yet accepted; `held`: the local address at which it waits for an urgent copy (R373). -/
structure SplWrite where
  va     : Nat
  data   : List Byte
  poison : Bool
  held   : Option Nat := none
  deriving DecidableEq, Repr

/-- A receive buffer in use (R268, R285): the chunk that came into it, the running sum that waits in it for this member's own contribution,
the chunks that wait in it for a send buffer, and the destination writes made from it. It is free once nothing of these is left. -/
structure SplRecv where
  key    : Nat
  ck     : CKind
  chunk  : Nat
  sum    : Option (List Byte × Bool) := none
  fwd    : List SplSend := []
  writes : List SplWrite := []
  deriving DecidableEq, Repr

/-- The collective in progress of a group (R272 to R294). A stream is named by 4 × (chip index, or 2^17 + p for switch plane p) + CKIND. -/
structure Coll where
  streams : List Stream
  inc     : Option (Nat × Nat)
  counts  : Option Nat := none
  seq     : BitVec 32
  deadline : Word
  ext     : Option (BitVec 17 × Nat) := none   -- the member and site whose pause extended the deadline last
  ready   : List (Nat × BitVec 24) := []       -- READY received by a leader: member and port mask
  planes  : BitVec 24 := 0
  mode    : Option Bool := none                -- some true: traverse mode; some false: switch mode
  attempt : Nat := 0
  claimAt : Word := 0
  retryAt : Option Word := none
  granted : BitVec 24 := 0
  held    : Bool := false                      -- holds switch slots
  recv    : List SplRecv := []                 -- receive buffers in use
  given   : SMap Nat := []                     -- credits given, by incoming stream
  came    : SMap Nat := []                     -- chunks received, by incoming stream
  next    : SMap Nat := []                     -- one past the highest chunk received, by incoming stream
  rot     : Option Nat := none                 -- the stream that was granted a buffer last
  send    : List SplSend := []                 -- chunks to be sent; those with data stand in send buffers
  credits : SMap Nat := []                     -- credits held, by outgoing stream
  sent    : SMap Nat := []                     -- chunks sent, by outgoing stream
  unacked : List (Nat × Nat) := []             -- chunks sent and not yet acknowledged: outgoing stream and chunk
  own     : List Nat := []                     -- chunks of this member's own block still to be written at its destination
  starts  : List Nat := []                     -- running sums that this member still has to begin (segment 0, R279)
  carry   : SMap (List Byte × Bool) := []      -- CARRY chunks given to a plane, kept until its output arrives (R288)
  outs    : List Nat := []                     -- chunks whose segment output the leader has received
  asked   : List Nat := []                     -- parts of source chunks requested from elsewhere
  parts   : SMap (List Byte × Bool) := []      -- those parts, by 64 × chunk + part
  writes  : List SplWrite := []                -- destination writes not yet accepted that come from no receive buffer
  done    : List (Nat × Nat) := []             -- destination chunks: member and chunk
  lost    : BitVec 24 := 0                     -- planes lost in switch mode
  redo    : List Nat := []                     -- chunks that are summed again in traverse mode (R288)
  relay   : List Nat := []                     -- chunks of lost planes whose RESULT still passes from member to member
  poisoned : Bool := false
  status  : BitVec 4 := 0
  deriving DecidableEq, Repr

/-- A group reserved at load (R268). -/
structure Group where
  desc  : BitVec 128 := 0
  phys  : CoreId := 0
  die   : DieId := 0
  seq   : BitVec 32 := 0
  queue : List SplOp := []
  waitSince : Word := 0
  waitDeadline : Word := 0
  waitLimit : Word := 0                        -- the collective timeout, read when the wait began (R293)
  waitExt : Option (BitVec 17 × Nat) := none
  cur   : Option Coll := none
  early : List (Nat × SplCtl) := []            -- READY and CREDIT for a collective this member has not started yet
  deriving DecidableEq, Repr

/-- A BIV_RESTART whose manifests are being read (Table 126 step 3): its channel, the addresses of the slots, and the manifests read so far;
one that could not be read, or that the request does not name, is empty. -/
structure BivRst where
  ch   : MbxId
  srcA : Nat
  srcB : Nat
  manA : Option (List Byte) := none
  manB : Option (List Byte) := none
  deriving DecidableEq, Repr

/-- Bivouac state of a context beyond its registers (R370 to R383). -/
structure Biv where
  configured : Bool := false
  dirtyA  : List Nat := []
  dirtyB  : List Nat := []
  pend    : List Nat := []     -- pages PENDING
  toSend  : List Nat := []     -- pages of the snapshot set not yet sent
  reserve : List Nat := []     -- pages held as copies in the reserve
  copies  : SMap Tiled := []   -- those copies, tile numbers relative to the page
  held    : List (Nat × Word) := []  -- pages with writes held, and since when
  trig    : List Word := []    -- values of trigger increments not yet acted on
  set     : List Nat := []     -- the snapshot set of the stream in progress
  streamSeq : BitVec 32 := 0
  step    : Word := 0
  tsMark  : Word := 0
  poisonTiles : Nat := 0
  exp     : BitVec 8 := 0
  clean   : BitVec 16 := 0
  acks    : Nat := 0           -- WR_ACKs outstanding
  final   : Bool := false      -- the manifest with VALID = 1 has been sent
  rst     : Option BivRst := none
  pulled  : Nat := 0           -- pages of a restart that have been written
  pulling : Nat := 0           -- tiles of the page being pulled that are not yet written
  ending  : Bool := false      -- the chosen manifest is being read again
  srcSlot : Word := 0
  manifest : List Byte := []
  restored : Bool := false     -- a restart has set E and C, which START keeps (R383)
  deriving DecidableEq, Repr

/-- One context. -/
structure Ctx where
  phase  : CtxPhase := .absent
  fenced : Bool := false
  halted : Bool := false         -- the HALTED completion has been written (R305)
  part   : PartId := 0
  cores  : List CtxCore := []
  extents : List (Nat × Nat) := []   -- HBM extents: base and bytes (R312)
  reserve : List (Nat × Nat) := []   -- bivouac copy reserve
  tags   : Nat := 0
  slots  : Nat := 0                  -- scale slots (R177)
  check  : BitVec 32 := 0
  imageBytes : Nat := 0
  ports  : BitVec 32 := 0
  groups : SMap Group := []
  loadCh : Option MbxId := none      -- the channel that the reply of a load in progress goes to
  lsN    : Option (BitVec 16) := none
  lsMin  : Option (BitVec 8) := none
  lsMax  : Option (BitVec 8) := none
  inval  : List (BitVec 16) := []    -- requests translated before the last INVAL that have no response yet
  scaTodo : List Nat := []           -- scale slots whose CUR_CODE the start of the context has still to set (R177)
  telBusy : BitVec 2 := 0
  cause  : Option ErrRec := none     -- the error that fenced the context
  biv    : Biv := {}
  deriving DecidableEq, Repr

/-- One entry of a plinth's write-combining buffer (R199). -/
structure WcbEntry where
  tile   : Nat
  bytes  : SMap Byte          -- written bytes by offset in the tile
  poison : Bool
  born   : Word
  touched : Nat
  deriving DecidableEq, Repr

/-- Who waits at a plinth for the data of a read (R206). -/
inductive Reader where
  | port                              -- an HBM_READ: the data goes out as it is
  | host                              -- a CXL.mem read of one line
  | eng (e : Engine) (p c : Nat)      -- an engine of core `p` for context `c`
  | fetch (p c : Nat)
  | walk (c : Nat)
  | fab (src : BitVec 17) (stream tag : BitVec 16)   -- a request of another chip
  deriving DecidableEq, Repr

/-- A request for a held channel, in arrival order (R204, R206): a parked whole-tile write, the parked merge of a write-combining entry that
a read has called for (R200), or a read with the sectors that are corrected on its way. -/
inductive Parked where
  | merge (tile : Nat) (bytes : SMap Byte) (poison : Bool)
  | whole (a : Nat) (data : List Byte) (m : TileMeta)
  | read (who : Reader) (a n ce : Nat)
  deriving DecidableEq, Repr

/-- The data of a read that waited in the read queue, for the engine that asked for it: with the tile's seal and state. -/
structure Served where
  who    : Reader
  addr   : Nat
  n      : Nat
  data   : List Byte
  poison : Bool
  m      : TileMeta
  deriving DecidableEq, Repr

/-- A SPEC request that waits at a plinth (R201): an HBM_READ, or the speculative read of a core's run-ahead. -/
structure SpecWait where
  core  : Option Nat
  addr  : Nat
  n     : Nat
  since : Word
  deriving DecidableEq, Repr

/-- Per-channel training state (R204, R205). -/
structure Chan where
  trained : Option (Word × Nat) := none   -- when and at what temperature it was last trained; none: with the whole stack
  fails   : Nat := 0                      -- consecutive failed trainings
  ces     : List (Word × Nat) := []       -- corrected sectors of the last second
  deriving DecidableEq, Repr

/-- What a read of the bivouac engine fetches in a restart (R382, R383): one of the two manifests, the chosen manifest again, or a tile of
the image for a local address. -/
inductive BivRead where
  | manifest (second : Bool)
  | again
  | tile (a : Nat)
  deriving DecidableEq, Repr

/-- A device write that waits for the host to give up lines it holds (R300): the lines, the bytes, the seal and state of a
whole-tile write, and the fabric request to acknowledge. -/
structure BiWait where
  lines  : List Nat
  addr   : Nat
  data   : List Byte
  poison : Bool
  whole  : Option TileMeta
  ack    : Option FabHdr
  held   : Bool := false     -- it has been held for an urgent copy: it completes whatever is fenced (R373, R379)
  host   : Bool := false     -- a write of the host itself, which asks no line of the host back
  pull   : Option Nat := none  -- a tile of this context's restart (R382)
  deriving DecidableEq, Repr

/-- One plinth beyond its registers. -/
structure Plinth where
  wcb    : List WcbEntry := []
  merging : List Nat := []
  stamp  : Nat := 0
  chans  : SMap Chan := []
  queue  : List Nat := []            -- retraining requests at the hut core
  hold   : Option (Nat × Word) := none
  parked : List Parked := []
  served : List Served := []         -- data of reads that waited, not yet taken
  specs  : List SpecWait := []
  stoppedAt : Option Word := none
  notices : List (BitVec 16 × BitVec 40) := []   -- SEQ and BOX of the notices of the present pause
  trained : Word := 0                -- when the whole stack was trained, and its first reading since
  temp   : Option Nat := none
  deriving DecidableEq, Repr

/-- A request this chip has outstanding: a fabric request (class 1 RD_REQ, 2 WR_REQ, 3 BLY_INC; R228, R232) or a host-window
access (class 4 read, 5 write; R301). -/
structure OutReq where
  tag     : BitVec 16
  cls     : Nat
  chip    : BitVec 17 := 0
  addr    : Nat
  len     : Nat
  core    : Nat
  eng     : Engine
  ctx     : Nat
  biv     : Bool := false        -- issued by the bivouac engine
  pull    : Option BivRead := none  -- a read of a restart
  deadline : Word
  first   : Word                 -- when it was first sent
  port    : Option Nat := none   -- port it left through
  replayed : Bool := false
  piece   : Option DmaPiece := none
  data    : List Byte := []
  poison  : Bool := false
  whole   : Option TileMeta := none
  amount  : BitVec 32 := 0
  pc      : Word := 0            -- address of the store or BLY.INCA that issued it
  deriving DecidableEq, Repr

/-- A flit in a port's retry buffer, or one that waits for room there (R242, R243): its virtual channel, and the requests of other chips
whose last byte it carries, by their first 32 bytes (R254). -/
structure Flit where
  vc   : Nat
  ends : List (BitVec 256) := []
  deriving DecidableEq, Repr

/-- The training of a port (R245, R248): when it began, whether it takes the fast path, and by how much restarts of its hut core have
lengthened its bound. -/
structure Training where
  start : Word
  fast  : Bool
  extra : Nat := 0
  deriving DecidableEq, Repr

/-- One link port beyond its registers (R242 to R248). Of `flits` the first 2048 at most stand in the retry buffer, numbered from `base` on. -/
structure Port where
  rx      : BitVec 12 := 0           -- sequence number expected next
  base    : BitVec 12 := 0           -- sequence number of the oldest flit not acknowledged
  flits   : List Flit := []          -- flits not acknowledged, oldest first
  fill    : Nat := 0                 -- payload bytes used in the newest flit, and when it was filled last
  fillAt  : Word := 0
  used    : SMap Nat := []           -- flits sent on a virtual channel and not yet credited
  since   : Word := 0                -- last ACK, or the first flit sent since
  replays : Nat := 0                 -- consecutive replays of the oldest flit
  train   : Option Training := none
  settings : Option Nat := none      -- saved lane settings: the index of the free values that training has found (R246)
  saveDue : Bool := false            -- settings not yet copied to flash (R246)
  deriving DecidableEq, Repr

/-- An entry of the pause table (R259). -/
structure Pause where
  src    : BitVec 17
  site   : BitVec 3
  seq    : BitVec 16
  expiry : Word
  deriving DecidableEq, Repr

/-- An open coalescing window (R262). -/
structure WitWin where
  key    : WitKey
  src    : BitVec 17
  firstTs : Word
  count  : Nat
  opened : Word
  own    : Bool          -- opened by this chip's own filing
  deriving DecidableEq, Repr

/-- One submission queue beyond its registers (R302 to R306). -/
structure Queue where
  entries : List SqEntry := []   -- fetched, not yet completed, in ring order
  tail    : Nat := 0
  cqHead  : Nat := 0
  cqTail  : Nat := 0
  unread  : Nat := 0               -- completions the host has not consumed
  phase   : Bool := true
  deriving DecidableEq, Repr

/-- One MSI-X vector (R308). -/
structure Msix where
  addr    : Word := 0            -- message address and data, as the host wrote them
  data    : BitVec 32 := 0
  masked  : Bool := true
  pend    : Bool := false
  due     : Bool := false        -- entries written whose GO has not come
  ready   : Bool := false        -- entries whose GO has come and that no message has announced
  last    : Option Word := none
  holdoff : BitVec 16 := 0
  deriving DecidableEq, Repr

/-- The CXL.cache requests of the host window (R301). -/
inductive CxlKind where
  | rdCurr       -- read of one 64 B line, cached nowhere
  | itoMWr       -- write of a whole 64 B line
  | wrCur        -- write of part of a line
  deriving DecidableEq, Repr

/-- What the chip sends: fabric and link messages, host traffic, bus answers. -/
inductive Out where
  | fab (cls : Nat) (port : Option Nat) (rw : Option RouteWord) (replay : Bool) (h : FabHdr) (data : List Byte)
  | forward (port : Nat) (rw : Option RouteWord) (msg : BitVec 256)
  | deliver (msg : BitVec 256)
  | nak (port : Nat) (seq : BitVec 12)
  | ack (port : Nat) (seq : BitVec 12) (credit : BitVec 32)      -- CREDIT: 8 bits for each virtual channel (Table 81)
  | replayFrom (port : Nat) (seq : BitVec 12) (n : Nat)          -- flits sent again: the first and how many
  | notice (endp : Bool) (port : Nat) (n : Notice)
  | witness (port : Nat) (rw : Option RouteWord) (m : Witness)
  | splCtl (ctype : Nat) (port : Option Nat) (rw : Option RouteWord) (m : SplCtl)
  | chunk (port : Option Nat) (rw : Option RouteWord) (c : Chunk) (payload : List Byte)
  | completion (q : QueueId) (slot : Nat) (entry : BitVec 128)
  | msix (v : Nat)
  | bisnp (line : Nat)
  | sqFetch (q : QueueId) (head tail : Nat)
  | cxlReq (k : CxlKind) (hpa : Nat) (data : List Byte)
  | hostWrite (hpa : Nat) (data : List Byte)
  | memData (off : Nat) (data : List Byte) (poison : Bool)
  | lineGrant (line : Nat)
  | plinthData (addr : Nat) (data : List Byte) (m : TileMeta) (poison : Bool)
  | specDrop (addr : Nat)
  | refused (addr : Nat)
  | barRead (off : Nat) (value : Word)
  | busError (off : Nat)
  | flash (what : Nat)
  | ibi
  deriving DecidableEq, Repr

/-- Fused data of the unit and board straps (R2, R3, R26, R30). -/
structure Fuses where
  part    : BitVec 16
  stepping : BitVec 8
  stackMask : BitVec 8
  ropes   : BitVec 24
  ridges  : BitVec 8
  clkCap  : Nat
  pwrCap  : Nat
  modes   : BitVec 3
  spares  : BitVec 104       -- physical cores that are spares
  off     : BitVec 104       -- physical cores fused off
  ident   : SMap (BitVec 128)  -- identity records as their fuses hold them; VALID is set when one is read (R26)
  svn     : BitVec 32
  fwKey   : BitVec 512       -- firmware and jig key hashes (R336, R394)
  jigKey  : BitVec 512
  deriving DecidableEq, Repr

/-- What the two flash devices hold (R393). -/
structure Flash where
  repair  : SMap (BitVec 2 × BitVec 5 × Bool × BitVec 24) := []  -- REPAIR_STATE, REPAIR_CH, EXHAUSTED, WATERMARK by site
  links   : SMap Nat := []        -- saved lane settings by port (R246)
  fenced  : BitVec 104 := 0
  epoch   : BitVec 32 := 0
  unfEpoch : BitVec 32 := 0
  digests : SMap (List (BitVec 512)) := []   -- SHA3-512 of the sections of a slot's image, where it is not the factory's
  pkg     : Option (List Byte) := none   -- the jig package of the jig regions; none: the firmware image's default package serves
  defPkg  : SMap (List Byte) := []  -- the default jig package of a slot's image, where it is not the factory's
  active  : Bool := false         -- boot selector: false A, true B
  version : SMap Word := []       -- VERSION of slot A (0) and slot B (1)
  imgSvn  : SMap (BitVec 32) := []
  raise   : SMap Bool := []       -- RAISE_SVN of each slot's image
  staged  : Bool := false         -- the staged marker
  deriving DecidableEq, Repr

/-- The jig machinery of the chip (R329, R337, R338). -/
structure Jig where
  store  : List Byte := []          -- the jig store; empty while it holds the factory's default package, whose bytes are free values
  default : Bool := true            -- a default package serves (R337)
  inject : List Nat := []           -- INJECT of each pattern of the installed package
  lastStart : Option Word := none
  unf    : List Byte := []          -- the UNFENCE package under test (R338)
  awaiting : List (CoreId × Nat × Word) := []   -- fenced cores, their logical numbers that wait for a spare, and since when (R341)
  results : SMap Nat := []          -- result of each core's last completed run; an abandoned run is none (R331)
  flashDue : Bool := false
  fenceDue : Bool := false
  deriving DecidableEq, Repr

/-- A reset in progress (R356). Levels: 1 context, 2 engine, 3 partition, 4 chip. -/
structure ResetRun where
  level  : Nat
  target : Nat
  log    : Fin 21
  start  : Word
  bound  : Option Word := none   -- end of a base-camp restart since, which its bound counts from (R358)
  lost   : Bool := false         -- it is the reset that LOST_ACTION of its log demands (R349)
  cseq   : Option (BitVec 32) := none   -- SEQ of the cairn it has collected (R359)
  paused : Nat := 0              -- ticks since its bound began in which a stack of its partition was STOPPED, and since when one is (R356)
  pauseAt : Option Word := none
  deriving DecidableEq, Repr

/-- One stored cairn (R364, R365). -/
structure Cairn where
  slot  : Nat
  level : Nat
  flags : BitVec 8
  seq   : BitVec 32
  target : BitVec 16
  tsStart : Word
  tsEnd : Word
  trigger : ErrRec
  used  : Nat := 0                                  -- bytes of the slot used
  units : List (BitVec 16 × BitVec 8 × BitVec 32)   -- UNIT, STATUS, FAIL_ADDR; while collecting, those found UNREACHABLE
  deriving DecidableEq, Repr

/-- Resets, cairns and firmware processors (ch. 15, ch. 17). -/
structure Recov where
  runs    : List ResetRun := []
  chipEnd : Option Word := none       -- end of the last chip reset (R361)
  cairn   : Option Cairn := none      -- the cairn being collected
  cairnBase : Word := 0               -- what its time limit counts from: its start, or a base-camp restart since (R358, R363)
  cairnRead : Word := 0               -- when the collector's present read entered its crossing (R362)
  cairnQ  : List (Nat × Nat × ErrRec) := []   -- resets whose cairn waits for the one being collected: level, target and trigger (R363)
  cairns  : List Cairn := []          -- stored cairns, newest first
  slots   : SMap Memory := []         -- contents of the cairn slots written (Table 119)
  ring    : Nat := 0                  -- next entry of CRN_AON
  boot    : Option (Bool × BitVec 104 × BitVec 104) := none  -- a start that awaits its ports: warm; cores whose march test or jigs fail
  bcRestarts : List (Word × Bool) := []   -- times of base-camp restarts; true: by its watchdog
  reports : List (List Byte) := []    -- CTX_ERROR payloads of a chip reset, written as events when the chip is ready
  hutNRestarts : List Word := []
  hutSRestarts : List Word := []
  mboxReset : List (MbxId × Nat × Nat) := []  -- RESET requests waiting for their domain to be ready: channel, level and target
  quar    : List (CtxId × List (Nat × Nat)) := []   -- quarantined extents (R354)
  deriving DecidableEq, Repr

/-- Firmware, measurement log and activation (R393 to R400). -/
structure Fw where
  mlog     : List (BitVec 1024) := []
  digest   : BitVec 512 := 0
  activatedAt : Option Word := none
  clearSince : Option Word := none    -- EMERGENCY has read 0 since (R400)
  raiseSvn : Bool := false
  imgSvn   : BitVec 32 := 0
  prevSlot : Option Bool := none      -- the slot that ran before the last activation
  waited   : Bool := false            -- that activation was a deferred one
  deriving DecidableEq, Repr

/-- The clamp's rules for one die (R401, R402): whether the die-thermal, current and voltage rules apply, by how many MHz they hold the
clock below the cap, when the thermal rule last stepped, the VDD_CORE set point posted to the tray, and the clock it is meant for. -/
structure DieClamp where
  hot     : Bool := false
  current : Bool := false
  alarm   : Bool := false
  heatMhz : Nat := 0
  curMhz  : Nat := 0
  step    : Option Word := none
  mv      : Nat := 700
  want    : Nat := 0
  deriving DecidableEq, Repr

/-- The clamp (R401, R402). -/
structure Clamp where
  north   : DieClamp := {}
  south   : DieClamp := {}
  optHot  : BitVec 2 := 0
  optDown : BitVec 2 := 0             -- optical engines whose ridge ports are taken down (Table 14)
  powMhz  : Nat := 0                  -- by how much the package power rule holds both clocks below the cap
  powStep : Option Word := none
  limTicks : Nat := 0                 -- ticks with POWER_LIMITING set that make no whole millisecond yet
  vidSeq  : BitVec 4 := 0             -- SEQ of I3C register VID_REQ
  vidOpen : Option Word := none       -- an unacknowledged request, and when it was posted
  vidLate : Bool := false             -- its 1 ms has passed
  waking  : List Nat := []            -- cores whose wake the clamp has admitted, by physical number (R58)
  deriving DecidableEq, Repr

/-- Pins and power (Table 10). Active-low pins are held as "asserted". -/
structure Pins where
  aon      : Bool := false   -- VDD_AON in tolerance and the always-on domain started
  pwrGood  : Bool := false
  hold     : Bool := true
  trip     : Bool := false   -- THERM_TRIP_N asserted
  tripSrc  : Nat := 0
  tripIdx  : Nat := 0
  fault    : Bool := false   -- FAULT_N asserted
  mgtAddr  : BitVec 3 := 0
  deriving DecidableEq, Repr

/-- A register access that waits at a clock-domain crossing (R386). -/
structure CdcWait where
  off    : Nat
  width  : Nat
  value  : Word
  since  : Word      -- when its 10 µs began
  timed  : Bool      -- it waits in RECOVERY mode
  read   : Bool := false   -- a read through a read-back aperture
  deriving DecidableEq, Repr

/-- The machine. -/
structure State where
  pending : List Instr              -- commands waiting, first in, first out
  regs    : SMap Word               -- the BAR0 register file by byte offset of each 8-byte slot
  time    : Word                    -- the local 100 MHz counter, MGT_TIME.COUNT (R317)
  fuses   : Fuses
  pins    : Pins
  flash   : Flash
  cores   : SMap Core               -- by physical number; an unlisted core holds nothing
  logical : SMap CoreId             -- physical core that serves a logical number (R30)
  ctxs    : SMap Ctx
  hbm     : Tiled                   -- data regions by local address, tiles by local address / 2048
  ue      : List Nat                -- 64 B sectors with an uncorrectable fault (R192)
  plinths : SMap Plinth
  out     : List OutReq             -- outstanding fabric requests
  nextTag : BitVec 16
  retry   : List (Nat × FabHdr × List Byte × Bool)  -- messages this chip has for itself, and requests to be retried (R228); true: REPLAY
  incs    : List (BitVec 17 × BitVec 16 × BitVec 16 × Word)  -- the BLY_INC replay filter (R255)
  ports   : SMap Port
  pauses  : List Pause
  seen    : List (BitVec 17 × BitVec 16 × Bool)   -- the last 256 notices (R258)
  noticeSeq : BitVec 16
  wits    : List WitWin
  queues  : SMap Queue
  msix    : SMap Msix
  evtLost : Bool                    -- events were dropped and no EVENT_LOST has been written since (R316)
  mbx     : Memory                  -- bytes of the mailbox pages by offset from 0x0B00_0000
  snoop   : List Nat                -- HDM lines the host holds, least recently granted first (R300)
  biSent  : List Nat                -- HDM lines back-invalidated and not yet answered
  lineReqs : List Nat               -- lines the host has asked for and that wait for room or for a BIRsp
  biWait  : List BiWait             -- writes that wait for those answers
  logs    : SMap ErrLog
  jig     : Jig
  recov   : Recov
  fw      : Fw
  clamp   : Clamp
  cdc     : List CdcWait
  prog    : SMap Word               -- when a unit last made progress, or began to hold work, by unit identifier (R350)
  free    : Nat                     -- the model's own count of free values drawn
  outbox  : List Out                -- the model's own record of what the chip has sent, oldest first
  deriving DecidableEq, Repr

/-- Identity record of the reset unit as its fuses hold it: KIND, POS, stepping B0 and the CHECK of R26, which takes VALID as 1; the rest
of a record (lot, wafer, position on the wafer, bin) is zero, VALID too, which reading the record sets. DESIGN CHOICE: the manual gives no unit's records (log entry 3). -/
def State.identRecord (kind pos : Nat) (check : Nat) : BitVec 128 :=
  BitVec.ofNat 128 (kind + pos * 0x10 + 0x10 * 2 ^ 80 + check * 2 ^ 112)

/-- The unit this model resets to: a TX-F960 of stepping B0 (Table 2), four spares in the last cluster of each die, nothing
fused off, SVN floor 0. DESIGN CHOICE (log entry 3). -/
def State.resetFuses : Fuses :=
  { part := 0x0960, stepping := 0x10, stackMask := 0xFF, ropes := 0xFFFFFF, ridges := 0xFF,
    clkCap := 1000, pwrCap := 1800, modes := 7,
    spares := 0xF000000000000F000000000000, off := 0,
    ident := [
      (0, State.identRecord 1 0 0x6255), (1, State.identRecord 1 1 0xA4A2),
      (2, State.identRecord 2 0 0xEFF6), (3, State.identRecord 2 1 0x2901), (4, State.identRecord 2 2 0x7239), (5, State.identRecord 2 3 0xB4CE),
      (6, State.identRecord 2 4 0xC449), (7, State.identRecord 2 5 0x02BE), (8, State.identRecord 2 6 0x5986), (9, State.identRecord 2 7 0x9F71),
      (10, State.identRecord 3 0 0x9497), (11, State.identRecord 3 1 0x5260)],
    svn := 0, fwKey := Config.keyHash 0, jigKey := Config.keyHash 1 }

/-- The registers of the reset unit whose reset value is fused for the part: CHIP_ID, CHIP_CAP_UNITS (CORES and SPARES not
yet numbered), CHIP_CAP_LIMITS and CLP_CTRL (whose reset value is the caps). Every other register holds its table's value. -/
def State.resetRegs : SMap Word :=
  [(0x0, 0x02100960), (0x8, 0x00FFFFFFFFFF0000), (0x10, 0x21F843E8), (0xD0008, 0x3843E8)]

/-- The machine right after VDD_AON has reached tolerance: every register at the reset value of its table, every memory
empty, no command waiting. The start of the always-on domain (step 2 of Table 128) is the first command, AON_POWER_UP. -/
def State.reset : State :=
  { pending := [], regs := State.resetRegs, time := 0, fuses := State.resetFuses, pins := {}, flash := {}, cores := [],
    logical := [], ctxs := [], hbm := {}, ue := [], plinths := [], out := [], nextTag := 0, retry := [], incs := [], ports := [],
    pauses := [], seen := [], noticeSeq := 0, wits := [], queues := [], msix := [], evtLost := false, mbx := [], snoop := [], biSent := [], lineReqs := [], biWait := [],
    logs := [], jig := {}, recov := {}, fw := {}, clamp := {}, cdc := [], prog := [], free := 0, outbox := [] }

/-- Why the block would stop. No meaning of this model raises one: every command the manual describes has an effect,
and a command whose event cannot occur leaves the state as it is. -/
inductive Fault where
  /-- Raised by no meaning; a memory access to an address that does not exist is answered by the manual's own rules. Safe. -/
  | noSuchAddress
  deriving DecidableEq, Repr

/-- Why a command would be refused. -/
inductive Refusal where
  /-- The command has no meaning in the model. Raised only by an arm of `exec` that says so. Safe. -/
  | notModelled (mnemonic : String)
  deriving DecidableEq, Repr

end Sys2Proof.Machine
end

