-- ==== Sys2Proof/Machine/Bits.lean ====
section
/-!
DEFINITION. Plain data operations: finite maps and byte memories in canonical form, bit fields, little-endian byte lists,
two's complement, and the check codes the manual names (CRC-16 of R26, CRC-32C of R40, CRC-64 of R281, SHA3-512 of R396).
-/
namespace Sys2Proof.Machine

/-- The value of a key, if it is listed. -/
def SMap.look {α : Type} : SMap α → Nat → Option α
  | [], _ => none
  | (k, v) :: m, i => if k == i then some v else SMap.look m i

/-- List `v` under a key, keeping the keys rising. -/
def SMap.put {α : Type} : SMap α → Nat → α → SMap α
  | [], i, v => [(i, v)]
  | (k, w) :: m, i, v => if i < k then (i, v) :: (k, w) :: m else if k == i then (i, v) :: m else (k, w) :: SMap.put m i v

/-- Remove a key. -/
def SMap.del {α : Type} (m : SMap α) (i : Nat) : SMap α := m.filter (fun kv => !(kv.1 == i))

/-- The value of a key, `d` if it is not listed. -/
def SMap.lookD {α : Type} (m : SMap α) (i : Nat) (d : α) : α := (SMap.look m i).getD d

/-- Give a key the value `v`, listing it only where `v` differs from the value `d` of an unlisted key. -/
def SMap.putD {α : Type} [DecidableEq α] (m : SMap α) (i : Nat) (v d : α) : SMap α :=
  if v = d then SMap.del m i else SMap.put m i v

/-- The keys of a map rise strictly. -/
def SMap.rising {α : Type} : SMap α → Bool
  | [] => true
  | [_] => true
  | (k, _) :: (k', v') :: m => decide (k < k') && SMap.rising ((k', v') :: m)

/-- The byte at an address. -/
def Memory.byte (m : Memory) (a : Nat) : Byte := SMap.lookD m a 0

/-- Whether a cell lies in the `n` bytes from `a` on. -/
def inRange (a n : Nat) (c : Nat × Byte) : Bool := decide (a ≤ c.1) && decide (c.1 < a + n)

/-- Numbers `a`, `a + 1`, … below `a + n`. -/
def natsFrom (a : Nat) : Nat → List Nat
  | 0 => []
  | n + 1 => a :: natsFrom (a + 1) n

/-- The `n` bytes from an address on. -/
def Memory.read (m : Memory) (a n : Nat) : List Byte :=
  let w : Memory := m.filter (inRange a n)
  (natsFrom a n).map (Memory.byte w)

/-- The cells of a run of bytes; a zero byte has none. -/
def cellsOf (a : Nat) : List Byte → Memory
  | [] => []
  | b :: bs => if b = 0 then cellsOf (a + 1) bs else (a, b) :: cellsOf (a + 1) bs

/-- Store a list of bytes from an address on. -/
def Memory.write (m : Memory) (a : Nat) (l : List Byte) : Memory :=
  m.filter (fun c => decide (c.1 < a)) ++ cellsOf a l ++ m.filter (fun c => decide (a + l.length ≤ c.1))

/-- Remove every byte of a range: it reads as zero. -/
def Memory.clear (m : Memory) (a n : Nat) : Memory := m.filter (fun c => !inRange a n c)

/-- Bits `[lo + n - 1 : lo]` of a number. -/
def bits (v lo n : Nat) : Nat := (v >>> lo) % 2 ^ n

/-- A number with bits `[lo + n - 1 : lo]` replaced. -/
def setBits (v lo n x : Nat) : Nat := v - bits v lo n <<< lo + (x % 2 ^ n) <<< lo

/-- Two's complement value of the low `n` bits. -/
def sgn (n v : Nat) : Int :=
  let w := v % 2 ^ n
  if 2 * w < 2 ^ n then (w : Int) else (w : Int) - (2 ^ n : Nat)

/-- The low `n` bits of an integer in two's complement. -/
def wrap (n : Nat) (x : Int) : Nat := (x % (2 ^ n : Nat)).toNat

/-- Little-endian value of a byte list. -/
def leNat : List Byte → Nat
  | [] => 0
  | b :: bs => b.toNat + 256 * leNat bs

/-- The `n` low bytes of a number, least significant first. -/
def natLe (v : Nat) : Nat → List Byte
  | 0 => []
  | n + 1 => BitVec.ofNat 8 v :: natLe (v / 256) n

/-- `n` bytes of a list from an offset on, zero past its end. -/
def slice (l : List Byte) (off n : Nat) : List Byte :=
  let t := (l.drop off).take n
  t ++ List.replicate (n - t.length) 0

/-- Little-endian value of `n` bytes at an offset of a byte list. -/
def leAt (l : List Byte) (off n : Nat) : Nat := leNat (slice l off n)

/-- A byte list with the bytes at an offset replaced. -/
def splice (l : List Byte) (off : Nat) (x : List Byte) : List Byte := l.take off ++ x ++ l.drop (off + x.length)

/-- Whether every byte of a list is zero. -/
def allZero (l : List Byte) : Bool := l.all (fun b => b == 0)

/-- Split a list into pieces of `n`; `fuel` bounds the pieces. -/
def chunksOf {α : Type} (n : Nat) : Nat → List α → List (List α)
  | 0, _ => []
  | _, [] => []
  | f + 1, l => l.take n :: chunksOf n f (l.drop n)

/-- Numbers below `n`. -/
def upto (n : Nat) : List Nat := natsFrom 0 n

/-- `⌈a ÷ b⌉`. -/
def ceilDiv (a b : Nat) : Nat := (a + b - 1) / b

/-- Parity of the low `n` bits. -/
def parity (v : Nat) : Nat → Bool
  | 0 => false
  | n + 1 => (v % 2 == 1) != parity (v / 2) n

/-- Number of ones among the low `n` bits. -/
def popCount (v : Nat) : Nat → Nat
  | 0 => 0
  | n + 1 => v % 2 + popCount (v / 2) n

/-- Indices of the ones among the low `n` bits, rising. -/
def onesOf (v n : Nat) : List Nat := (upto n).filter (fun i => v >>> i % 2 == 1)

/-- `k` steps of a reflected CRC register with feedback polynomial `poly`. -/
def crcShift (poly : Nat) : Nat → Nat → Nat
  | 0, c => c
  | k + 1, c => crcShift poly k (if c % 2 == 1 then (c / 2) ^^^ poly else c / 2)

/-- A reflected CRC over bytes. -/
def crcBytes (poly init : Nat) (l : List Byte) : Nat := l.foldl (fun c b => crcShift poly 8 (c ^^^ b.toNat)) init

/-- CRC-32C (Castagnoli): reflected, initial value and final XOR all ones. -/
def crc32c (l : List Byte) : Nat := crcBytes 0x82F63B78 0xFFFFFFFF l ^^^ 0xFFFFFFFF

/-- `k` steps of a CRC-16 register, polynomial 0x1021, most significant bit first. -/
def crc16Shift : Nat → Nat → Nat
  | 0, c => c
  | k + 1, c => crc16Shift k (if 0x8000 ≤ c then (c * 2 % 0x10000) ^^^ 0x1021 else c * 2)

/-- CRC-16 with polynomial 0x1021, initial value 0xFFFF, no reflection and no final XOR (R26). -/
def crc16 (init : Nat) (l : List Byte) : Nat := l.foldl (fun c b => crc16Shift 8 (c ^^^ (b.toNat * 256))) init

/-- `k` steps of a CRC-64 register, most significant bit first. -/
def crc64Shift : Nat → Nat → Nat
  | 0, c => c
  | k + 1, c =>
    crc64Shift k (if 2 ^ 63 ≤ c then (c * 2 % 2 ^ 64) ^^^ 0x42F0E1EBA9EA3693 else c * 2)

/-- The CRC-64 of R275, from an initial register value (0 for a whole message). -/
def crc64 (init : Nat) (l : List Byte) : Nat := l.foldl (fun c b => crc64Shift 8 (c ^^^ (b.toNat * 2 ^ 56))) init

end Sys2Proof.Machine
end

