-- ==== Sys2Proof/Machine/RegMap.lean ====
section
/-!
DEFINITION. The register map of BAR0: where each register lies (Tables 138, 139 and 143), its fields, its reset value and the access
types and update classes of its fields (R9, R10, R407, R410, R413). One function of namespace `R` for each register, giving
the byte offset of its slot; one constant of namespace `F` for each field; one row of `regTable` for each 64-bit word.
-/
namespace Sys2Proof.Machine

/-- A field of a register: lowest bit and width. A field of a register wider than 64 bits lies in word `lo / 64`. -/
structure Field where
  lo : Nat
  n  : Nat
  deriving DecidableEq, Repr

/-- Reset domains (Table 140). -/
inductive Dom where
  | aon | chip | engine | context | log
  deriving DecidableEq, Repr

/-- One 64-bit word of the register map. `dims` lists stride and count of each index, outermost first; the masks mark the
bits of each access type and class. `rw` is what software may write; `sticky` is RWS. -/
structure RegRow where
  base     : Nat
  dims     : List (Nat × Nat)
  narrow   : Bool          -- a 32-bit register
  dom      : Dom
  reset    : Nat
  rw       : Nat
  w1c      : Nat
  wo       : Nat
  static   : Nat
  boundary : Nat
  sticky   : Nat
  deriving DecidableEq, Repr

/-- CORE_PHYS (02_cores.md): 32 bits, reset domain chip. -/
def R.CORE_PHYS (p : Nat) : Nat := 0x04800008 + p * 0x10000
/-- CORE_STATUS (02_cores.md): 64 bits, reset domain engine. -/
def R.CORE_STATUS (p : Nat) : Nat := 0x04800000 + p * 0x10000
/-- SEQ_CTRL (02_cores.md): 32 bits, reset domain engine. -/
def R.SEQ_CTRL (p : Nat) : Nat := 0x04800100 + p * 0x10000
/-- SEQ_PERF (02_cores.md): 64 bits, reset domain engine. -/
def R.SEQ_PERF (p : Nat) : Nat := 0x04800140 + p * 0x10000
/-- CORE_SPD_ALLOC0 and CORE_SPD_ALLOC1 (02_cores.md): 32 bits, reset domain engine. -/
def R.CORE_SPD_ALLOC (p : Nat) (i : Nat) : Nat := 0x04800020 + p * 0x10000 + i * 0x8
/-- DMA_STATUS[n] (02_cores.md): 32 bits, reset domain engine. -/
def R.DMA_STATUS (p : Nat) (n : Nat) : Nat := 0x04800600 + p * 0x10000 + n * 0x40
/-- BLY_TIMEOUT (02_cores.md): 32 bits, reset domain engine. -/
def R.BLY_TIMEOUT (p : Nat) : Nat := 0x04800410 + p * 0x10000
/-- BLY_ALLOC0 and BLY_ALLOC1 (02_cores.md): 32 bits, reset domain engine. -/
def R.BLY_ALLOC (p : Nat) (i : Nat) : Nat := 0x04800400 + p * 0x10000 + i * 0x8
/-- BLY_CELL[i] (02_cores.md): 64 bits, reset domain engine. -/
def R.BLY_CELL (p : Nat) (i : Nat) : Nat := 0x04808000 + p * 0x10000 + i * 0x8
/-- CUBE_CTRL (03_cubes.md): 32 bits, reset domain engine. -/
def R.CUBE_CTRL (p : Nat) : Nat := 0x04801000 + p * 0x10000
/-- CUBE_STATUS[c] (03_cubes.md): 32 bits, reset domain engine. -/
def R.CUBE_STATUS (p : Nat) (c : Nat) : Nat := 0x04801100 + p * 0x10000 + c * 0x10
/-- CUBE_PERF[c] (03_cubes.md): 64 bits, reset domain engine. -/
def R.CUBE_PERF (p : Nat) (c : Nat) : Nat := 0x04801200 + p * 0x10000 + c * 0x10
/-- CUBE_FEED_PERF (03_cubes.md): 64 bits, reset domain engine. -/
def R.CUBE_FEED_PERF (p : Nat) : Nat := 0x04801300 + p * 0x10000
/-- SCA_QSTAT0 and SCA_QSTAT1 (04_formats.md): 64 bits, reset domain engine. -/
def R.SCA_QSTAT (p : Nat) (i : Nat) : Nat := 0x04802C00 + p * 0x10000 + i * 0x8
/-- CUBE_SR_SEED0 and CUBE_SR_SEED1 (05_dot_product.md): 32 bits, reset domain engine. -/
def R.CUBE_SR_SEED (p : Nat) (i : Nat) : Nat := 0x04801400 + p * 0x10000 + i * 0x8
/-- CUBE_ACC_STATUS[c] (05_dot_product.md): 64 bits, reset domain engine. -/
def R.CUBE_ACC_STATUS (p : Nat) (c : Nat) : Nat := 0x04801500 + p * 0x10000 + c * 0x10
/-- CUBE_ACCSTAT (05_dot_product.md): 32 bits, reset domain engine. -/
def R.CUBE_ACCSTAT (p : Nat) : Nat := 0x04801600 + p * 0x10000
/-- VEC_STATUS (06_vector.md): 64 bits, reset domain engine. -/
def R.VEC_STATUS (p : Nat) : Nat := 0x04802000 + p * 0x10000
/-- VEC_POISON (06_vector.md): 64 bits, reset domain engine. -/
def R.VEC_POISON (p : Nat) : Nat := 0x04802008 + p * 0x10000
/-- VEC_PERF (06_vector.md): 64 bits, reset domain engine. -/
def R.VEC_PERF (p : Nat) : Nat := 0x04802040 + p * 0x10000
/-- SEQ_PC (07_isa.md): 64 bits, reset domain engine. -/
def R.SEQ_PC (p : Nat) : Nat := 0x04800180 + p * 0x10000
/-- SEQ_FAULT_PC (07_isa.md): 64 bits, reset domain engine. -/
def R.SEQ_FAULT_PC (p : Nat) : Nat := 0x04800188 + p * 0x10000
/-- SEQ_HANDLER (07_isa.md): 64 bits, reset domain engine. -/
def R.SEQ_HANDLER (p : Nat) : Nat := 0x04800190 + p * 0x10000
/-- SEQ_HRET (07_isa.md): 64 bits, reset domain engine. -/
def R.SEQ_HRET (p : Nat) : Nat := 0x04800198 + p * 0x10000
/-- SCA_LS_CTRL (08_training.md): 64 bits, reset domain context. -/
def R.SCA_LS_CTRL (ctx : Nat) : Nat := 0x00400000 + ctx * 0x1000
/-- SCA_LS_STATUS (08_training.md): 64 bits, reset domain context. -/
def R.SCA_LS_STATUS (ctx : Nat) : Nat := 0x00400008 + ctx * 0x1000
/-- SCA_LS_COUNT (08_training.md): 64 bits, reset domain context. -/
def R.SCA_LS_COUNT (ctx : Nat) : Nat := 0x00400010 + ctx * 0x1000
/-- SCA_TABLE (08_training.md): 64 bits, reset domain context. -/
def R.SCA_TABLE (ctx : Nat) : Nat := 0x00400018 + ctx * 0x1000
/-- TEL_CNT (08_training.md): 64 bits, reset domain context. -/
def R.TEL_CNT (d : Nat) (ctx : Nat) (tag : Nat) (fmt : Nat) (kind : Nat) : Nat := 0x01400000 + d * 0x800000 + ctx * 0x8000 + tag * 0x200 + fmt * 0x20 + kind * 0x8
/-- TEL_CTX (08_training.md): 64 bits, reset domain context. -/
def R.TEL_CTX (d : Nat) (ctx : Nat) : Nat := 0x01480000 + d * 0x800000 + ctx * 0x8
/-- PLN_STATUS (09_memory.md): 64 bits, reset domain chip. -/
def R.PLN_STATUS (site : Nat) : Nat := 0x08000000 + site * 0x100000
/-- PLN_REPAIR (09_memory.md): 32 bits, reset domain chip. -/
def R.PLN_REPAIR (site : Nat) : Nat := 0x08000010 + site * 0x100000
/-- PLN_CMD (09_memory.md): 32 bits, reset domain chip. -/
def R.PLN_CMD (site : Nat) : Nat := 0x08000020 + site * 0x100000
/-- PLN_RETRAIN_CTRL (09_memory.md): 32 bits, reset domain chip. -/
def R.PLN_RETRAIN_CTRL (site : Nat) : Nat := 0x08000030 + site * 0x100000
/-- PLN_THERM_CTRL (09_memory.md): 32 bits, reset domain chip. -/
def R.PLN_THERM_CTRL (site : Nat) : Nat := 0x08000038 + site * 0x100000
/-- PLN_COUNT (09_memory.md): 64 bits, reset domain chip. -/
def R.PLN_COUNT (site : Nat) : Nat := 0x08000040 + site * 0x100000
/-- PLN_CHAN_ERR[c] (09_memory.md): 64 bits, reset domain chip. -/
def R.PLN_CHAN_ERR (site : Nat) (c : Nat) : Nat := 0x08000100 + site * 0x100000 + c * 0x8
/-- MEM_PART[p] (09_memory.md): 32 bits, reset domain chip. -/
def R.MEM_PART (p : Nat) : Nat := 0x00030000 + p * 0x8
/-- JNR_CHIP (10_fabric.md): 32 bits, reset domain chip. -/
def R.JNR_CHIP : Nat := 0x00050000
/-- JNR_MASSIF (10_fabric.md): 32 bits, reset domain chip. -/
def R.JNR_MASSIF : Nat := 0x00050008
/-- JNR_CTRL (10_fabric.md): 32 bits, reset domain chip. -/
def R.JNR_CTRL : Nat := 0x00050010
/-- JNR_ERR (10_fabric.md): 64 bits, reset domain chip. -/
def R.JNR_ERR : Nat := 0x00050018
/-- JNR_CTX_PT (10_fabric.md): 64 bits, reset domain context. -/
def R.JNR_CTX_PT (ctx : Nat) : Nat := 0x00500000 + ctx * 0x1000
/-- JNR_CTX_ROUTE (10_fabric.md): 64 bits, reset domain context. -/
def R.JNR_CTX_ROUTE (ctx : Nat) : Nat := 0x00500008 + ctx * 0x1000
/-- JNR_CTX_CMD (10_fabric.md): 32 bits, reset domain context. -/
def R.JNR_CTX_CMD (ctx : Nat) : Nat := 0x00500010 + ctx * 0x1000
/-- JNR_WIN_BASE[w] (10_fabric.md): 64 bits, reset domain context. -/
def R.JNR_WIN_BASE (ctx : Nat) (w : Nat) : Nat := 0x00500100 + ctx * 0x1000 + w * 0x20
/-- JNR_WIN_ROPE[w] (10_fabric.md): 64 bits, reset domain context. -/
def R.JNR_WIN_ROPE (ctx : Nat) (w : Nat) : Nat := 0x00500108 + ctx * 0x1000 + w * 0x20
/-- JNR_WIN_SLOT[w] (10_fabric.md): 64 bits, reset domain context. -/
def R.JNR_WIN_SLOT (ctx : Nat) (w : Nat) : Nat := 0x00500110 + ctx * 0x1000 + w * 0x20
/-- LNK_STATUS (11_links.md): 64 bits, reset domain chip. -/
def R.LNK_STATUS (w : Nat) : Nat := 0x09000000 + w * 0x10000
/-- LNK_CTRL (11_links.md): 32 bits, reset domain chip. -/
def R.LNK_CTRL (w : Nat) : Nat := 0x09000008 + w * 0x10000
/-- LNK_ERR (11_links.md): 64 bits, reset domain chip. -/
def R.LNK_ERR (w : Nat) : Nat := 0x09000010 + w * 0x10000
/-- LNK_TOPO (11_links.md): 32 bits, reset domain chip. -/
def R.LNK_TOPO : Nat := 0x00060000
/-- LNK_WITNESS (11_links.md): 64 bits, reset domain chip. -/
def R.LNK_WITNESS : Nat := 0x00060008
/-- LNK_PAUSE (11_links.md): 64 bits, reset domain chip. -/
def R.LNK_PAUSE : Nat := 0x00060010
/-- SPL_CTRL (12_collectives.md): 32 bits, reset domain chip. -/
def R.SPL_CTRL (d : Nat) : Nat := 0x0A000000 + d * 0x100000
/-- SPL_STATUS (12_collectives.md): 64 bits, reset domain chip. -/
def R.SPL_STATUS (d : Nat) : Nat := 0x0A000008 + d * 0x100000
/-- SPL_COUNT (12_collectives.md): 64 bits, reset domain chip. -/
def R.SPL_COUNT (d : Nat) : Nat := 0x0A000010 + d * 0x100000
/-- SPL_STALL (12_collectives.md): 64 bits, reset domain chip. -/
def R.SPL_STALL (d : Nat) : Nat := 0x0A000018 + d * 0x100000
/-- SPL_GDESC_LO and SPL_GDESC_HI (12_collectives.md): 64 bits, reset domain context. -/
def R.SPL_GDESC (d : Nat) (ctx : Nat) (g : Nat) (i : Nat) : Nat := 0x0A010000 + d * 0x100000 + ctx * 0x2000 + g * 0x20 + i * 0x8
/-- SPL_GSTATE (12_collectives.md): 64 bits, reset domain context. -/
def R.SPL_GSTATE (d : Nat) (ctx : Nat) (g : Nat) : Nat := 0x0A010010 + d * 0x100000 + ctx * 0x2000 + g * 0x20
/-- CXL_LINK (13_host.md): 64 bits, reset domain chip. -/
def R.CXL_LINK : Nat := 0x00070000
/-- CXL_HWIN (13_host.md): 64 bits, reset domain chip. -/
def R.CXL_HWIN : Nat := 0x00070008
/-- CXL_Q_CFG[q] (13_host.md): 256 bits, reset domain chip. -/
def R.CXL_Q_CFG (q : Nat) : Nat := 0x00071000 + q * 0x40
/-- CXL_Q_STATUS[q] (13_host.md): 64 bits, reset domain chip. -/
def R.CXL_Q_STATUS (q : Nat) : Nat := 0x00071020 + q * 0x40
/-- MBX_CTRL[ch] (13_host.md): 32 bits, reset domain chip. -/
def R.MBX_CTRL (ch : Nat) : Nat := 0x0B000000 + ch * 0x1000
/-- MBX_EVT (13_host.md): 64 bits, reset domain chip. -/
def R.MBX_EVT : Nat := 0x0B007000
/-- MGT_TIME (13_host.md): 64 bits, reset domain aon. -/
def R.MGT_TIME : Nat := 0x00080000
/-- JIG_CTRL (14_integrity.md): 32 bits, reset domain chip. -/
def R.JIG_CTRL : Nat := 0x00090000
/-- JIG_STATUS (14_integrity.md): 64 bits, reset domain chip. -/
def R.JIG_STATUS : Nat := 0x00090008
/-- JIG_PKG (14_integrity.md): 64 bits, reset domain chip. -/
def R.JIG_PKG : Nat := 0x00090010
/-- JIG_PKG_INFO (14_integrity.md): 32 bits, reset domain chip. -/
def R.JIG_PKG_INFO : Nat := 0x00090018
/-- JIG_CMD (14_integrity.md): 32 bits, reset domain chip. -/
def R.JIG_CMD : Nat := 0x00090020
/-- JIG_FENCED0 and JIG_FENCED1 (14_integrity.md): 64 bits, reset domain chip. -/
def R.JIG_FENCED (i : Nat) : Nat := 0x00090030 + i * 0x8
/-- JIG_CORE_STATUS[p] (14_integrity.md): 64 bits, reset domain chip. -/
def R.JIG_CORE_STATUS (p : Nat) : Nat := 0x00091000 + p * 0x20
/-- JIG_CORE_TIME[p] (14_integrity.md): 128 bits, reset domain chip. -/
def R.JIG_CORE_TIME (p : Nat) : Nat := 0x00091008 + p * 0x20
/-- ERR_WDOG (15_recovery.md): 32 bits, reset domain chip. -/
def R.ERR_WDOG : Nat := 0x000A0000
/-- ERR_ESC (15_recovery.md): 64 bits, reset domain chip. -/
def R.ERR_ESC : Nat := 0x000A0008
/-- ERR_LOG_STATUS[d] (15_recovery.md): 64 bits, reset domain log. -/
def R.ERR_LOG_STATUS (d : Nat) : Nat := 0x000A0100 + d * 0x8
/-- ERR_LOG_ACK[d] (15_recovery.md): 32 bits, reset domain log. -/
def R.ERR_LOG_ACK (d : Nat) : Nat := 0x000A0200 + d * 0x8
/-- ERR_LOG[d][i] (15_recovery.md): 256 bits, reset domain log. -/
def R.ERR_LOG (d : Nat) (i : Nat) : Nat := 0x000A1000 + d * 0x800 + i * 0x20
/-- CRN_CTRL (15_recovery.md): 32 bits, reset domain chip. -/
def R.CRN_CTRL : Nat := 0x000B0000
/-- CRN_STATUS (15_recovery.md): 64 bits, reset domain chip. -/
def R.CRN_STATUS : Nat := 0x000B0008
/-- CRN_AON[j] (15_recovery.md): 32768 bits, reset domain aon. -/
def R.CRN_AON (j : Nat) : Nat := 0x000B1000 + j * 0x1000
/-- BIV_CFG (16_checkpoint.md): 64 bits, reset domain context. -/
def R.BIV_CFG (ctx : Nat) : Nat := 0x000C0000 + ctx * 0x100
/-- BIV_CTRL (16_checkpoint.md): 64 bits, reset domain context. -/
def R.BIV_CTRL (ctx : Nat) : Nat := 0x000C0008 + ctx * 0x100
/-- BIV_NEXT (16_checkpoint.md): 64 bits, reset domain context. -/
def R.BIV_NEXT (ctx : Nat) : Nat := 0x000C0010 + ctx * 0x100
/-- BIV_TARGET_A and BIV_TARGET_B (16_checkpoint.md): 64 bits, reset domain context. -/
def R.BIV_TARGET (ctx : Nat) (i : Nat) : Nat := 0x000C0018 + ctx * 0x100 + i * 0x8
/-- BIV_STATUS (16_checkpoint.md): 128 bits, reset domain context. -/
def R.BIV_STATUS (ctx : Nat) : Nat := 0x000C0028 + ctx * 0x100
/-- BIV_COUNT (16_checkpoint.md): 64 bits, reset domain context. -/
def R.BIV_COUNT (ctx : Nat) : Nat := 0x000C0038 + ctx * 0x100
/-- MGT_BOOT (17_bringup.md): 64 bits, reset domain aon. -/
def R.MGT_BOOT : Nat := 0x00080010
/-- MGT_FW (17_bringup.md): 128 bits, reset domain aon. -/
def R.MGT_FW : Nat := 0x00080020
/-- MGT_CDC (17_bringup.md): 64 bits, reset domain aon. -/
def R.MGT_CDC : Nat := 0x00080030
/-- MGT_FWPROC (17_bringup.md): 64 bits, reset domain aon. -/
def R.MGT_FWPROC : Nat := 0x00080040
/-- CLP_LIMITS (17_bringup.md): 64 bits, reset domain aon. -/
def R.CLP_LIMITS : Nat := 0x000D0000
/-- CLP_CTRL (17_bringup.md): 32 bits, reset domain chip. -/
def R.CLP_CTRL : Nat := 0x000D0008
/-- CLP_STATUS (17_bringup.md): 64 bits, reset domain chip. -/
def R.CLP_STATUS : Nat := 0x000D0010
/-- CLP_COUNT (17_bringup.md): 64 bits, reset domain chip. -/
def R.CLP_COUNT : Nat := 0x000D0018
/-- CHIP_ID (18_registers.md): 32 bits, reset domain aon. -/
def R.CHIP_ID : Nat := 0x00000000
/-- CHIP_CAP_UNITS (18_registers.md): 64 bits, reset domain chip. -/
def R.CHIP_CAP_UNITS : Nat := 0x00000008
/-- CHIP_CAP_LIMITS (18_registers.md): 32 bits, reset domain aon. -/
def R.CHIP_CAP_LIMITS : Nat := 0x00000010
/-- CHIP_IDENT[i] (18_registers.md): 128 bits, reset domain aon. -/
def R.CHIP_IDENT (i : Nat) : Nat := 0x00000100 + i * 0x10
/-- CHIP_IDENT_BAD (18_registers.md): 32 bits, reset domain aon. -/
def R.CHIP_IDENT_BAD : Nat := 0x00000200
/-- CHIP_PART (18_registers.md): 32 bits, reset domain chip. -/
def R.CHIP_PART : Nat := 0x00010000
/-- CHIP_BAR_ERR (18_registers.md): 64 bits, reset domain chip. -/
def R.CHIP_BAR_ERR : Nat := 0x00020000
/-- CHIP_WI_SUMMARY (18_registers.md): 32 bits, reset domain chip. -/
def R.CHIP_WI_SUMMARY : Nat := 0x00020008
/-- DIE_STATUS (18_registers.md): 64 bits, reset domain chip. -/
def R.DIE_STATUS (d : Nat) : Nat := 0x01000000 + d * 0x800000
/-- CHIP_RB_SEL[k] (18_registers.md): 64 bits, reset domain chip. -/
def R.CHIP_RB_SEL (k : Nat) : Nat := 0x00020100 + k * 0x10
/-- CHIP_RB_STATUS[k] (18_registers.md): 64 bits, reset domain chip. -/
def R.CHIP_RB_STATUS (k : Nat) : Nat := 0x00020108 + k * 0x10

/-- CORE_PHYS.PHYS [6:0]. -/
def F.CORE_PHYS.PHYS : Field := ⟨0, 7⟩
/-- CORE_PHYS.DIE [7:7]. -/
def F.CORE_PHYS.DIE : Field := ⟨7, 1⟩
/-- CORE_PHYS.CLUSTER [11:8]. -/
def F.CORE_PHYS.CLUSTER : Field := ⟨8, 4⟩
/-- CORE_PHYS.POS [13:12]. -/
def F.CORE_PHYS.POS : Field := ⟨12, 2⟩
/-- CORE_PHYS.SPARE_IN_USE [14:14]. -/
def F.CORE_PHYS.SPARE_IN_USE : Field := ⟨14, 1⟩
/-- CORE_STATUS.STATE [2:0]. -/
def F.CORE_STATUS.STATE : Field := ⟨0, 3⟩
/-- CORE_STATUS.RES0_CTX [11:8]. -/
def F.CORE_STATUS.RES0_CTX : Field := ⟨8, 4⟩
/-- CORE_STATUS.RES0_VALID [12:12]. -/
def F.CORE_STATUS.RES0_VALID : Field := ⟨12, 1⟩
/-- CORE_STATUS.RES1_CTX [19:16]. -/
def F.CORE_STATUS.RES1_CTX : Field := ⟨16, 4⟩
/-- CORE_STATUS.RES1_VALID [20:20]. -/
def F.CORE_STATUS.RES1_VALID : Field := ⟨20, 1⟩
/-- CORE_STATUS.ACTIVE_SLOT [21:21]. -/
def F.CORE_STATUS.ACTIVE_SLOT : Field := ⟨21, 1⟩
/-- CORE_STATUS.WRITE_IGNORED [22:22]. -/
def F.CORE_STATUS.WRITE_IGNORED : Field := ⟨22, 1⟩
/-- CORE_STATUS.IGNORED_WRITES [47:32]. -/
def F.CORE_STATUS.IGNORED_WRITES : Field := ⟨32, 16⟩
/-- CORE_STATUS.UNINIT_READS [63:48]. -/
def F.CORE_STATUS.UNINIT_READS : Field := ⟨48, 16⟩
/-- SEQ_CTRL.RUNAHEAD_EN [0:0]. -/
def F.SEQ_CTRL.RUNAHEAD_EN : Field := ⟨0, 1⟩
/-- SEQ_CTRL.RUNAHEAD_DEPTH [6:1]. -/
def F.SEQ_CTRL.RUNAHEAD_DEPTH : Field := ⟨1, 6⟩
/-- SEQ_CTRL.SPEC_HBM_EN [7:7]. -/
def F.SEQ_CTRL.SPEC_HBM_EN : Field := ⟨7, 1⟩
/-- SEQ_PERF.RUNAHEAD_INSNS [15:0]. -/
def F.SEQ_PERF.RUNAHEAD_INSNS : Field := ⟨0, 16⟩
/-- SEQ_PERF.SQUASHED_INSNS [31:16]. -/
def F.SEQ_PERF.SQUASHED_INSNS : Field := ⟨16, 16⟩
/-- SEQ_PERF.SPEC_READS [47:32]. -/
def F.SEQ_PERF.SPEC_READS : Field := ⟨32, 16⟩
/-- SEQ_PERF.SPEC_DROPPED [63:48]. -/
def F.SEQ_PERF.SPEC_DROPPED : Field := ⟨48, 16⟩
/-- CORE_SPD_ALLOC.BASE [8:0]. -/
def F.CORE_SPD_ALLOC.BASE : Field := ⟨0, 9⟩
/-- CORE_SPD_ALLOC.SIZE [24:16]. -/
def F.CORE_SPD_ALLOC.SIZE : Field := ⟨16, 9⟩
/-- DMA_STATUS.STATE [1:0]. -/
def F.DMA_STATUS.STATE : Field := ⟨0, 2⟩
/-- DMA_STATUS.QUEUED [7:2]. -/
def F.DMA_STATUS.QUEUED : Field := ⟨2, 6⟩
/-- DMA_STATUS.POISON_SEEN [8:8]. -/
def F.DMA_STATUS.POISON_SEEN : Field := ⟨8, 1⟩
/-- DMA_STATUS.FAULT [9:9]. -/
def F.DMA_STATUS.FAULT : Field := ⟨9, 1⟩
/-- DMA_STATUS.LAST_STATUS [15:12]. -/
def F.DMA_STATUS.LAST_STATUS : Field := ⟨12, 4⟩
/-- DMA_STATUS.COMPLETED [31:16]. -/
def F.DMA_STATUS.COMPLETED : Field := ⟨16, 16⟩
/-- BLY_TIMEOUT.TICKS [31:0]. -/
def F.BLY_TIMEOUT.TICKS : Field := ⟨0, 32⟩
/-- BLY_ALLOC.BASE [9:0]. -/
def F.BLY_ALLOC.BASE : Field := ⟨0, 10⟩
/-- BLY_ALLOC.COUNT [20:10]. -/
def F.BLY_ALLOC.COUNT : Field := ⟨10, 11⟩
/-- BLY_CELL.VALUE [63:0]. -/
def F.BLY_CELL.VALUE : Field := ⟨0, 64⟩
/-- CUBE_CTRL.RAMP_STEP [7:0]. -/
def F.CUBE_CTRL.RAMP_STEP : Field := ⟨0, 8⟩
/-- CUBE_CTRL.BALLAST_TOGGLE [11:8]. -/
def F.CUBE_CTRL.BALLAST_TOGGLE : Field := ⟨8, 4⟩
/-- CUBE_STATUS.RAMP_STATE [1:0]. -/
def F.CUBE_STATUS.RAMP_STATE : Field := ⟨0, 2⟩
/-- CUBE_STATUS.DUTY [6:2]. -/
def F.CUBE_STATUS.DUTY : Field := ⟨2, 5⟩
/-- CUBE_STATUS.SLOT0_READY [8:8]. -/
def F.CUBE_STATUS.SLOT0_READY : Field := ⟨8, 1⟩
/-- CUBE_STATUS.SLOT1_READY [9:9]. -/
def F.CUBE_STATUS.SLOT1_READY : Field := ⟨9, 1⟩
/-- CUBE_STATUS.SLOT0_POISON [10:10]. -/
def F.CUBE_STATUS.SLOT0_POISON : Field := ⟨10, 1⟩
/-- CUBE_STATUS.SLOT1_POISON [11:11]. -/
def F.CUBE_STATUS.SLOT1_POISON : Field := ⟨11, 1⟩
/-- CUBE_STATUS.ACC_POISON [12:12]. -/
def F.CUBE_STATUS.ACC_POISON : Field := ⟨12, 1⟩
/-- CUBE_STATUS.DRAINING [13:13]. -/
def F.CUBE_STATUS.DRAINING : Field := ⟨13, 1⟩
/-- CUBE_STATUS.RING_SIZE [20:16]. -/
def F.CUBE_STATUS.RING_SIZE : Field := ⟨16, 5⟩
/-- CUBE_STATUS.IDLE_RUN [31:24]. -/
def F.CUBE_STATUS.IDLE_RUN : Field := ⟨24, 8⟩
/-- CUBE_PERF.STEPS [31:0]. -/
def F.CUBE_PERF.STEPS : Field := ⟨0, 32⟩
/-- CUBE_PERF.BALLAST_OPS [63:32]. -/
def F.CUBE_PERF.BALLAST_OPS : Field := ⟨32, 32⟩
/-- CUBE_FEED_PERF.STEAL_CYCLES [15:0]. -/
def F.CUBE_FEED_PERF.STEAL_CYCLES : Field := ⟨0, 16⟩
/-- CUBE_FEED_PERF.CONFLICT_STALLS [31:16]. -/
def F.CUBE_FEED_PERF.CONFLICT_STALLS : Field := ⟨16, 16⟩
/-- CUBE_FEED_PERF.SLOT_STALLS [47:32]. -/
def F.CUBE_FEED_PERF.SLOT_STALLS : Field := ⟨32, 16⟩
/-- CUBE_FEED_PERF.RAMP_HELD [63:48]. -/
def F.CUBE_FEED_PERF.RAMP_HELD : Field := ⟨48, 16⟩
/-- SCA_QSTAT.ZERO_RANGE [23:0]. -/
def F.SCA_QSTAT.ZERO_RANGE : Field := ⟨0, 24⟩
/-- SCA_QSTAT.NAN_SCALE [47:24]. -/
def F.SCA_QSTAT.NAN_SCALE : Field := ⟨24, 24⟩
/-- SCA_QSTAT.SCALE_CLAMP [63:48]. -/
def F.SCA_QSTAT.SCALE_CLAMP : Field := ⟨48, 16⟩
/-- CUBE_SR_SEED.SEED [31:0]. -/
def F.CUBE_SR_SEED.SEED : Field := ⟨0, 32⟩
/-- CUBE_ACC_STATUS.TERMS [17:0]. -/
def F.CUBE_ACC_STATUS.TERMS : Field := ⟨0, 18⟩
/-- CUBE_ACC_STATUS.ACCUM_LONG [18:18]. -/
def F.CUBE_ACC_STATUS.ACCUM_LONG : Field := ⟨18, 1⟩
/-- CUBE_ACC_STATUS.SR_CTR [63:32]. -/
def F.CUBE_ACC_STATUS.SR_CTR : Field := ⟨32, 32⟩
/-- CUBE_ACCSTAT.ACCUM_LONG_SEEN [0:0]. -/
def F.CUBE_ACCSTAT.ACCUM_LONG_SEEN : Field := ⟨0, 1⟩
/-- CUBE_ACCSTAT.ACCUM_LONG_COUNT [31:16]. -/
def F.CUBE_ACCSTAT.ACCUM_LONG_COUNT : Field := ⟨16, 16⟩
/-- VEC_STATUS.STATE [1:0]. -/
def F.VEC_STATUS.STATE : Field := ⟨0, 2⟩
/-- VEC_STATUS.QUEUED [6:2]. -/
def F.VEC_STATUS.QUEUED : Field := ⟨2, 5⟩
/-- VEC_STATUS.RESIDUE_FAIL [8:8]. -/
def F.VEC_STATUS.RESIDUE_FAIL : Field := ⟨8, 1⟩
/-- VEC_STATUS.PARITY_FAIL [9:9]. -/
def F.VEC_STATUS.PARITY_FAIL : Field := ⟨9, 1⟩
/-- VEC_STATUS.RESIDUE_FAILS [31:16]. -/
def F.VEC_STATUS.RESIDUE_FAILS : Field := ⟨16, 16⟩
/-- VEC_STATUS.PARITY_FAILS [47:32]. -/
def F.VEC_STATUS.PARITY_FAILS : Field := ⟨32, 16⟩
/-- VEC_POISON.POISON [63:0]. -/
def F.VEC_POISON.POISON : Field := ⟨0, 64⟩
/-- VEC_PERF.INSNS [15:0]. -/
def F.VEC_PERF.INSNS : Field := ⟨0, 16⟩
/-- VEC_PERF.XFM_INSNS [31:16]. -/
def F.VEC_PERF.XFM_INSNS : Field := ⟨16, 16⟩
/-- VEC_PERF.PORT_WAIT [47:32]. -/
def F.VEC_PERF.PORT_WAIT : Field := ⟨32, 16⟩
/-- VEC_PERF.QUANT_BLOCKS [63:48]. -/
def F.VEC_PERF.QUANT_BLOCKS : Field := ⟨48, 16⟩
/-- SEQ_PC.PC [63:0]. -/
def F.SEQ_PC.PC : Field := ⟨0, 64⟩
/-- SEQ_FAULT_PC.PC [63:0]. -/
def F.SEQ_FAULT_PC.PC : Field := ⟨0, 64⟩
/-- SEQ_HANDLER.ACTIVE [0:0]. -/
def F.SEQ_HANDLER.ACTIVE : Field := ⟨0, 1⟩
/-- SEQ_HANDLER.ADDR [63:3]. -/
def F.SEQ_HANDLER.ADDR : Field := ⟨3, 61⟩
/-- SEQ_HRET.PC [63:0]. -/
def F.SEQ_HRET.PC : Field := ⟨0, 64⟩
/-- SCA_LS_CTRL.N [15:0]. -/
def F.SCA_LS_CTRL.N : Field := ⟨0, 16⟩
/-- SCA_LS_CTRL.MIN_EXP [23:16]. -/
def F.SCA_LS_CTRL.MIN_EXP : Field := ⟨16, 8⟩
/-- SCA_LS_CTRL.MAX_EXP [31:24]. -/
def F.SCA_LS_CTRL.MAX_EXP : Field := ⟨24, 8⟩
/-- SCA_LS_CTRL.INIT_EXP [39:32]. -/
def F.SCA_LS_CTRL.INIT_EXP : Field := ⟨32, 8⟩
/-- SCA_LS_CTRL.OWNER [46:40]. -/
def F.SCA_LS_CTRL.OWNER : Field := ⟨40, 7⟩
/-- SCA_LS_STATUS.EXP [7:0]. -/
def F.SCA_LS_STATUS.EXP : Field := ⟨0, 8⟩
/-- SCA_LS_STATUS.CLEAN [31:16]. -/
def F.SCA_LS_STATUS.CLEAN : Field := ⟨16, 16⟩
/-- SCA_LS_STATUS.HALVINGS [47:32]. -/
def F.SCA_LS_STATUS.HALVINGS : Field := ⟨32, 16⟩
/-- SCA_LS_STATUS.DOUBLINGS [63:48]. -/
def F.SCA_LS_STATUS.DOUBLINGS : Field := ⟨48, 16⟩
/-- SCA_LS_COUNT.UPDATES [31:0]. -/
def F.SCA_LS_COUNT.UPDATES : Field := ⟨0, 32⟩
/-- SCA_LS_COUNT.FLOOR_HITS [47:32]. -/
def F.SCA_LS_COUNT.FLOOR_HITS : Field := ⟨32, 16⟩
/-- SCA_LS_COUNT.IGNORED_WRITES [62:48]. -/
def F.SCA_LS_COUNT.IGNORED_WRITES : Field := ⟨48, 15⟩
/-- SCA_LS_COUNT.WRITE_IGNORED [63:63]. -/
def F.SCA_LS_COUNT.WRITE_IGNORED : Field := ⟨63, 1⟩
/-- SCA_TABLE.BASE [39:0]. -/
def F.SCA_TABLE.BASE : Field := ⟨0, 40⟩
/-- SCA_TABLE.SLOTS [52:40]. -/
def F.SCA_TABLE.SLOTS : Field := ⟨40, 13⟩
/-- TEL_CNT.COUNT [47:0]. -/
def F.TEL_CNT.COUNT : Field := ⟨0, 48⟩
/-- TEL_CTX.CLEAR [0:0]. -/
def F.TEL_CTX.CLEAR : Field := ⟨0, 1⟩
/-- TEL_CTX.CLEAR_BUSY [1:1]. -/
def F.TEL_CTX.CLEAR_BUSY : Field := ⟨1, 1⟩
/-- TEL_CTX.SATURATED [2:2]. -/
def F.TEL_CTX.SATURATED : Field := ⟨2, 1⟩
/-- PLN_STATUS.THERM_STATE [1:0]. -/
def F.PLN_STATUS.THERM_STATE : Field := ⟨0, 2⟩
/-- PLN_STATUS.RETRAINING [2:2]. -/
def F.PLN_STATUS.RETRAINING : Field := ⟨2, 1⟩
/-- PLN_STATUS.RETRAIN_CH [7:3]. -/
def F.PLN_STATUS.RETRAIN_CH : Field := ⟨3, 5⟩
/-- PLN_STATUS.REPAIR_STATE [9:8]. -/
def F.PLN_STATUS.REPAIR_STATE : Field := ⟨8, 2⟩
/-- PLN_STATUS.REPAIR_CH [14:10]. -/
def F.PLN_STATUS.REPAIR_CH : Field := ⟨10, 5⟩
/-- PLN_STATUS.EXHAUSTED [15:15]. -/
def F.PLN_STATUS.EXHAUSTED : Field := ⟨15, 1⟩
/-- PLN_STATUS.TEMP [23:16]. -/
def F.PLN_STATUS.TEMP : Field := ⟨16, 8⟩
/-- PLN_STATUS.SHELF_FILL [32:24]. -/
def F.PLN_STATUS.SHELF_FILL : Field := ⟨24, 9⟩
/-- PLN_STATUS.READQ_FILL [42:33]. -/
def F.PLN_STATUS.READQ_FILL : Field := ⟨33, 10⟩
/-- PLN_REPAIR.WATERMARK [23:0]. -/
def F.PLN_REPAIR.WATERMARK : Field := ⟨0, 24⟩
/-- PLN_CMD.RETRAIN [0:0]. -/
def F.PLN_CMD.RETRAIN : Field := ⟨0, 1⟩
/-- PLN_CMD.REPAIR [1:1]. -/
def F.PLN_CMD.REPAIR : Field := ⟨1, 1⟩
/-- PLN_CMD.CH [6:2]. -/
def F.PLN_CMD.CH : Field := ⟨2, 5⟩
/-- PLN_RETRAIN_CTRL.DRIFT_K [4:0]. -/
def F.PLN_RETRAIN_CTRL.DRIFT_K : Field := ⟨0, 5⟩
/-- PLN_RETRAIN_CTRL.CE_RATE [15:5]. -/
def F.PLN_RETRAIN_CTRL.CE_RATE : Field := ⟨5, 11⟩
/-- PLN_RETRAIN_CTRL.CE_LIMIT [31:16]. -/
def F.PLN_RETRAIN_CTRL.CE_LIMIT : Field := ⟨16, 16⟩
/-- PLN_THERM_CTRL.PAUSE_BOUND_MS [15:0]. -/
def F.PLN_THERM_CTRL.PAUSE_BOUND_MS : Field := ⟨0, 16⟩
/-- PLN_COUNT.WCB_COMPLETE [15:0]. -/
def F.PLN_COUNT.WCB_COMPLETE : Field := ⟨0, 16⟩
/-- PLN_COUNT.WCB_MERGE [31:16]. -/
def F.PLN_COUNT.WCB_MERGE : Field := ⟨16, 16⟩
/-- PLN_COUNT.UNINIT_READS [47:32]. -/
def F.PLN_COUNT.UNINIT_READS : Field := ⟨32, 16⟩
/-- PLN_COUNT.SPEC_DROPS [63:48]. -/
def F.PLN_COUNT.SPEC_DROPS : Field := ⟨48, 16⟩
/-- PLN_CHAN_ERR.CE [31:0]. -/
def F.PLN_CHAN_ERR.CE : Field := ⟨0, 32⟩
/-- PLN_CHAN_ERR.UE [47:32]. -/
def F.PLN_CHAN_ERR.UE : Field := ⟨32, 16⟩
/-- PLN_CHAN_ERR.LAST_TRAIN [49:48]. -/
def F.PLN_CHAN_ERR.LAST_TRAIN : Field := ⟨48, 2⟩
/-- PLN_CHAN_ERR.IN_SERVICE [50:50]. -/
def F.PLN_CHAN_ERR.IN_SERVICE : Field := ⟨50, 1⟩
/-- MEM_PART.BASE [9:0]. -/
def F.MEM_PART.BASE : Field := ⟨0, 10⟩
/-- MEM_PART.SIZE [19:10]. -/
def F.MEM_PART.SIZE : Field := ⟨10, 10⟩
/-- MEM_PART.STACK_MASK [27:20]. -/
def F.MEM_PART.STACK_MASK : Field := ⟨20, 8⟩
/-- MEM_PART.S [31:28]. -/
def F.MEM_PART.S : Field := ⟨28, 4⟩
/-- JNR_CHIP.INDEX [16:0]. -/
def F.JNR_CHIP.INDEX : Field := ⟨0, 17⟩
/-- JNR_CHIP.VALID [17:17]. -/
def F.JNR_CHIP.VALID : Field := ⟨17, 1⟩
/-- JNR_MASSIF.DX [4:0]. -/
def F.JNR_MASSIF.DX : Field := ⟨0, 5⟩
/-- JNR_MASSIF.DY [9:5]. -/
def F.JNR_MASSIF.DY : Field := ⟨5, 5⟩
/-- JNR_MASSIF.DZ [13:10]. -/
def F.JNR_MASSIF.DZ : Field := ⟨10, 4⟩
/-- JNR_CTRL.REQ_TIMEOUT_MS [15:0]. -/
def F.JNR_CTRL.REQ_TIMEOUT_MS : Field := ⟨0, 16⟩
/-- JNR_ERR.DENIED [15:0]. -/
def F.JNR_ERR.DENIED : Field := ⟨0, 16⟩
/-- JNR_ERR.TIMEOUTS [31:16]. -/
def F.JNR_ERR.TIMEOUTS : Field := ⟨16, 16⟩
/-- JNR_ERR.POISON_OUT [47:32]. -/
def F.JNR_ERR.POISON_OUT : Field := ⟨32, 16⟩
/-- JNR_ERR.IGNORED_WRITES [62:48]. -/
def F.JNR_ERR.IGNORED_WRITES : Field := ⟨48, 15⟩
/-- JNR_ERR.WRITE_IGNORED [63:63]. -/
def F.JNR_ERR.WRITE_IGNORED : Field := ⟨63, 1⟩
/-- JNR_CTX_PT.ROOT [39:12]. -/
def F.JNR_CTX_PT.ROOT : Field := ⟨12, 28⟩
/-- JNR_CTX_ROUTE.X0 [3:0]. -/
def F.JNR_CTX_ROUTE.X0 : Field := ⟨0, 4⟩
/-- JNR_CTX_ROUTE.Y0 [7:4]. -/
def F.JNR_CTX_ROUTE.Y0 : Field := ⟨4, 4⟩
/-- JNR_CTX_ROUTE.Z0 [10:8]. -/
def F.JNR_CTX_ROUTE.Z0 : Field := ⟨8, 3⟩
/-- JNR_CTX_ROUTE.NX [15:11]. -/
def F.JNR_CTX_ROUTE.NX : Field := ⟨11, 5⟩
/-- JNR_CTX_ROUTE.NY [20:16]. -/
def F.JNR_CTX_ROUTE.NY : Field := ⟨16, 5⟩
/-- JNR_CTX_ROUTE.NZ [24:21]. -/
def F.JNR_CTX_ROUTE.NZ : Field := ⟨21, 4⟩
/-- JNR_CTX_ROUTE.A0 [26:25]. -/
def F.JNR_CTX_ROUTE.A0 : Field := ⟨25, 2⟩
/-- JNR_CTX_ROUTE.B0 [28:27]. -/
def F.JNR_CTX_ROUTE.B0 : Field := ⟨27, 2⟩
/-- JNR_CTX_ROUTE.C0 [30:29]. -/
def F.JNR_CTX_ROUTE.C0 : Field := ⟨29, 2⟩
/-- JNR_CTX_ROUTE.NA [33:31]. -/
def F.JNR_CTX_ROUTE.NA : Field := ⟨31, 3⟩
/-- JNR_CTX_ROUTE.NB [36:34]. -/
def F.JNR_CTX_ROUTE.NB : Field := ⟨34, 3⟩
/-- JNR_CTX_ROUTE.NC [39:37]. -/
def F.JNR_CTX_ROUTE.NC : Field := ⟨37, 3⟩
/-- JNR_CTX_ROUTE.KEY [55:40]. -/
def F.JNR_CTX_ROUTE.KEY : Field := ⟨40, 16⟩
/-- JNR_CTX_CMD.INVAL [0:0]. -/
def F.JNR_CTX_CMD.INVAL : Field := ⟨0, 1⟩
/-- JNR_CTX_CMD.INVAL_BUSY [1:1]. -/
def F.JNR_CTX_CMD.INVAL_BUSY : Field := ⟨1, 1⟩
/-- JNR_CTX_CMD.WRITE_IGNORED [2:2]. -/
def F.JNR_CTX_CMD.WRITE_IGNORED : Field := ⟨2, 1⟩
/-- JNR_CTX_CMD.IGNORED_WRITES [31:16]. -/
def F.JNR_CTX_CMD.IGNORED_WRITES : Field := ⟨16, 16⟩
/-- JNR_WIN_BASE.EN [0:0]. -/
def F.JNR_WIN_BASE.EN : Field := ⟨0, 1⟩
/-- JNR_WIN_BASE.R [1:1]. -/
def F.JNR_WIN_BASE.R : Field := ⟨1, 1⟩
/-- JNR_WIN_BASE.W [2:2]. -/
def F.JNR_WIN_BASE.W : Field := ⟨2, 1⟩
/-- JNR_WIN_BASE.LOG_SPAN [8:3]. -/
def F.JNR_WIN_BASE.LOG_SPAN : Field := ⟨3, 6⟩
/-- JNR_WIN_BASE.VA_BASE [47:30]. -/
def F.JNR_WIN_BASE.VA_BASE : Field := ⟨30, 18⟩
/-- JNR_WIN_ROPE.START_X [3:0]. -/
def F.JNR_WIN_ROPE.START_X : Field := ⟨0, 4⟩
/-- JNR_WIN_ROPE.LEN_X [8:4]. -/
def F.JNR_WIN_ROPE.LEN_X : Field := ⟨4, 5⟩
/-- JNR_WIN_ROPE.STRIDE_X [12:9]. -/
def F.JNR_WIN_ROPE.STRIDE_X : Field := ⟨9, 4⟩
/-- JNR_WIN_ROPE.START_Y [16:13]. -/
def F.JNR_WIN_ROPE.START_Y : Field := ⟨13, 4⟩
/-- JNR_WIN_ROPE.LEN_Y [21:17]. -/
def F.JNR_WIN_ROPE.LEN_Y : Field := ⟨17, 5⟩
/-- JNR_WIN_ROPE.STRIDE_Y [25:22]. -/
def F.JNR_WIN_ROPE.STRIDE_Y : Field := ⟨22, 4⟩
/-- JNR_WIN_ROPE.START_Z [29:26]. -/
def F.JNR_WIN_ROPE.START_Z : Field := ⟨26, 4⟩
/-- JNR_WIN_ROPE.LEN_Z [34:30]. -/
def F.JNR_WIN_ROPE.LEN_Z : Field := ⟨30, 5⟩
/-- JNR_WIN_ROPE.STRIDE_Z [38:35]. -/
def F.JNR_WIN_ROPE.STRIDE_Z : Field := ⟨35, 4⟩
/-- JNR_WIN_SLOT.START_A [1:0]. -/
def F.JNR_WIN_SLOT.START_A : Field := ⟨0, 2⟩
/-- JNR_WIN_SLOT.LEN_A [4:2]. -/
def F.JNR_WIN_SLOT.LEN_A : Field := ⟨2, 3⟩
/-- JNR_WIN_SLOT.STRIDE_A [6:5]. -/
def F.JNR_WIN_SLOT.STRIDE_A : Field := ⟨5, 2⟩
/-- JNR_WIN_SLOT.START_B [8:7]. -/
def F.JNR_WIN_SLOT.START_B : Field := ⟨7, 2⟩
/-- JNR_WIN_SLOT.LEN_B [11:9]. -/
def F.JNR_WIN_SLOT.LEN_B : Field := ⟨9, 3⟩
/-- JNR_WIN_SLOT.STRIDE_B [13:12]. -/
def F.JNR_WIN_SLOT.STRIDE_B : Field := ⟨12, 2⟩
/-- JNR_WIN_SLOT.START_C [15:14]. -/
def F.JNR_WIN_SLOT.START_C : Field := ⟨14, 2⟩
/-- JNR_WIN_SLOT.LEN_C [18:16]. -/
def F.JNR_WIN_SLOT.LEN_C : Field := ⟨16, 3⟩
/-- JNR_WIN_SLOT.STRIDE_C [20:19]. -/
def F.JNR_WIN_SLOT.STRIDE_C : Field := ⟨19, 2⟩
/-- JNR_WIN_SLOT.LOCAL_BASE [63:45]. -/
def F.JNR_WIN_SLOT.LOCAL_BASE : Field := ⟨45, 19⟩
/-- LNK_STATUS.STATE [2:0]. -/
def F.LNK_STATUS.STATE : Field := ⟨0, 3⟩
/-- LNK_STATUS.LANES [10:3]. -/
def F.LNK_STATUS.LANES : Field := ⟨3, 8⟩
/-- LNK_STATUS.SAVED_VALID [11:11]. -/
def F.LNK_STATUS.SAVED_VALID : Field := ⟨11, 1⟩
/-- LNK_STATUS.SLOT [17:12]. -/
def F.LNK_STATUS.SLOT : Field := ⟨12, 6⟩
/-- LNK_STATUS.PLANE [22:18]. -/
def F.LNK_STATUS.PLANE : Field := ⟨18, 5⟩
/-- LNK_STATUS.PEER [39:23]. -/
def F.LNK_STATUS.PEER : Field := ⟨23, 17⟩
/-- LNK_CTRL.ENABLE [0:0]. -/
def F.LNK_CTRL.ENABLE : Field := ⟨0, 1⟩
/-- LNK_CTRL.RETRAIN [1:1]. -/
def F.LNK_CTRL.RETRAIN : Field := ⟨1, 1⟩
/-- LNK_CTRL.FAST [2:2]. -/
def F.LNK_CTRL.FAST : Field := ⟨2, 1⟩
/-- LNK_CTRL.SPARE_DIR [5:3]. -/
def F.LNK_CTRL.SPARE_DIR : Field := ⟨3, 3⟩
/-- LNK_CTRL.SPARE_EN [6:6]. -/
def F.LNK_CTRL.SPARE_EN : Field := ⟨6, 1⟩
/-- LNK_ERR.FEC_CORR [23:0]. -/
def F.LNK_ERR.FEC_CORR : Field := ⟨0, 24⟩
/-- LNK_ERR.FEC_UNCORR [35:24]. -/
def F.LNK_ERR.FEC_UNCORR : Field := ⟨24, 12⟩
/-- LNK_ERR.REPLAYS [51:36]. -/
def F.LNK_ERR.REPLAYS : Field := ⟨36, 16⟩
/-- LNK_ERR.DOWNS [59:52]. -/
def F.LNK_ERR.DOWNS : Field := ⟨52, 8⟩
/-- LNK_ERR.IGNORED_WRITES [62:60]. -/
def F.LNK_ERR.IGNORED_WRITES : Field := ⟨60, 3⟩
/-- LNK_ERR.WRITE_IGNORED [63:63]. -/
def F.LNK_ERR.WRITE_IGNORED : Field := ⟨63, 1⟩
/-- LNK_TOPO.SLOT [5:0]. -/
def F.LNK_TOPO.SLOT : Field := ⟨0, 6⟩
/-- LNK_TOPO.SLOT_VALID [6:6]. -/
def F.LNK_TOPO.SLOT_VALID : Field := ⟨6, 1⟩
/-- LNK_WITNESS.SINK [16:0]. -/
def F.LNK_WITNESS.SINK : Field := ⟨0, 17⟩
/-- LNK_WITNESS.SINK_VALID [17:17]. -/
def F.LNK_WITNESS.SINK_VALID : Field := ⟨17, 1⟩
/-- LNK_WITNESS.FILED [47:32]. -/
def F.LNK_WITNESS.FILED : Field := ⟨32, 16⟩
/-- LNK_WITNESS.DELIVERED [63:48]. -/
def F.LNK_WITNESS.DELIVERED : Field := ⟨48, 16⟩
/-- LNK_PAUSE.ENTRIES [10:0]. -/
def F.LNK_PAUSE.ENTRIES : Field := ⟨0, 11⟩
/-- LNK_PAUSE.OVERFLOWS [31:16]. -/
def F.LNK_PAUSE.OVERFLOWS : Field := ⟨16, 16⟩
/-- LNK_PAUSE.SENT [47:32]. -/
def F.LNK_PAUSE.SENT : Field := ⟨32, 16⟩
/-- LNK_PAUSE.RECEIVED [63:48]. -/
def F.LNK_PAUSE.RECEIVED : Field := ⟨48, 16⟩
/-- SPL_CTRL.COLL_TIMEOUT_MS [15:0]. -/
def F.SPL_CTRL.COLL_TIMEOUT_MS : Field := ⟨0, 16⟩
/-- SPL_CTRL.BACKOFF_US [19:16]. -/
def F.SPL_CTRL.BACKOFF_US : Field := ⟨16, 4⟩
/-- SPL_CTRL.SWITCH_EN [20:20]. -/
def F.SPL_CTRL.SWITCH_EN : Field := ⟨20, 1⟩
/-- SPL_STATUS.ACTIVE [7:0]. -/
def F.SPL_STATUS.ACTIVE : Field := ⟨0, 8⟩
/-- SPL_STATUS.GROUPS [15:8]. -/
def F.SPL_STATUS.GROUPS : Field := ⟨8, 8⟩
/-- SPL_STATUS.CLAIMS_HELD [23:16]. -/
def F.SPL_STATUS.CLAIMS_HELD : Field := ⟨16, 8⟩
/-- SPL_COUNT.NO_SLOTS [15:0]. -/
def F.SPL_COUNT.NO_SLOTS : Field := ⟨0, 16⟩
/-- SPL_COUNT.FALLBACKS [31:16]. -/
def F.SPL_COUNT.FALLBACKS : Field := ⟨16, 16⟩
/-- SPL_COUNT.CRC_FAILS [47:32]. -/
def F.SPL_COUNT.CRC_FAILS : Field := ⟨32, 16⟩
/-- SPL_COUNT.STALE [63:48]. -/
def F.SPL_COUNT.STALE : Field := ⟨48, 16⟩
/-- SPL_STALL.VALID [0:0]. -/
def F.SPL_STALL.VALID : Field := ⟨0, 1⟩
/-- SPL_STALL.CAUSE [2:1]. -/
def F.SPL_STALL.CAUSE : Field := ⟨1, 2⟩
/-- SPL_STALL.CTX [6:3]. -/
def F.SPL_STALL.CTX : Field := ⟨3, 4⟩
/-- SPL_STALL.GROUP [14:7]. -/
def F.SPL_STALL.GROUP : Field := ⟨7, 8⟩
/-- SPL_STALL.SUSPECT [31:15]. -/
def F.SPL_STALL.SUSPECT : Field := ⟨15, 17⟩
/-- SPL_STALL.UNIT [39:32]. -/
def F.SPL_STALL.UNIT : Field := ⟨32, 8⟩
/-- SPL_GDESC.DESC [63:0]. -/
def F.SPL_GDESC.DESC : Field := ⟨0, 64⟩
/-- SPL_GSTATE.SEQ [31:0]. -/
def F.SPL_GSTATE.SEQ : Field := ⟨0, 32⟩
/-- SPL_GSTATE.STATE [34:32]. -/
def F.SPL_GSTATE.STATE : Field := ⟨32, 3⟩
/-- SPL_GSTATE.TRAVERSE [35:35]. -/
def F.SPL_GSTATE.TRAVERSE : Field := ⟨35, 1⟩
/-- SPL_GSTATE.LAST_STATUS [39:36]. -/
def F.SPL_GSTATE.LAST_STATUS : Field := ⟨36, 4⟩
/-- SPL_GSTATE.QUEUED [44:40]. -/
def F.SPL_GSTATE.QUEUED : Field := ⟨40, 5⟩
/-- CXL_LINK.STATE [1:0]. -/
def F.CXL_LINK.STATE : Field := ⟨0, 2⟩
/-- CXL_LINK.RATE_FAIL [2:2]. -/
def F.CXL_LINK.RATE_FAIL : Field := ⟨2, 1⟩
/-- CXL_LINK.HDM_BOUNDS [31:16]. -/
def F.CXL_LINK.HDM_BOUNDS : Field := ⟨16, 16⟩
/-- CXL_LINK.BI_SNOOPS [47:32]. -/
def F.CXL_LINK.BI_SNOOPS : Field := ⟨32, 16⟩
/-- CXL_HWIN.BASE [63:36]. -/
def F.CXL_HWIN.BASE : Field := ⟨36, 28⟩
/-- CXL_Q_CFG.EN [0:0]. -/
def F.CXL_Q_CFG.EN : Field := ⟨0, 1⟩
/-- CXL_Q_CFG.CTX [4:1]. -/
def F.CXL_Q_CFG.CTX : Field := ⟨1, 4⟩
/-- CXL_Q_CFG.VECTOR [10:5]. -/
def F.CXL_Q_CFG.VECTOR : Field := ⟨5, 6⟩
/-- CXL_Q_CFG.SIZE [26:11]. -/
def F.CXL_Q_CFG.SIZE : Field := ⟨11, 16⟩
/-- CXL_Q_CFG.SQ_BASE [127:64]. -/
def F.CXL_Q_CFG.SQ_BASE : Field := ⟨64, 64⟩
/-- CXL_Q_CFG.CQ_BASE [191:128]. -/
def F.CXL_Q_CFG.CQ_BASE : Field := ⟨128, 64⟩
/-- CXL_Q_CFG.TAIL_LINE [255:192]. -/
def F.CXL_Q_CFG.TAIL_LINE : Field := ⟨192, 64⟩
/-- CXL_Q_STATUS.STATE [1:0]. -/
def F.CXL_Q_STATUS.STATE : Field := ⟨0, 2⟩
/-- CXL_Q_STATUS.SQ_HEAD [17:2]. -/
def F.CXL_Q_STATUS.SQ_HEAD : Field := ⟨2, 16⟩
/-- CXL_Q_STATUS.WRITE_IGNORED [18:18]. -/
def F.CXL_Q_STATUS.WRITE_IGNORED : Field := ⟨18, 1⟩
/-- CXL_Q_STATUS.WAKES [47:32]. -/
def F.CXL_Q_STATUS.WAKES : Field := ⟨32, 16⟩
/-- CXL_Q_STATUS.IGNORED_WRITES [63:48]. -/
def F.CXL_Q_STATUS.IGNORED_WRITES : Field := ⟨48, 16⟩
/-- MBX_CTRL.GO [0:0]. -/
def F.MBX_CTRL.GO : Field := ⟨0, 1⟩
/-- MBX_CTRL.BUSY [1:1]. -/
def F.MBX_CTRL.BUSY : Field := ⟨1, 1⟩
/-- MBX_CTRL.DONE [2:2]. -/
def F.MBX_CTRL.DONE : Field := ⟨2, 1⟩
/-- MBX_CTRL.IRQ_EN [3:3]. -/
def F.MBX_CTRL.IRQ_EN : Field := ⟨3, 1⟩
/-- MBX_CTRL.GO_IGNORED [31:16]. -/
def F.MBX_CTRL.GO_IGNORED : Field := ⟨16, 16⟩
/-- MBX_EVT.EVT_TAIL [5:0]. -/
def F.MBX_EVT.EVT_TAIL : Field := ⟨0, 6⟩
/-- MBX_EVT.EVT_HEAD [13:8]. -/
def F.MBX_EVT.EVT_HEAD : Field := ⟨8, 6⟩
/-- MBX_EVT.VECTOR [21:16]. -/
def F.MBX_EVT.VECTOR : Field := ⟨16, 6⟩
/-- MBX_EVT.LOST [63:32]. -/
def F.MBX_EVT.LOST : Field := ⟨32, 32⟩
/-- MGT_TIME.COUNT [63:0]. -/
def F.MGT_TIME.COUNT : Field := ⟨0, 64⟩
/-- JIG_CTRL.EN [0:0]. -/
def F.JIG_CTRL.EN : Field := ⟨0, 1⟩
/-- JIG_CTRL.ENTRY_US [10:1]. -/
def F.JIG_CTRL.ENTRY_US : Field := ⟨1, 10⟩
/-- JIG_CTRL.PERIOD_S [17:11]. -/
def F.JIG_CTRL.PERIOD_S : Field := ⟨11, 7⟩
/-- JIG_CTRL.GAP_US [27:18]. -/
def F.JIG_CTRL.GAP_US : Field := ⟨18, 10⟩
/-- JIG_STATUS.STATE [1:0]. -/
def F.JIG_STATUS.STATE : Field := ⟨0, 2⟩
/-- JIG_STATUS.CORE [8:2]. -/
def F.JIG_STATUS.CORE : Field := ⟨2, 7⟩
/-- JIG_STATUS.OVERDUE [31:16]. -/
def F.JIG_STATUS.OVERDUE : Field := ⟨16, 16⟩
/-- JIG_STATUS.RUNS [63:32]. -/
def F.JIG_STATUS.RUNS : Field := ⟨32, 32⟩
/-- JIG_PKG.EPOCH [31:0]. -/
def F.JIG_PKG.EPOCH : Field := ⟨0, 32⟩
/-- JIG_PKG.UNF_EPOCH [63:32]. -/
def F.JIG_PKG.UNF_EPOCH : Field := ⟨32, 32⟩
/-- JIG_PKG_INFO.N_PAT [6:0]. -/
def F.JIG_PKG_INFO.N_PAT : Field := ⟨0, 7⟩
/-- JIG_PKG_INFO.N_VAR [11:7]. -/
def F.JIG_PKG_INFO.N_VAR : Field := ⟨7, 5⟩
/-- JIG_PKG_INFO.FLASHED [12:12]. -/
def F.JIG_PKG_INFO.FLASHED : Field := ⟨12, 1⟩
/-- JIG_CMD.RUN [0:0]. -/
def F.JIG_CMD.RUN : Field := ⟨0, 1⟩
/-- JIG_CMD.CORE [7:1]. -/
def F.JIG_CMD.CORE : Field := ⟨1, 7⟩
/-- JIG_FENCED.MASK [63:0]. -/
def F.JIG_FENCED.MASK : Field := ⟨0, 64⟩
/-- JIG_CORE_STATUS.HEALTH [1:0]. -/
def F.JIG_CORE_STATUS.HEALTH : Field := ⟨0, 2⟩
/-- JIG_CORE_STATUS.TARGETED [2:2]. -/
def F.JIG_CORE_STATUS.TARGETED : Field := ⟨2, 1⟩
/-- JIG_CORE_STATUS.OVERDUE [3:3]. -/
def F.JIG_CORE_STATUS.OVERDUE : Field := ⟨3, 1⟩
/-- JIG_CORE_STATUS.LAST_RESULT [6:4]. -/
def F.JIG_CORE_STATUS.LAST_RESULT : Field := ⟨4, 3⟩
/-- JIG_CORE_STATUS.RESIDUE_24H [11:8]. -/
def F.JIG_CORE_STATUS.RESIDUE_24H : Field := ⟨8, 4⟩
/-- JIG_CORE_STATUS.STORE_24H [15:12]. -/
def F.JIG_CORE_STATUS.STORE_24H : Field := ⟨12, 4⟩
/-- JIG_CORE_STATUS.RUNS [31:16]. -/
def F.JIG_CORE_STATUS.RUNS : Field := ⟨16, 16⟩
/-- JIG_CORE_STATUS.RESIDUE_TOTAL [47:32]. -/
def F.JIG_CORE_STATUS.RESIDUE_TOTAL : Field := ⟨32, 16⟩
/-- JIG_CORE_STATUS.STORE_TOTAL [63:48]. -/
def F.JIG_CORE_STATUS.STORE_TOTAL : Field := ⟨48, 16⟩
/-- JIG_CORE_TIME.LAST_RUN [63:0]. -/
def F.JIG_CORE_TIME.LAST_RUN : Field := ⟨0, 64⟩
/-- JIG_CORE_TIME.WINDOW_START [127:64]. -/
def F.JIG_CORE_TIME.WINDOW_START : Field := ⟨64, 64⟩
/-- ERR_WDOG.ENG_MS [7:0]. -/
def F.ERR_WDOG.ENG_MS : Field := ⟨0, 8⟩
/-- ERR_WDOG.PLN_MS [15:8]. -/
def F.ERR_WDOG.PLN_MS : Field := ⟨8, 8⟩
/-- ERR_ESC.STATE [2:0]. -/
def F.ERR_ESC.STATE : Field := ⟨0, 3⟩
/-- ERR_ESC.ACTIVE_LOG [12:8]. -/
def F.ERR_ESC.ACTIVE_LOG : Field := ⟨8, 5⟩
/-- ERR_ESC.CHIP_RESETS [31:16]. -/
def F.ERR_ESC.CHIP_RESETS : Field := ⟨16, 16⟩
/-- ERR_ESC.FAULT_CAUSE [34:32]. -/
def F.ERR_ESC.FAULT_CAUSE : Field := ⟨32, 3⟩
/-- ERR_ESC.SERVICE [35:35]. -/
def F.ERR_ESC.SERVICE : Field := ⟨35, 1⟩
/-- ERR_LOG_STATUS.COUNT [6:0]. -/
def F.ERR_LOG_STATUS.COUNT : Field := ⟨0, 7⟩
/-- ERR_LOG_STATUS.QUEUED [13:7]. -/
def F.ERR_LOG_STATUS.QUEUED : Field := ⟨7, 7⟩
/-- ERR_LOG_STATUS.ACTIVE_IDX [19:14]. -/
def F.ERR_LOG_STATUS.ACTIVE_IDX : Field := ⟨14, 6⟩
/-- ERR_LOG_STATUS.ACTIVE_VALID [20:20]. -/
def F.ERR_LOG_STATUS.ACTIVE_VALID : Field := ⟨20, 1⟩
/-- ERR_LOG_STATUS.LOST_ACTION [21:21]. -/
def F.ERR_LOG_STATUS.LOST_ACTION : Field := ⟨21, 1⟩
/-- ERR_LOG_STATUS.OVERFLOWS [47:32]. -/
def F.ERR_LOG_STATUS.OVERFLOWS : Field := ⟨32, 16⟩
/-- ERR_LOG_ACK.SEQ [31:0]. -/
def F.ERR_LOG_ACK.SEQ : Field := ⟨0, 32⟩
/-- ERR_LOG.RECORD [255:0]. -/
def F.ERR_LOG.RECORD : Field := ⟨0, 256⟩
/-- CRN_CTRL.EN_ENGINE [0:0]. -/
def F.CRN_CTRL.EN_ENGINE : Field := ⟨0, 1⟩
/-- CRN_CTRL.EN_PARTITION [1:1]. -/
def F.CRN_CTRL.EN_PARTITION : Field := ⟨1, 1⟩
/-- CRN_CTRL.EN_CHIP [2:2]. -/
def F.CRN_CTRL.EN_CHIP : Field := ⟨2, 1⟩
/-- CRN_CTRL.SPD_DUMP [3:3]. -/
def F.CRN_CTRL.SPD_DUMP : Field := ⟨3, 1⟩
/-- CRN_STATUS.NEXT [6:0]. -/
def F.CRN_STATUS.NEXT : Field := ⟨0, 7⟩
/-- CRN_STATUS.BUSY [7:7]. -/
def F.CRN_STATUS.BUSY : Field := ⟨7, 1⟩
/-- CRN_STATUS.SLOTS [14:8]. -/
def F.CRN_STATUS.SLOTS : Field := ⟨8, 7⟩
/-- CRN_STATUS.LAST_SEQ [63:32]. -/
def F.CRN_STATUS.LAST_SEQ : Field := ⟨32, 32⟩
/-- CRN_AON.SUMMARY [32767:0]. -/
def F.CRN_AON.SUMMARY : Field := ⟨0, 32768⟩
/-- BIV_CFG.MODE [1:0]. -/
def F.BIV_CFG.MODE : Field := ⟨0, 2⟩
/-- BIV_CFG.RESERVE_PAGES [12:2]. -/
def F.BIV_CFG.RESERVE_PAGES : Field := ⟨2, 11⟩
/-- BIV_CFG.TRIG_CORE [19:13]. -/
def F.BIV_CFG.TRIG_CORE : Field := ⟨13, 7⟩
/-- BIV_CFG.TRIG_CELL [29:20]. -/
def F.BIV_CFG.TRIG_CELL : Field := ⟨20, 10⟩
/-- BIV_CFG.GO_CELL [39:30]. -/
def F.BIV_CFG.GO_CELL : Field := ⟨30, 10⟩
/-- BIV_CTRL.EN [0:0]. -/
def F.BIV_CTRL.EN : Field := ⟨0, 1⟩
/-- BIV_CTRL.CAP_PCT [7:1]. -/
def F.BIV_CTRL.CAP_PCT : Field := ⟨1, 7⟩
/-- BIV_CTRL.INTERVAL [63:32]. -/
def F.BIV_CTRL.INTERVAL : Field := ⟨32, 32⟩
/-- BIV_NEXT.NEXT [63:0]. -/
def F.BIV_NEXT.NEXT : Field := ⟨0, 64⟩
/-- BIV_TARGET.LOCAL [39:0]. -/
def F.BIV_TARGET.LOCAL : Field := ⟨0, 40⟩
/-- BIV_TARGET.CHIP [56:40]. -/
def F.BIV_TARGET.CHIP : Field := ⟨40, 17⟩
/-- BIV_TARGET.VALID_IMAGE [63:63]. -/
def F.BIV_TARGET.VALID_IMAGE : Field := ⟨63, 1⟩
/-- BIV_STATUS.STATE [2:0]. -/
def F.BIV_STATUS.STATE : Field := ⟨0, 3⟩
/-- BIV_STATUS.SLOT [3:3]. -/
def F.BIV_STATUS.SLOT : Field := ⟨3, 1⟩
/-- BIV_STATUS.LAST_STATUS [6:4]. -/
def F.BIV_STATUS.LAST_STATUS : Field := ⟨4, 3⟩
/-- BIV_STATUS.PAGES_LEFT [26:8]. -/
def F.BIV_STATUS.PAGES_LEFT : Field := ⟨8, 19⟩
/-- BIV_STATUS.HELD [36:27]. -/
def F.BIV_STATUS.HELD : Field := ⟨27, 10⟩
/-- BIV_STATUS.STEP [127:64]. -/
def F.BIV_STATUS.STEP : Field := ⟨64, 64⟩
/-- BIV_COUNT.SNAPSHOTS [15:0]. -/
def F.BIV_COUNT.SNAPSHOTS : Field := ⟨0, 16⟩
/-- BIV_COUNT.SKIPPED [31:16]. -/
def F.BIV_COUNT.SKIPPED : Field := ⟨16, 16⟩
/-- BIV_COUNT.FAILED [39:32]. -/
def F.BIV_COUNT.FAILED : Field := ⟨32, 8⟩
/-- BIV_COUNT.HELD_PAGES [55:40]. -/
def F.BIV_COUNT.HELD_PAGES : Field := ⟨40, 16⟩
/-- BIV_COUNT.RESERVE_STALLS [63:56]. -/
def F.BIV_COUNT.RESERVE_STALLS : Field := ⟨56, 8⟩
/-- MGT_BOOT.STAGE [3:0]. -/
def F.MGT_BOOT.STAGE : Field := ⟨0, 4⟩
/-- MGT_BOOT.READY [4:4]. -/
def F.MGT_BOOT.READY : Field := ⟨4, 1⟩
/-- MGT_BOOT.WARM [5:5]. -/
def F.MGT_BOOT.WARM : Field := ⟨5, 1⟩
/-- MGT_BOOT.ACTIVE_SLOT [6:6]. -/
def F.MGT_BOOT.ACTIVE_SLOT : Field := ⟨6, 1⟩
/-- MGT_BOOT.BOOT_FAILS [15:8]. -/
def F.MGT_BOOT.BOOT_FAILS : Field := ⟨8, 8⟩
/-- MGT_FW.VERSION [63:0]. -/
def F.MGT_FW.VERSION : Field := ⟨0, 64⟩
/-- MGT_FW.STAGED [64:64]. -/
def F.MGT_FW.STAGED : Field := ⟨64, 1⟩
/-- MGT_FW.PENDING [65:65]. -/
def F.MGT_FW.PENDING : Field := ⟨65, 1⟩
/-- MGT_FW.STAGING [66:66]. -/
def F.MGT_FW.STAGING : Field := ⟨66, 1⟩
/-- MGT_FW.LOG_ENTRIES [80:72]. -/
def F.MGT_FW.LOG_ENTRIES : Field := ⟨72, 9⟩
/-- MGT_FW.SVN_FLOOR [127:96]. -/
def F.MGT_FW.SVN_FLOOR : Field := ⟨96, 32⟩
/-- MGT_CDC.MODE [0:0]. -/
def F.MGT_CDC.MODE : Field := ⟨0, 1⟩
/-- MGT_CDC.TIMEOUTS [31:16]. -/
def F.MGT_CDC.TIMEOUTS : Field := ⟨16, 16⟩
/-- MGT_CDC.FAIL_ADDR [63:32]. -/
def F.MGT_CDC.FAIL_ADDR : Field := ⟨32, 32⟩
/-- MGT_FWPROC.BC_RESTARTS [15:0]. -/
def F.MGT_FWPROC.BC_RESTARTS : Field := ⟨0, 16⟩
/-- MGT_FWPROC.HUT_N_RESTARTS [31:16]. -/
def F.MGT_FWPROC.HUT_N_RESTARTS : Field := ⟨16, 16⟩
/-- MGT_FWPROC.HUT_S_RESTARTS [47:32]. -/
def F.MGT_FWPROC.HUT_S_RESTARTS : Field := ⟨32, 16⟩
/-- MGT_FWPROC.BC_STATE [49:48]. -/
def F.MGT_FWPROC.BC_STATE : Field := ⟨48, 2⟩
/-- MGT_FWPROC.HUT_N_STATE [51:50]. -/
def F.MGT_FWPROC.HUT_N_STATE : Field := ⟨50, 2⟩
/-- MGT_FWPROC.HUT_S_STATE [53:52]. -/
def F.MGT_FWPROC.HUT_S_STATE : Field := ⟨52, 2⟩
/-- CLP_LIMITS.CORE_I_MAX_A [9:0]. -/
def F.CLP_LIMITS.CORE_I_MAX_A : Field := ⟨0, 10⟩
/-- CLP_LIMITS.SLEW [17:10]. -/
def F.CLP_LIMITS.SLEW : Field := ⟨10, 8⟩
/-- CLP_LIMITS.MIN_RAMP_STEP [25:18]. -/
def F.CLP_LIMITS.MIN_RAMP_STEP : Field := ⟨18, 8⟩
/-- CLP_LIMITS.VMIN_MV [35:26]. -/
def F.CLP_LIMITS.VMIN_MV : Field := ⟨26, 10⟩
/-- CLP_LIMITS.VMAX_MV [45:36]. -/
def F.CLP_LIMITS.VMAX_MV : Field := ⟨36, 10⟩
/-- CLP_LIMITS.CLK_FLOOR_MHZ [55:46]. -/
def F.CLP_LIMITS.CLK_FLOOR_MHZ : Field := ⟨46, 10⟩
/-- CLP_CTRL.CLK_LIMIT_MHZ [10:0]. -/
def F.CLP_CTRL.CLK_LIMIT_MHZ : Field := ⟨0, 11⟩
/-- CLP_CTRL.PWR_LIMIT_W [21:11]. -/
def F.CLP_CTRL.PWR_LIMIT_W : Field := ⟨11, 11⟩
/-- CLP_STATUS.CLK_N_MHZ [10:0]. -/
def F.CLP_STATUS.CLK_N_MHZ : Field := ⟨0, 11⟩
/-- CLP_STATUS.CLK_S_MHZ [21:11]. -/
def F.CLP_STATUS.CLK_S_MHZ : Field := ⟨11, 11⟩
/-- CLP_STATUS.EMERGENCY [22:22]. -/
def F.CLP_STATUS.EMERGENCY : Field := ⟨22, 1⟩
/-- CLP_STATUS.DIE_HOT [23:23]. -/
def F.CLP_STATUS.DIE_HOT : Field := ⟨23, 1⟩
/-- CLP_STATUS.STACK [24:24]. -/
def F.CLP_STATUS.STACK : Field := ⟨24, 1⟩
/-- CLP_STATUS.OPT_HOT [25:25]. -/
def F.CLP_STATUS.OPT_HOT : Field := ⟨25, 1⟩
/-- CLP_STATUS.CURRENT [26:26]. -/
def F.CLP_STATUS.CURRENT : Field := ⟨26, 1⟩
/-- CLP_STATUS.VOLTAGE [27:27]. -/
def F.CLP_STATUS.VOLTAGE : Field := ⟨27, 1⟩
/-- CLP_STATUS.POWER_LIMITING [28:28]. -/
def F.CLP_STATUS.POWER_LIMITING : Field := ⟨28, 1⟩
/-- CLP_STATUS.PKG_POWER_W [39:29]. -/
def F.CLP_STATUS.PKG_POWER_W : Field := ⟨29, 11⟩
/-- CLP_STATUS.VDD_N_MV [49:40]. -/
def F.CLP_STATUS.VDD_N_MV : Field := ⟨40, 10⟩
/-- CLP_STATUS.VDD_S_MV [59:50]. -/
def F.CLP_STATUS.VDD_S_MV : Field := ⟨50, 10⟩
/-- CLP_COUNT.EMERGENCIES [15:0]. -/
def F.CLP_COUNT.EMERGENCIES : Field := ⟨0, 16⟩
/-- CLP_COUNT.VID_TIMEOUTS [31:16]. -/
def F.CLP_COUNT.VID_TIMEOUTS : Field := ⟨16, 16⟩
/-- CLP_COUNT.OV_EVENTS [39:32]. -/
def F.CLP_COUNT.OV_EVENTS : Field := ⟨32, 8⟩
/-- CLP_COUNT.UV_EVENTS [47:40]. -/
def F.CLP_COUNT.UV_EVENTS : Field := ⟨40, 8⟩
/-- CLP_COUNT.LIMIT_MS [63:48]. -/
def F.CLP_COUNT.LIMIT_MS : Field := ⟨48, 16⟩
/-- CHIP_ID.PART [15:0]. -/
def F.CHIP_ID.PART : Field := ⟨0, 16⟩
/-- CHIP_ID.STEPPING [23:16]. -/
def F.CHIP_ID.STEPPING : Field := ⟨16, 8⟩
/-- CHIP_ID.DIES [25:24]. -/
def F.CHIP_ID.DIES : Field := ⟨24, 2⟩
/-- CHIP_CAP_UNITS.CORES [6:0]. -/
def F.CHIP_CAP_UNITS.CORES : Field := ⟨0, 7⟩
/-- CHIP_CAP_UNITS.SPARES [10:7]. -/
def F.CHIP_CAP_UNITS.SPARES : Field := ⟨7, 4⟩
/-- CHIP_CAP_UNITS.STACK_MASK [23:16]. -/
def F.CHIP_CAP_UNITS.STACK_MASK : Field := ⟨16, 8⟩
/-- CHIP_CAP_UNITS.ROPE_MASK [47:24]. -/
def F.CHIP_CAP_UNITS.ROPE_MASK : Field := ⟨24, 24⟩
/-- CHIP_CAP_UNITS.RIDGE_MASK [55:48]. -/
def F.CHIP_CAP_UNITS.RIDGE_MASK : Field := ⟨48, 8⟩
/-- CHIP_CAP_LIMITS.CLK_CAP_MHZ [10:0]. -/
def F.CHIP_CAP_LIMITS.CLK_CAP_MHZ : Field := ⟨0, 11⟩
/-- CHIP_CAP_LIMITS.PWR_CAP_W [21:11]. -/
def F.CHIP_CAP_LIMITS.PWR_CAP_W : Field := ⟨11, 11⟩
/-- CHIP_CAP_LIMITS.PART_MODES [24:22]. -/
def F.CHIP_CAP_LIMITS.PART_MODES : Field := ⟨22, 3⟩
/-- CHIP_CAP_LIMITS.CTX_MAX [29:25]. -/
def F.CHIP_CAP_LIMITS.CTX_MAX : Field := ⟨25, 5⟩
/-- CHIP_IDENT.RECORD [127:0]. -/
def F.CHIP_IDENT.RECORD : Field := ⟨0, 128⟩
/-- CHIP_IDENT_BAD.BAD [11:0]. -/
def F.CHIP_IDENT_BAD.BAD : Field := ⟨0, 12⟩
/-- CHIP_PART.MODE [2:0]. -/
def F.CHIP_PART.MODE : Field := ⟨0, 3⟩
/-- CHIP_PART.CHANGING [3:3]. -/
def F.CHIP_PART.CHANGING : Field := ⟨3, 1⟩
/-- CHIP_BAR_ERR.UNMAPPED [15:0]. -/
def F.CHIP_BAR_ERR.UNMAPPED : Field := ⟨0, 16⟩
/-- CHIP_BAR_ERR.SIZE_DROPS [31:16]. -/
def F.CHIP_BAR_ERR.SIZE_DROPS : Field := ⟨16, 16⟩
/-- CHIP_BAR_ERR.RB_WRITE_DROPS [47:32]. -/
def F.CHIP_BAR_ERR.RB_WRITE_DROPS : Field := ⟨32, 16⟩
/-- CHIP_WI_SUMMARY.CORE [0:0]. -/
def F.CHIP_WI_SUMMARY.CORE : Field := ⟨0, 1⟩
/-- CHIP_WI_SUMMARY.SCA [1:1]. -/
def F.CHIP_WI_SUMMARY.SCA : Field := ⟨1, 1⟩
/-- CHIP_WI_SUMMARY.JNR [2:2]. -/
def F.CHIP_WI_SUMMARY.JNR : Field := ⟨2, 1⟩
/-- CHIP_WI_SUMMARY.JNR_CTX [3:3]. -/
def F.CHIP_WI_SUMMARY.JNR_CTX : Field := ⟨3, 1⟩
/-- CHIP_WI_SUMMARY.LNK [4:4]. -/
def F.CHIP_WI_SUMMARY.LNK : Field := ⟨4, 1⟩
/-- CHIP_WI_SUMMARY.CXL_Q [5:5]. -/
def F.CHIP_WI_SUMMARY.CXL_Q : Field := ⟨5, 1⟩
/-- DIE_STATUS.CORE_PLL_LOCK [0:0]. -/
def F.DIE_STATUS.CORE_PLL_LOCK : Field := ⟨0, 1⟩
/-- DIE_STATUS.NOC_PLL_LOCK [1:1]. -/
def F.DIE_STATUS.NOC_PLL_LOCK : Field := ⟨1, 1⟩
/-- DIE_STATUS.BRIDGE_UP [2:2]. -/
def F.DIE_STATUS.BRIDGE_UP : Field := ⟨2, 1⟩
/-- DIE_STATUS.AWAKE [14:8]. -/
def F.DIE_STATUS.AWAKE : Field := ⟨8, 7⟩
/-- DIE_STATUS.NOC_TIMEOUTS [31:16]. -/
def F.DIE_STATUS.NOC_TIMEOUTS : Field := ⟨16, 16⟩
/-- DIE_STATUS.BRIDGE_RETRIES [47:32]. -/
def F.DIE_STATUS.BRIDGE_RETRIES : Field := ⟨32, 16⟩
/-- CHIP_RB_SEL.UNIT [15:0]. -/
def F.CHIP_RB_SEL.UNIT : Field := ⟨0, 16⟩
/-- CHIP_RB_SEL.SPACE [19:16]. -/
def F.CHIP_RB_SEL.SPACE : Field := ⟨16, 4⟩
/-- CHIP_RB_SEL.PAGE [47:32]. -/
def F.CHIP_RB_SEL.PAGE : Field := ⟨32, 16⟩
/-- CHIP_RB_STATUS.LAST [2:0]. -/
def F.CHIP_RB_STATUS.LAST : Field := ⟨0, 3⟩
/-- CHIP_RB_STATUS.UE_SEEN [3:3]. -/
def F.CHIP_RB_STATUS.UE_SEEN : Field := ⟨3, 1⟩
/-- CHIP_RB_STATUS.READS [47:16]. -/
def F.CHIP_RB_STATUS.READS : Field := ⟨16, 32⟩

/-- Rows 0 to 9 of the register map. -/
def regTable0 : List RegRow := [
  ⟨0x04800008, [(0x10000, 104)], true, .chip, 0x0, 0x0, 0x0, 0x0, 0x0, 0x0, 0x0⟩,
  ⟨0x04800000, [(0x10000, 104)], false, .engine, 0x0, 0x0, 0x400000, 0x0, 0x0, 0x0, 0x0⟩,
  ⟨0x04800100, [(0x10000, 104)], true, .engine, 0xFF, 0xFF, 0x0, 0x0, 0x0, 0xFF, 0x0⟩,
  ⟨0x04800140, [(0x10000, 104)], false, .engine, 0x0, 0x0, 0x0, 0x0, 0x0, 0x0, 0x0⟩,
  ⟨0x04800020, [(0x10000, 104), (0x8, 2)], true, .engine, 0x0, 0x0, 0x0, 0x0, 0x0, 0x0, 0x0⟩,
  ⟨0x04800600, [(0x10000, 104), (0x40, 4)], true, .engine, 0x0, 0x0, 0x300, 0x0, 0x0, 0x0, 0x0⟩,
  ⟨0x04800410, [(0x10000, 104)], true, .engine, 0x1DCD6500, 0xFFFFFFFF, 0x0, 0x0, 0x0, 0x0, 0x0⟩,
  ⟨0x04800400, [(0x10000, 104), (0x8, 2)], true, .engine, 0x0, 0x0, 0x0, 0x0, 0x0, 0x0, 0x0⟩,
  ⟨0x04808000, [(0x10000, 104), (0x8, 1024)], false, .engine, 0x0, 0x0, 0x0, 0x0, 0x0, 0x0, 0x0⟩,
  ⟨0x04801000, [(0x10000, 104)], true, .engine, 0x610, 0xFFF, 0x0, 0x0, 0xF00, 0x0, 0x0⟩]

/-- Rows 10 to 19 of the register map. -/
def regTable1 : List RegRow := [
  ⟨0x04801100, [(0x10000, 104), (0x10, 16)], true, .engine, 0x10000, 0x0, 0x0, 0x0, 0x0, 0x0, 0x0⟩,
  ⟨0x04801200, [(0x10000, 104), (0x10, 16)], false, .engine, 0x0, 0x0, 0x0, 0x0, 0x0, 0x0, 0x0⟩,
  ⟨0x04801300, [(0x10000, 104)], false, .engine, 0x0, 0x0, 0x0, 0x0, 0x0, 0x0, 0x0⟩,
  ⟨0x04802C00, [(0x10000, 104), (0x8, 2)], false, .engine, 0x0, 0x0, 0x0, 0x0, 0x0, 0x0, 0x0⟩,
  ⟨0x04801400, [(0x10000, 104), (0x8, 2)], true, .engine, 0x0, 0xFFFFFFFF, 0x0, 0x0, 0x0, 0xFFFFFFFF, 0x0⟩,
  ⟨0x04801500, [(0x10000, 104), (0x10, 16)], false, .engine, 0x0, 0x0, 0x0, 0x0, 0x0, 0x0, 0x0⟩,
  ⟨0x04801600, [(0x10000, 104)], true, .engine, 0x0, 0x0, 0x1, 0x0, 0x0, 0x0, 0x0⟩,
  ⟨0x04802000, [(0x10000, 104)], false, .engine, 0x0, 0x0, 0x300, 0x0, 0x0, 0x0, 0x0⟩,
  ⟨0x04802008, [(0x10000, 104)], false, .engine, 0x0, 0x0, 0x0, 0x0, 0x0, 0x0, 0x0⟩,
  ⟨0x04802040, [(0x10000, 104)], false, .engine, 0x0, 0x0, 0x0, 0x0, 0x0, 0x0, 0x0⟩]

/-- Rows 20 to 29 of the register map. -/
def regTable2 : List RegRow := [
  ⟨0x04800180, [(0x10000, 104)], false, .engine, 0x0, 0x0, 0x0, 0x0, 0x0, 0x0, 0x0⟩,
  ⟨0x04800188, [(0x10000, 104)], false, .engine, 0x0, 0x0, 0x0, 0x0, 0x0, 0x0, 0x0⟩,
  ⟨0x04800190, [(0x10000, 104)], false, .engine, 0x0, 0x0, 0x0, 0x0, 0x0, 0x0, 0x0⟩,
  ⟨0x04800198, [(0x10000, 104)], false, .engine, 0x0, 0x0, 0x0, 0x0, 0x0, 0x0, 0x0⟩,
  ⟨0x00400000, [(0x1000, 16)], false, .context, 0x10180007D0, 0x7FFFFFFFFFFF, 0x0, 0x0, 0x7FFF00000000, 0xFFFFFFFF, 0x0⟩,
  ⟨0x00400008, [(0x1000, 16)], false, .context, 0x10, 0x0, 0x0, 0x0, 0x0, 0x0, 0x0⟩,
  ⟨0x00400010, [(0x1000, 16)], false, .context, 0x0, 0x0, 0x8000000000000000, 0x0, 0x0, 0x0, 0x0⟩,
  ⟨0x00400018, [(0x1000, 16)], false, .context, 0x0, 0x0, 0x0, 0x0, 0x0, 0x0, 0x0⟩,
  ⟨0x01400000, [(0x800000, 2), (0x8000, 16), (0x200, 64), (0x20, 16), (0x8, 4)], false, .context, 0x0, 0x0, 0x0, 0x0, 0x0, 0x0, 0x0⟩,
  ⟨0x01480000, [(0x800000, 2), (0x8, 16)], false, .context, 0x0, 0x0, 0x4, 0x1, 0x0, 0x0, 0x0⟩]

/-- Rows 30 to 39 of the register map. -/
def regTable3 : List RegRow := [
  ⟨0x08000000, [(0x100000, 8)], false, .chip, 0x0, 0x0, 0x0, 0x0, 0x0, 0x0, 0xFF00⟩,
  ⟨0x08000010, [(0x100000, 8)], true, .chip, 0x0, 0x0, 0x0, 0x0, 0x0, 0x0, 0xFFFFFF⟩,
  ⟨0x08000020, [(0x100000, 8)], true, .chip, 0x0, 0x7C, 0x0, 0x3, 0x0, 0x0, 0x0⟩,
  ⟨0x08000030, [(0x100000, 8)], true, .chip, 0x400080A, 0xFFFFFFFF, 0x0, 0x0, 0x0, 0x0, 0x0⟩,
  ⟨0x08000038, [(0x100000, 8)], true, .chip, 0x64, 0xFFFF, 0x0, 0x0, 0x0, 0x0, 0x0⟩,
  ⟨0x08000040, [(0x100000, 8)], false, .chip, 0x0, 0x0, 0x0, 0x0, 0x0, 0x0, 0x0⟩,
  ⟨0x08000100, [(0x100000, 8), (0x8, 32)], false, .chip, 0x4000000000000, 0xFFFFFFFFFFFF, 0x0, 0x0, 0x0, 0x0, 0xFFFFFFFFFFFF⟩,
  ⟨0x00030000, [(0x8, 4)], true, .chip, 0x0, 0x0, 0x0, 0x0, 0x0, 0x0, 0x0⟩,
  ⟨0x00050000, [], true, .chip, 0x0, 0x3FFFF, 0x0, 0x0, 0x3FFFF, 0x0, 0x0⟩,
  ⟨0x00050008, [], true, .chip, 0x421, 0x3FFF, 0x0, 0x0, 0x3FFF, 0x0, 0x0⟩]

/-- Rows 40 to 49 of the register map. -/
def regTable4 : List RegRow := [
  ⟨0x00050010, [], true, .chip, 0x1F4, 0xFFFF, 0x0, 0x0, 0x0, 0x0, 0x0⟩,
  ⟨0x00050018, [], false, .chip, 0x0, 0x0, 0x8000000000000000, 0x0, 0x0, 0x0, 0x0⟩,
  ⟨0x00500000, [(0x1000, 16)], false, .context, 0x0, 0xFFFFFFF000, 0x0, 0x0, 0xFFFFFFF000, 0x0, 0x0⟩,
  ⟨0x00500008, [(0x1000, 16)], false, .context, 0x9200210800, 0xFFFFFFFFFFFFFF, 0x0, 0x0, 0xFFFFFFFFFFFFFF, 0x0, 0x0⟩,
  ⟨0x00500010, [(0x1000, 16)], true, .context, 0x0, 0x0, 0x4, 0x1, 0x0, 0x0, 0x0⟩,
  ⟨0x00500100, [(0x1000, 16), (0x20, 8)], false, .context, 0xA8, 0xFFFFC00001FF, 0x0, 0x0, 0xFFFFC00001FF, 0x0, 0x0⟩,
  ⟨0x00500108, [(0x1000, 16), (0x20, 8)], false, .context, 0x840420210, 0x7FFFFFFFFF, 0x0, 0x0, 0x7FFFFFFFFF, 0x0, 0x0⟩,
  ⟨0x00500110, [(0x1000, 16), (0x20, 8)], false, .context, 0x91224, 0xFFFFE000001FFFFF, 0x0, 0x0, 0xFFFFE000001FFFFF, 0x0, 0x0⟩,
  ⟨0x09000000, [(0x10000, 32)], false, .chip, 0x0, 0x0, 0x0, 0x0, 0x0, 0x0, 0x800⟩,
  ⟨0x09000008, [(0x10000, 32)], true, .chip, 0x5, 0x7D, 0x0, 0x2, 0x78, 0x0, 0x0⟩]

/-- Rows 50 to 59 of the register map. -/
def regTable5 : List RegRow := [
  ⟨0x09000010, [(0x10000, 32)], false, .chip, 0x0, 0x0, 0x8000000000000000, 0x0, 0x0, 0x0, 0x0⟩,
  ⟨0x00060000, [], true, .chip, 0x0, 0x0, 0x0, 0x0, 0x0, 0x0, 0x0⟩,
  ⟨0x00060008, [], false, .chip, 0x0, 0x3FFFF, 0x0, 0x0, 0x0, 0x0, 0x0⟩,
  ⟨0x00060010, [], false, .chip, 0x0, 0x0, 0x0, 0x0, 0x0, 0x0, 0x0⟩,
  ⟨0x0A000000, [(0x100000, 2)], true, .chip, 0x1107D0, 0x1FFFFF, 0x0, 0x0, 0x0, 0x0, 0x0⟩,
  ⟨0x0A000008, [(0x100000, 2)], false, .chip, 0x0, 0x0, 0x0, 0x0, 0x0, 0x0, 0x0⟩,
  ⟨0x0A000010, [(0x100000, 2)], false, .chip, 0x0, 0x0, 0x0, 0x0, 0x0, 0x0, 0x0⟩,
  ⟨0x0A000018, [(0x100000, 2)], false, .chip, 0x0, 0x0, 0x1, 0x0, 0x0, 0x0, 0x0⟩,
  ⟨0x0A010000, [(0x100000, 2), (0x2000, 16), (0x20, 256), (0x8, 2)], false, .context, 0x0, 0x0, 0x0, 0x0, 0x0, 0x0, 0x0⟩,
  ⟨0x0A010010, [(0x100000, 2), (0x2000, 16), (0x20, 256)], false, .context, 0x0, 0x0, 0x0, 0x0, 0x0, 0x0, 0x0⟩]

/-- Rows 60 to 69 of the register map. -/
def regTable6 : List RegRow := [
  ⟨0x00070000, [], false, .chip, 0x0, 0x0, 0x0, 0x0, 0x0, 0x0, 0x0⟩,
  ⟨0x00070008, [], false, .chip, 0x0, 0xFFFFFFF000000000, 0x0, 0x0, 0xFFFFFFF000000000, 0x0, 0x0⟩,
  ⟨0x00071000, [(0x40, 64)], false, .chip, 0x0, 0x7FFFFFF, 0x0, 0x0, 0x7FFFFFE, 0x0, 0x0⟩,
  ⟨0x00071008, [(0x40, 64)], false, .chip, 0x0, 0xFFFFFFFFFFFFFFFF, 0x0, 0x0, 0xFFFFFFFFFFFFFFFF, 0x0, 0x0⟩,
  ⟨0x00071010, [(0x40, 64)], false, .chip, 0x0, 0xFFFFFFFFFFFFFFFF, 0x0, 0x0, 0xFFFFFFFFFFFFFFFF, 0x0, 0x0⟩,
  ⟨0x00071018, [(0x40, 64)], false, .chip, 0x0, 0xFFFFFFFFFFFFFFFF, 0x0, 0x0, 0xFFFFFFFFFFFFFFFF, 0x0, 0x0⟩,
  ⟨0x00071020, [(0x40, 64)], false, .chip, 0x0, 0x0, 0x40000, 0x0, 0x0, 0x0, 0x0⟩,
  ⟨0x0B000000, [(0x1000, 7)], true, .chip, 0x0, 0x8, 0x4, 0x1, 0x0, 0x0, 0x0⟩,
  ⟨0x0B007000, [], false, .chip, 0x10000, 0x3F3F00, 0x0, 0x0, 0x0, 0x0, 0x0⟩,
  ⟨0x00080000, [], false, .aon, 0x0, 0x0, 0x0, 0x0, 0x0, 0x0, 0x0⟩]

/-- Rows 70 to 79 of the register map. -/
def regTable7 : List RegRow := [
  ⟨0x00090000, [], true, .chip, 0x7D1E0B5, 0xFFFFFFF, 0x0, 0x0, 0x0, 0x0, 0x0⟩,
  ⟨0x00090008, [], false, .chip, 0x0, 0x0, 0x0, 0x0, 0x0, 0x0, 0x0⟩,
  ⟨0x00090010, [], false, .chip, 0x0, 0x0, 0x0, 0x0, 0x0, 0x0, 0xFFFFFFFFFFFFFFFF⟩,
  ⟨0x00090018, [], true, .chip, 0x0, 0x0, 0x0, 0x0, 0x0, 0x0, 0x0⟩,
  ⟨0x00090020, [], true, .chip, 0x0, 0xFE, 0x0, 0x1, 0x0, 0x0, 0x0⟩,
  ⟨0x00090030, [(0x8, 2)], false, .chip, 0x0, 0x0, 0x0, 0x0, 0x0, 0x0, 0xFFFFFFFFFFFFFFFF⟩,
  ⟨0x00091000, [(0x20, 104)], false, .chip, 0x0, 0xFFFFFFFF0000FF00, 0x0, 0x0, 0x0, 0x0, 0xFFFFFFFF0000FF03⟩,
  ⟨0x00091008, [(0x20, 104)], false, .chip, 0x0, 0x0, 0x0, 0x0, 0x0, 0x0, 0x0⟩,
  ⟨0x00091010, [(0x20, 104)], false, .chip, 0x0, 0x0, 0x0, 0x0, 0x0, 0x0, 0xFFFFFFFFFFFFFFFF⟩,
  ⟨0x000A0000, [], true, .chip, 0xA32, 0xFFFF, 0x0, 0x0, 0x0, 0x0, 0x0⟩]

/-- Rows 80 to 89 of the register map. -/
def regTable8 : List RegRow := [
  ⟨0x000A0008, [], false, .chip, 0x0, 0x0, 0x0, 0x0, 0x0, 0x0, 0xFFFFF0000⟩,
  ⟨0x000A0100, [(0x8, 21)], false, .log, 0x0, 0x0, 0x0, 0x0, 0x0, 0x0, 0x0⟩,
  ⟨0x000A0200, [(0x8, 21)], true, .log, 0x0, 0xFFFFFFFF, 0x0, 0x0, 0x0, 0x0, 0x0⟩,
  ⟨0x000A1000, [(0x800, 21), (0x20, 64), (0x8, 4)], false, .log, 0x0, 0x0, 0x0, 0x0, 0x0, 0x0, 0x0⟩,
  ⟨0x000B0000, [], true, .chip, 0x7, 0xF, 0x0, 0x0, 0x0, 0x0, 0x0⟩,
  ⟨0x000B0008, [], false, .chip, 0x0, 0x0, 0x0, 0x0, 0x0, 0x0, 0xFFFFFFFF0000007F⟩,
  ⟨0x000B1000, [(0x1000, 4), (0x8, 512)], false, .aon, 0x0, 0x0, 0x0, 0x0, 0x0, 0x0, 0x0⟩,
  ⟨0x000C0000, [(0x100, 16)], false, .context, 0x0, 0x0, 0x0, 0x0, 0x0, 0x0, 0x0⟩,
  ⟨0x000C0008, [(0x100, 16)], false, .context, 0x64, 0xFF, 0x0, 0x0, 0x0, 0x0, 0x0⟩,
  ⟨0x000C0010, [(0x100, 16)], false, .context, 0x0, 0x0, 0x0, 0x0, 0x0, 0x0, 0x0⟩]

/-- Rows 90 to 99 of the register map. -/
def regTable9 : List RegRow := [
  ⟨0x000C0018, [(0x100, 16), (0x8, 2)], false, .context, 0x0, 0x0, 0x0, 0x0, 0x0, 0x0, 0x0⟩,
  ⟨0x000C0028, [(0x100, 16)], false, .context, 0x0, 0x0, 0x0, 0x0, 0x0, 0x0, 0x0⟩,
  ⟨0x000C0030, [(0x100, 16)], false, .context, 0x0, 0x0, 0x0, 0x0, 0x0, 0x0, 0x0⟩,
  ⟨0x000C0038, [(0x100, 16)], false, .context, 0x0, 0x0, 0x0, 0x0, 0x0, 0x0, 0x0⟩,
  ⟨0x00080010, [], false, .aon, 0x0, 0x0, 0x0, 0x0, 0x0, 0x0, 0x0⟩,
  ⟨0x00080020, [], false, .aon, 0x0, 0x0, 0x0, 0x0, 0x0, 0x0, 0x0⟩,
  ⟨0x00080028, [], false, .aon, 0x0, 0x0, 0x0, 0x0, 0x0, 0x0, 0x0⟩,
  ⟨0x00080030, [], false, .aon, 0x0, 0x1, 0x0, 0x0, 0x0, 0x0, 0x0⟩,
  ⟨0x00080040, [], false, .aon, 0x0, 0x0, 0x0, 0x0, 0x0, 0x0, 0x0⟩,
  ⟨0x000D0000, [], false, .aon, 0x64320960248EBC, 0x0, 0x0, 0x0, 0x0, 0x0, 0x0⟩]

/-- Rows 100 to 109 of the register map. -/
def regTable10 : List RegRow := [
  ⟨0x000D0008, [], true, .chip, 0x0, 0x3FFFFF, 0x0, 0x0, 0x0, 0x0, 0x0⟩,
  ⟨0x000D0010, [], false, .chip, 0x0, 0x0, 0x0, 0x0, 0x0, 0x0, 0x0⟩,
  ⟨0x000D0018, [], false, .chip, 0x0, 0x0, 0x0, 0x0, 0x0, 0x0, 0x0⟩,
  ⟨0x00000000, [], true, .aon, 0x2000000, 0x0, 0x0, 0x0, 0x0, 0x0, 0x0⟩,
  ⟨0x00000008, [], false, .chip, 0x0, 0x0, 0x0, 0x0, 0x0, 0x0, 0x0⟩,
  ⟨0x00000010, [], true, .aon, 0x20000000, 0x0, 0x0, 0x0, 0x0, 0x0, 0x0⟩,
  ⟨0x00000100, [(0x10, 12)], false, .aon, 0x0, 0x0, 0x0, 0x0, 0x0, 0x0, 0x0⟩,
  ⟨0x00000108, [(0x10, 12)], false, .aon, 0x0, 0x0, 0x0, 0x0, 0x0, 0x0, 0x0⟩,
  ⟨0x00000200, [], true, .aon, 0x0, 0x0, 0x0, 0x0, 0x0, 0x0, 0x0⟩,
  ⟨0x00010000, [], true, .chip, 0x1, 0x0, 0x0, 0x0, 0x0, 0x0, 0x7⟩]

/-- Rows 110 to 114 of the register map. -/
def regTable11 : List RegRow := [
  ⟨0x00020000, [], false, .chip, 0x0, 0x0, 0x0, 0x0, 0x0, 0x0, 0x0⟩,
  ⟨0x00020008, [], true, .chip, 0x0, 0x0, 0x0, 0x0, 0x0, 0x0, 0x0⟩,
  ⟨0x01000000, [(0x800000, 2)], false, .chip, 0x0, 0x0, 0x0, 0x0, 0x0, 0x0, 0x0⟩,
  ⟨0x00020100, [(0x10, 4)], false, .chip, 0x0, 0xFFFF000FFFFF, 0x0, 0x0, 0x0, 0x0, 0x0⟩,
  ⟨0x00020108, [(0x10, 4)], false, .chip, 0x0, 0x0, 0x8, 0x0, 0x0, 0x0, 0x0⟩]

/-- Every word of the register map. -/
def regTable : List RegRow :=
  regTable0 ++ regTable1 ++ regTable2 ++ regTable3 ++ regTable4 ++ regTable5 ++ regTable6 ++ regTable7 ++ regTable8 ++ regTable9 ++ regTable10 ++ regTable11

/-- Whether `off` bytes past a base is an index combination of the dimensions. -/
def dimsHit : List (Nat × Nat) → Nat → Bool
  | [], off => off == 0
  | (st, n) :: ds, off => off / st < n && dimsHit ds (off % st)

/-- The row of the register map that holds the slot at `a`. -/
def findRow : List RegRow → Nat → Option RegRow
  | [], _ => none
  | r :: rs, a => if r.base ≤ a && dimsHit r.dims (a - r.base) then some r else findRow rs a

/-- The register map's row of a slot; none where the offset is unmapped (R409). -/
def regRow (a : Nat) : Option RegRow := findRow regTable a

/-- The fused value of CORE_PHYS of physical core `p` (R29): PHYS, DIE, CLUSTER and POS. -/
def corePhysWord (p : Nat) : Nat := p + (p / 52) * 0x80 + (p % 52 / 4) * 0x100 + (p % 4) * 0x1000

/-- What a slot holds while nothing has changed it: the reset value of its register, 0 where none is mapped. The values
fused for one part only (CHIP_ID and the like) are written by `State.reset` and at each chip reset. -/
def resetWord (a : Nat) : Word :=
  if 0x04800008 ≤ a && dimsHit [(0x10000, 104)] (a - 0x04800008) then
    BitVec.ofNat 64 (corePhysWord ((a - 0x04800008) / 0x10000))
  else match regRow a with
  | some r => BitVec.ofNat 64 r.reset
  | none => 0

end Sys2Proof.Machine
end

