-- ==== Sys2Proof/Machine/Regs.lean ====
section
/-!
DEFINITION. Reads and writes of the register file and of the keyed parts of the state. Every change of a register goes
through `State.setWord`.
-/
namespace Sys2Proof.Machine

/-- The 64-bit word of the register slot at byte offset `a`. -/
def State.word (s : State) (a : Nat) : Word := SMap.lookD s.regs a (resetWord a)

/-- Give the register slot at byte offset `a` a value. -/
def State.setWord (s : State) (a : Nat) (v : Word) : State := { s with regs := SMap.putD s.regs a v (resetWord a) }

/-- A field of the register at `r`. -/
def State.rd (s : State) (r : Nat) (f : Field) : Nat := bits (s.word (r + 8 * (f.lo / 64))).toNat (f.lo % 64) f.n

/-- Give a field of the register at `r` a value, its low bits. -/
def State.wr (s : State) (r : Nat) (f : Field) (v : Nat) : State :=
  let a := r + 8 * (f.lo / 64)
  s.setWord a (BitVec.ofNat 64 (setBits (s.word a).toNat (f.lo % 64) f.n v))

/-- Whether a one-bit field reads 1. -/
def State.flag (s : State) (r : Nat) (f : Field) : Bool := s.rd r f == 1

/-- Add to a field that saturates at all ones. -/
def State.bump (s : State) (r : Nat) (f : Field) (k : Nat) : State := s.wr r f (min (s.rd r f + k) (2 ^ f.n - 1))

/-- Add to a field that wraps. -/
def State.count (s : State) (r : Nat) (f : Field) (k : Nat) : State := s.wr r f (s.rd r f + k)

/-- Return the listed slots that `sel` selects to their reset values. -/
def State.resetSlots (s : State) (sel : Nat → Bool) : State := { s with regs := s.regs.filter (fun kv => !sel kv.1) }

/-- The value of a slot when its domain resets: RWS bits keep their value (R413). -/
def resetKeep (a : Nat) (v : Word) : Word :=
  match regRow a with
  | some r => BitVec.ofNat 64 ((v.toNat &&& r.sticky) ||| (r.reset &&& (2 ^ 64 - 1 - r.sticky)))
  | none => 0

/-- Return the slots that `sel` selects to their reset values, keeping RWS fields (R413). -/
def State.resetSlotsKeep (s : State) (sel : Nat → Bool) : State :=
  { s with regs := s.regs.filterMap (fun kv =>
      if sel kv.1 then
        let v := resetKeep kv.1 kv.2
        if v = resetWord kv.1 then none else some (kv.1, v)
      else some kv) }

/-- The reset domain of a slot. -/
def domOf (a : Nat) : Option Dom := (regRow a).map RegRow.dom

/-- A core's state beyond its registers. -/
def State.core (s : State) (p : Nat) : Core := SMap.lookD s.cores p {}

/-- Replace a core's state. -/
def State.setCore (s : State) (p : Nat) (c : Core) : State := { s with cores := SMap.putD s.cores p c {} }

/-- A context's state. -/
def State.ctx (s : State) (c : Nat) : Ctx := SMap.lookD s.ctxs c {}

/-- Replace a context's state. -/
def State.setCtx (s : State) (c : Nat) (x : Ctx) : State := { s with ctxs := SMap.putD s.ctxs c x {} }

/-- A plinth's state beyond its registers. -/
def State.plinth (s : State) (i : Nat) : Plinth := SMap.lookD s.plinths i {}

/-- Replace a plinth's state. -/
def State.setPlinth (s : State) (i : Nat) (x : Plinth) : State := { s with plinths := SMap.putD s.plinths i x {} }

/-- A port's state beyond its registers. -/
def State.port (s : State) (w : Nat) : Port := SMap.lookD s.ports w {}

/-- Replace a port's state. -/
def State.setPort (s : State) (w : Nat) (x : Port) : State := { s with ports := SMap.putD s.ports w x {} }

/-- A submission queue's state beyond its registers. -/
def State.queue (s : State) (q : Nat) : Queue := SMap.lookD s.queues q {}

/-- Replace a submission queue's state. -/
def State.setQueue (s : State) (q : Nat) (x : Queue) : State := { s with queues := SMap.putD s.queues q x {} }

/-- An MSI-X vector's state. -/
def State.vector (s : State) (v : Nat) : Msix := SMap.lookD s.msix v {}

/-- Replace an MSI-X vector's state. -/
def State.setVector (s : State) (v : Nat) (x : Msix) : State := { s with msix := SMap.putD s.msix v x {} }

/-- An error log. -/
def State.log (s : State) (d : Nat) : ErrLog := SMap.lookD s.logs d {}

/-- Replace an error log. -/
def State.setLog (s : State) (d : Nat) (x : ErrLog) : State := { s with logs := SMap.putD s.logs d x {} }

/-! ### Messages on a link -/

/-- The first 32 bytes of a request or response, bit 0 the lowest bit of the first byte (Table 74). -/
def hdrWord (cls : BitVec 4) (h : FabHdr) : BitVec 256 :=
  0#64 ++ h.stream ++ 0#9 ++ h.status ++ BitVec.ofBool h.poison ++ h.state ++ h.sealAmt ++ h.tag ++ 0#2 ++ h.len ++ h.addr ++
  0#6 ++ h.key ++ h.src ++ h.dst ++ 0#3 ++ BitVec.ofBool h.whole ++ cls

/-- Class of a message: bits [3:0] of every class (Table 75). -/
def classOf (m : BitVec 256) : Nat := (m.extractLsb' 0 4).toNat

/-- The fields of Table 74 in the first 32 bytes of a message. DST and SRC stand in the same place in every class. -/
def hdrOf (m : BitVec 256) : FabHdr :=
  { whole := m.getLsbD 4, dst := m.extractLsb' 8 17, src := m.extractLsb' 25 17, key := m.extractLsb' 42 16,
    addr := m.extractLsb' 64 40, len := m.extractLsb' 104 6, tag := m.extractLsb' 112 16, sealAmt := m.extractLsb' 128 32,
    state := m.extractLsb' 160 2, poison := m.getLsbD 162, status := m.extractLsb' 163 4, stream := m.extractLsb' 176 16 }

/-- Bytes of a message of this class: LEN units of 64 B follow the header of WR_REQ, RD_RSP and of a chunk, whose own header has 64 bytes
(Tables 75, 87). -/
def messageBytes (m : BitVec 256) : Nat :=
  if classOf m = 2 ∨ classOf m = 8 then 32 + ((hdrOf m).len.toNat + 1) * 64
  else if classOf m = 14 then 64 + ((m.extractLsb' 160 10).toNat + 1) * 64 else 32

/-- Virtual channel of a message class (Table 81, R256): 0 requests, 1 responses, 2 splice, 3 notices. -/
def channelOf (cls : Nat) : Nat :=
  if cls ≤ 3 then 0 else if cls ≤ 11 then 1 else if cls ≤ 13 then 3 else 2

/-- The virtual channel of something sent on a link, its port, its message bytes with the route word before it on a ridge port (R242), and
the requests of other chips it holds (R254). -/
def Out.link : Out → Option (Nat × Nat × Nat × List (BitVec 256))
  | .fab cls (some w) rw _ _ d => some (w, channelOf cls, 32 + d.length + (if rw.isSome then 4 else 0), [])
  | .forward w rw m =>
    some (w, channelOf (classOf m), messageBytes m + (if rw.isSome then 4 else 0), if 1 ≤ classOf m ∧ classOf m ≤ 3 then [m] else [])
  | .notice _ w _ => some (w, 3, if 24 ≤ w then 36 else 32, [])
  | .witness w rw _ => some (w, 3, 32 + (if rw.isSome then 4 else 0), [])
  | .splCtl _ (some w) rw _ => some (w, 2, 32 + (if rw.isSome then 4 else 0), [])
  | .chunk (some w) rw _ d => some (w, 2, 64 + d.length + (if rw.isSome then 4 else 0), [])
  | _ => none

/-- Flits of the retry buffer of a port (R243). -/
def retryFlits : Nat := 2048

/-- Flits of a port that stand in its retry buffer. -/
def Port.held (x : Port) : Nat := min retryFlits x.flits.length

/-- Sequence number of the next flit that a port sends. -/
def Port.tx (x : Port) : BitVec 12 := x.base + BitVec.ofNat 12 x.held

/-- Put the flits of a message into its port: 242 payload bytes to a flit (Table 81). Messages of one channel and one time run on in the
newest flit; a flit beyond the retry buffer's 2048 waits for room there (R243). -/
def State.sendFlits (s : State) (w vc bytes : Nat) (ends : List (BitVec 256)) : State :=
  let x := s.port w
  let last := x.flits.getLast?
  let room := match last with
    | some f => if f.vc = vc ∧ x.fillAt = s.time then 242 - x.fill else 0
    | none => 0
  let n := (bytes - room + 241) / 242
  let head := if n = 0 then (match last with
      | some f => x.flits.dropLast ++ [{ f with ends := f.ends ++ ends }]
      | none => [])
    else x.flits
  s.setPort w { x with
    flits := head ++ (List.replicate (n - 1) ({ vc := vc } : Flit) ++ List.replicate (min n 1) { vc := vc, ends := ends })
    fill := if n = 0 then x.fill + bytes else bytes - room - 242 * (n - 1)
    fillAt := s.time
    used := SMap.putD x.used vc (SMap.lookD x.used vc 0 + n) 0
    since := if x.flits.isEmpty then s.time else x.since }

/-- The chip sends something. A message on a link takes its flits. -/
def State.emit (s : State) (o : Out) : State :=
  let s := match o.link with
    | some (w, vc, n, ends) => s.sendFlits w vc n ends
    | none => s
  { s with outbox := s.outbox ++ [o] }

/-- Draw the index of the next free value. -/
def State.draw (s : State) : State := { s with free := s.free + 1 }

end Sys2Proof.Machine
end

