-- ==== Sys2Proof/Machine/Save.lean ====
section
/-!
DEFINITION. What a yield saves of a slot (R53, R54), and the save area and workspace of a core's jig bench (R328, R330, R333).
-/
namespace Sys2Proof.Machine

/-- The owner number of a jig's pattern, beside the contexts 0 to 15. -/
def jigCtx : Nat := 16

/-- Whether core `p` runs a jig's pattern, in jig mode (Table 105 step 4). -/
def Core.jigging (k : Core) : Bool := k.jig.any (fun r => r.began.isSome)

/-- Whether core `p` runs a jig's pattern. -/
def State.jigging (s : State) (p : Nat) : Bool := (s.core p).jigging

/-- Change the jig run of core `p`. -/
def State.onJig (s : State) (p : Nat) (f : JigRun → JigRun) : State := s.setCore p { s.core p with jig := (s.core p).jig.map f }

/-- Run-ahead belongs to the context that a core runs: in jig mode there is none. -/
def Core.window (k : Core) : Option RunAhead := if k.jigging then none else k.ahead

/-- A cube's state beyond its registers. -/
def Core.cube (k : Core) (c : Nat) : Cube := SMap.lookD k.cubes c {}

/-- Replace a cube's state. -/
def State.setCube (s : State) (p c : Nat) (x : Cube) : State :=
  s.setCore p { s.core p with cubes := SMap.putD (s.core p).cubes c x {} }

/-- Poison bits of the 16 accumulators. -/
def State.accPoisons (s : State) (p : Nat) : BitVec 16 :=
  BitVec.ofNat 16 ((upto 16).foldl (fun m c => m + s.rd (R.CUBE_STATUS p c) F.CUBE_STATUS.ACC_POISON * 2 ^ c) 0)

/-- What a yield saves of a slot (R53, R54, R116, R155). -/
structure SaveImage where
  sregs   : SMap Word := []
  vregs   : SMap VWord := []
  vpoison : Word := 0
  accs    : SMap VWord := []
  accStat : SMap Word := []   -- TERMS, ACCUM_LONG and SR_CTR of each cube, as CUBE_ACC_STATUS holds them
  accPoison : BitVec 16 := 0
  pc      : Word := 0
  handler : Word := 0
  hret    : Word := 0
  deriving DecidableEq, Repr

/-- The image of the running slot (R53, R54). -/
def State.imageOf (s : State) (p : Nat) : SaveImage :=
  let k := s.core p
  { sregs := k.sregs, vregs := k.vregs, vpoison := s.word (R.VEC_POISON p),
    accs := k.cubes.map (fun e => (e.1, e.2.acc)),
    accStat := (upto 16).map (fun c => (c, s.word (R.CUBE_ACC_STATUS p c))),
    accPoison := s.accPoisons p, pc := s.word (R.SEQ_PC p),
    handler := s.word (R.SEQ_HANDLER p), hret := s.word (R.SEQ_HRET p) }

/-- The 82 KiB of a save image: vector registers, accumulators, and 2 KiB of scalar and sequencer state (R54). The poison bits of the vector
registers are the states of the tiles they lie in (R123). DESIGN CHOICE: the order inside the image is the model's (log entry 29). -/
def SaveImage.bytes (m : SaveImage) : List Byte :=
  (upto 64).flatMap (fun n => natLe (SMap.lookD m.vregs n 0).toNat 1024) ++
  (upto 16).flatMap (fun c => natLe (SMap.lookD m.accs c 0).toNat 1024) ++
  (upto 32).flatMap (fun r => natLe (SMap.lookD m.sregs r 0).toNat 8) ++
  natLe m.pc.toNat 8 ++ natLe m.handler.toNat 8 ++ natLe m.hret.toNat 8 ++
  (upto 16).flatMap (fun c => natLe (SMap.lookD m.accStat c 0).toNat 8) ++ natLe m.accPoison.toNat 8 ++ List.replicate 1632 0

/-- Read a save image back. -/
def imageFrom (d : List Byte) : SaveImage :=
  let w := fun (o : Nat) => BitVec.ofNat 64 (leAt d (0x14000 + o) 8)
  { vregs := (upto 64).foldl (fun m n => SMap.putD m n (BitVec.ofNat 8192 (leAt d (1024 * n) 1024)) 0) []
    accs := (upto 16).foldl (fun m c => SMap.putD m c (BitVec.ofNat 8192 (leAt d (0x10000 + 1024 * c) 1024)) 0) []
    sregs := (upto 32).foldl (fun m r => SMap.putD m r (w (8 * r)) 0) []
    pc := w 256, handler := w 264, hret := w 272
    accStat := (upto 16).foldl (fun m c => SMap.putD m c (w (280 + 8 * c)) 0) []
    accPoison := BitVec.ofNat 16 (leAt d (0x14000 + 408) 2) }

/-- Put an image into the registers, the vector registers and the accumulators of core `p`. -/
def State.putImage (s : State) (p : Nat) (m : SaveImage) : State :=
  let s := s.setCore p { s.core p with sregs := m.sregs, vregs := m.vregs }
  let s := s.setWord (R.VEC_POISON p) m.vpoison
  let s := (upto 16).foldl (fun s c =>
    let s := s.setCube p c { (s.core p).cube c with acc := SMap.lookD m.accs c 0 }
    let s := s.setWord (R.CUBE_ACC_STATUS p c) (SMap.lookD m.accStat c 0)
    s.wr (R.CUBE_STATUS p c) F.CUBE_STATUS.ACC_POISON (if m.accPoison.getLsbD c then 1 else 0)) s
  ((s.setWord (R.SEQ_PC p) m.pc).setWord (R.SEQ_HANDLER p) m.handler).setWord (R.SEQ_HRET p) m.hret

/-! ### The jig bench -/

/-- Core-local addresses of the bench's save area and workspace, and the bytes of each (R328). The save area's contents fill 132 KiB. -/
def benchSave : Nat := 0x1800000
def benchSaved : Nat := 0x21000
def benchWork : Nat := 0x1828000
def benchRoom : Nat := 0x58000

/-- Tile `j` of the save area (R328): a save image, the stationary blocks of both slots of each cube, their B scales with the poison bits of
the vector registers and of the slots, their A scales. DESIGN CHOICE: the order is the model's (log entry 94). -/
def benchTile (m : SaveImage) (k : Core) (j : Nat) : List Byte :=
  if j < 41 then slice m.bytes (2048 * j) 2048
  else if j < 57 then
    let x := k.cube (j - 41)
    natLe x.block0.toNat 1024 ++ natLe x.block1.toNat 1024
  else if j = 57 then
    (upto 16).flatMap (fun c => natLe (k.cube c).bsc0.toNat 32 ++ natLe (k.cube c).bsc1.toNat 32) ++ natLe m.vpoison.toNat 8 ++
      (upto 16).flatMap (fun c => natLe (k.cube c).mark0.toNat 1 ++ natLe (k.cube c).mark1.toNat 1) ++ List.replicate 984 0
  else [2 * (j - 58), 2 * (j - 58) + 1].flatMap (fun c => natLe (k.cube c).asc0.toNat 512 ++ natLe (k.cube c).asc1.toNat 512)

/-- Put the bytes of the save area back into core `p` (Table 105 step 6). -/
def State.unbench (s : State) (p : Nat) (d : List Byte) : State :=
  let s := s.putImage p { imageFrom d with vpoison := BitVec.ofNat 64 (leAt d 0x1CC00 8) }
  (upto 16).foldl (fun s c => s.setCube p c { (s.core p).cube c with
    block0 := BitVec.ofNat 8192 (leAt d (0x14800 + 2048 * c) 1024), block1 := BitVec.ofNat 8192 (leAt d (0x14C00 + 2048 * c) 1024)
    bsc0 := BitVec.ofNat 256 (leAt d (0x1C800 + 64 * c) 32), bsc1 := BitVec.ofNat 256 (leAt d (0x1C820 + 64 * c) 32)
    asc0 := BitVec.ofNat 4096 (leAt d (0x1D000 + 1024 * c) 512), asc1 := BitVec.ofNat 4096 (leAt d (0x1D200 + 1024 * c) 512)
    mark0 := BitVec.ofNat 3 (leAt d (0x1CC08 + 2 * c) 1), mark1 := BitVec.ofNat 3 (leAt d (0x1CC09 + 2 * c) 1) }) s

/-- The registers of core `p` that show what its engines have done and that a jig leaves alone (R333): SEQ_PERF, SEQ_FAULT_PC, CUBE_STATUS,
CUBE_PERF, CUBE_FEED_PERF, CUBE_ACCSTAT, VEC_STATUS, VEC_PERF and SCA_QSTAT. -/
def jigShadow (p a : Nat) : Bool :=
  a == R.SEQ_PERF p || a == R.SEQ_FAULT_PC p || a == R.CUBE_FEED_PERF p || a == R.CUBE_ACCSTAT p || a == R.VEC_STATUS p ||
  a == R.VEC_PERF p || a == R.SCA_QSTAT p 0 || a == R.SCA_QSTAT p 1 ||
  (decide (R.CUBE_STATUS p 0 ≤ a) && decide (a < R.CUBE_FEED_PERF p))

/-- A word of CUBE_STATUS as a jig leaves it: the power state of the cube goes on, everything else is as it was. -/
def keepRamp (now old : Word) : Word := (now &&& 0xFF00007F) ||| (old &&& ~~~0xFF00007F)

/-- The registers of a jig's shadow hold again what they held before the run (R333). -/
def State.unshadow (s : State) (p : Nat) (r : JigRun) : State :=
  let old := s
  let s := (r.words.filter (fun e => jigShadow p e.1)).foldl (fun s e => s.setWord e.1 e.2) (s.resetSlots (jigShadow p))
  let s := (upto 16).foldl (fun s c =>
    let a := R.CUBE_STATUS p c
    let s := s.setWord a (keepRamp (old.word a) (s.word a))
    s.setCube p c { (s.core p).cube c with lastFmt := r.fmts.getD c none }) s
  s.wr (R.CORE_STATUS p) F.CORE_STATUS.UNINIT_READS r.uninit

end Sys2Proof.Machine
end

