-- ==== Sys2Proof/Machine/Dump.lean ====
section
/-!
DEFINITION. Unit identifiers (R345), the BAR0 windows of units (R405, R406), and what a cairn takes of a unit (R362, R363, R365).
-/
namespace Sys2Proof.Machine

/-- Unit identifiers (Table 113). -/
def unitOf (kind index : Nat) : Nat := kind * 0x1000 + index
def uCore (p : Nat) : Nat := unitOf 1 p
def uCube (p c : Nat) : Nat := unitOf 2 (p * 16 + c)
def uVec (p : Nat) : Nat := unitOf 3 p
def uDma (p e : Nat) : Nat := unitOf 4 (p * 4 + e)
def uSplice (d : Nat) : Nat := unitOf 5 d
def uPlinth (i : Nat) : Nat := unitOf 6 i
def uChannel (i c : Nat) : Nat := unitOf 7 (i * 32 + c)

/-- The physical core a unit identifier lies on, for KIND 1 to 4. -/
def coreOfUnit (u : Nat) : Option Nat :=
  let k := bits u 12 4
  let i := bits u 0 12
  if k = 1 then some i else if k = 2 then some (i / 16) else if k = 3 then some i else if k = 4 then some (i / 4) else none

/-! ### Windows -/

/-- The per-core window of a physical core. -/
def coreWindow (p : Nat) : Nat := 0x04800000 + p * 0x10000

/-- The physical core whose window an offset lies in. -/
def coreOfOff (off : Nat) : Option Nat :=
  if 0x04800000 ≤ off ∧ off < 0x04E80000 then some ((off - 0x04800000) / 0x10000) else none

/-- The unit whose registers lie at an offset, as a cairn names it. -/
def unitOfOff (off : Nat) : Nat :=
  match coreOfOff off with
  | some p =>
    let o := off % 0x10000
    if 0x600 ≤ o ∧ o < 0x700 then uDma p ((o - 0x600) / 0x40)
    else if (0x1100 ≤ o ∧ o < 0x1300) ∨ (0x1500 ≤ o ∧ o < 0x1600) then uCube p (o % 0x100 / 0x10)
    else if 0x2000 ≤ o ∧ o < 0x2C00 then uVec p
    else uCore p
  | none =>
    if 0x08000000 ≤ off ∧ off < 0x08800000 then uPlinth ((off - 0x08000000) / 0x100000)
    else if 0x09000000 ≤ off ∧ off < 0x09200000 then
      let w := (off - 0x09000000) / 0x10000
      if w < 24 then unitOf 8 w else unitOf 9 (w - 24)
    else if 0x0A000000 ≤ off ∧ off < 0x0A200000 then uSplice ((off - 0x0A000000) / 0x100000)
    else if 0x01000000 ≤ off ∧ off < 0x02000000 then unitOf 0xD ((off - 0x01000000) / 0x800000)
    else 0

/-- The window of a unit: its first offset and its bytes; none for a unit with no window of its own. -/
def unitWindow (u : Nat) : Option (Nat × Nat) :=
  let k := bits u 12 4
  let i := bits u 0 12
  match coreOfUnit u with
  | some p => some (coreWindow p, 0x10000)
  | none =>
    if k = 5 then some (0x0A000000 + i * 0x100000, 0x100000)
    else if k = 6 then some (0x08000000 + i * 0x100000, 0x100000)
    else if k = 8 then some (0x09000000 + i * 0x10000, 0x10000)
    else if k = 9 then some (0x09180000 + i * 0x10000, 0x10000)
    else if k = 0xD ∧ i < 2 then some (0x01000000 + i * 0x800000, 0x800000)
    else none

/-- The slots that the image of a unit holds, in ascending order; the image of a core in a cairn that has no entries for the units in it
holds its whole window. DESIGN CHOICE: the manual lays no image out; it is the unit's registers, 8 bytes each (log entry 32). -/
def unitSlots (whole : Bool) (u : Nat) : List Nat :=
  match unitWindow u with
  | none => []
  | some (a, n) => ((upto (n / 8)).map (fun i => a + 8 * i)).filter (fun x => (regRow x).isSome && (whole || unitOfOff x == u))

/-- The slots whose contents a directory entry's image holds: those read before the first read that failed (R362); none of a unit that is
absent or was not reached. -/
def entrySlots (whole : Bool) (e : BitVec 16 × BitVec 8 × BitVec 32) : List Nat :=
  let l := unitSlots whole e.1.toNat
  if e.2.1 = 0 then l else if e.2.1 = 1 then l.filter (fun a => decide (a < e.2.2.toNat)) else []

/-- Whether a cairn's entry for a core stands for every unit in it: in a cairn of a partition or the chip (log entry 32). -/
def Cairn.whole (c : Cairn) : Bool := decide (3 ≤ c.level)

/-- The directory of a cairn and the end of its unit images, which begin at 0xC000 (Table 119). -/
def Cairn.directory (c : Cairn) : List Byte × Nat :=
  c.units.foldl (fun (x : List Byte × Nat) e =>
    let n := 8 * (entrySlots c.whole e).length
    (x.1 ++ natLe e.1.toNat 2 ++ natLe e.2.1.toNat 1 ++ natLe 0 1 ++ natLe x.2 4 ++ natLe n 4 ++ natLe e.2.2.toNat 4, x.2 + n)) ([], 0xC000)

/-- The unit images of a cairn. -/
def State.cairnImages (s : State) (c : Cairn) : List Byte :=
  c.units.flatMap (fun e => (entrySlots c.whole e).flatMap (fun a => natLe (s.word a).toNat 8))

/-! ### Progress of units -/

/-- A unit makes progress, or begins to hold work (R350). -/
def State.stamp (s : State) (u : Nat) : State := { s with prog := SMap.put s.prog u s.time }

/-- Whether a unit has made no progress for `ms` milliseconds. -/
def State.stale (s : State) (u ms : Nat) : Bool := decide (ms * 100000 ≤ (s.time - SMap.lookD s.prog u 0).toNat)

/-- The number under which the progress of a group of a context is noted. -/
def uGroup (c g : Nat) : Nat := 0x100000 + c * 256 + g

/-! ### Scratchpad dump -/

/-- State code of a tile (R195). -/
def tileCode : TState → Nat
  | .unwritten => 0
  | .sealed => 1
  | .poison => 2

/-- One byte of the CORE sideband space: seals from 0, states from 0x10000 (Table 142). -/
def sideByte (t : Tiled) (o : Nat) : Byte :=
  if o < 0xC400 then BitVec.ofNat 8 ((SMap.lookD t.tiles (o / 4) {}).sl.toNat / 256 ^ (o % 4))
  else if o < 0x10000 then 0
  else BitVec.ofNat 8 ((upto 4).foldl (fun m j => m + tileCode (SMap.lookD t.tiles (4 * (o - 0x10000) + j) {}).st * 4 ^ j) 0)

/-- Bytes of a scratchpad dump: 24 MiB, then the sideband as its read-back space lays it out (R363, log entry 32). -/
def dumpBytes : Nat := 0x1800000 + 0x10C40

/-- A core's scratchpad dump, from address `a` on. -/
def Core.spdDump (k : Core) (a : Nat) : Memory :=
  ((k.spd.bytes.filter (fun c => decide (c.1 < 0x1800000))).map (fun c => (a + c.1, c.2))) ++
    (natsFrom 0 0x10C40).filterMap (fun o =>
      let b := sideByte k.spd o
      if b = 0 then none else some (a + 0x1800000 + o, b))

end Sys2Proof.Machine
end

