-- ==== Sys2Proof/Machine/Errors.lean ====
section
/-!
DEFINITION. Units and partitions (Table 17, Table 113), error records and logs (R343 to R349), escalation (R360), events
(R316), health counts and core fencing (R324 to R341), and the shared operation by which a context error is taken (R320,
R352, R353).
-/
namespace Sys2Proof.Machine

/-- Record classes (Table 111). -/
def clsCtxError : Nat := 0x01
def clsResidue : Nat := 0x02
def clsStorage : Nat := 0x03
def clsHbmSeal : Nat := 0x04
def clsHbmUe : Nat := 0x05
def clsRepairExhausted : Nat := 0x06
def clsEngineHang : Nat := 0x07
def clsDrainTimeout : Nat := 0x08
def clsPlinthHang : Nat := 0x09
def clsNocTimeout : Nat := 0x0A
def clsBridgeFail : Nat := 0x0B
def clsResetOverrun : Nat := 0x0C
def clsThermalStop : Nat := 0x0D
def clsFwRestart : Nat := 0x0E
def clsHostReset : Nat := 0x0F

/-- Context-error causes (Table 112). -/
def cSpdBounds : Nat := 0x0201
def cBelayOverflow : Nat := 0x0202
def cBelayTimeout : Nat := 0x0203
def cFetchBounds : Nat := 0x0204
def cMisaligned : Nat := 0x0205
def cIllegalInsn : Nat := 0x0206
def cScaleMissUnhandled : Nat := 0x0207
def cHandlerState : Nat := 0x0208
def cScaleSlotBounds : Nat := 0x0209
def cScaNotOwner : Nat := 0x020A
def cScaSlotConfig : Nat := 0x020B
def cXlateFault : Nat := 0x020C
def cRemoteError : Nat := 0x020D
def cSplArg : Nat := 0x020E
def cSplFailed : Nat := 0x020F
def cPoisonConsumed : Nat := 0x0210
def cUnitFenced : Nat := 0x0211
def cEngineReset : Nat := 0x0212
def cPartitionReset : Nat := 0x0213
def cHostRequest : Nat := 0x0214

/-- Core states (CORE_STATUS.STATE). -/
def csGated : Nat := 0
def csWaking : Nat := 1
def csIdle : Nat := 2
def csRunning : Nat := 3
def csWaitIdle : Nat := 4
def csFencing : Nat := 5
def csFenced : Nat := 6

/-- Whether the core clock of core `p`'s die runs (Table 127). -/
def State.clocked (s : State) (p : Nat) : Bool := s.flag (R.DIE_STATUS (p / 52)) F.DIE_STATUS.CORE_PLL_LOCK

/-- The state of physical core `p`. -/
def State.coreState (s : State) (p : Nat) : Nat := s.rd (R.CORE_STATUS p) F.CORE_STATUS.STATE

/-- Put physical core `p` into a state. -/
def State.setCoreState (s : State) (p v : Nat) : State := s.wr (R.CORE_STATUS p) F.CORE_STATUS.STATE v

/-- The context a slot of a core holds, if any. -/
def State.resident (s : State) (p i : Nat) : Option Nat :=
  if i = 0 then
    if s.flag (R.CORE_STATUS p) F.CORE_STATUS.RES0_VALID then some (s.rd (R.CORE_STATUS p) F.CORE_STATUS.RES0_CTX) else none
  else
    if s.flag (R.CORE_STATUS p) F.CORE_STATUS.RES1_VALID then some (s.rd (R.CORE_STATUS p) F.CORE_STATUS.RES1_CTX) else none

/-- The slot that runs. -/
def State.activeSlot (s : State) (p : Nat) : Nat := s.rd (R.CORE_STATUS p) F.CORE_STATUS.ACTIVE_SLOT

/-- The slot of core `p` that holds context `c`; a jig's pattern runs in a slot of its own, number 2. -/
def State.slotOf (s : State) (p c : Nat) : Option Nat :=
  if c = jigCtx then (if s.jigging p then some 2 else none)
  else if s.resident p 0 = some c then some 0 else if s.resident p 1 = some c then some 1 else none

/-- The slot of the program that core `p` runs. -/
def State.runSlotOf (s : State) (p : Nat) : Nat := if s.jigging p then 2 else s.activeSlot p

/-- The contexts resident on core `p`. -/
def State.residents (s : State) (p : Nat) : List Nat := (s.resident p 0).toList ++ (s.resident p 1).toList

/-- A slot's state beyond the registers. -/
def Core.slot (k : Core) (i : Nat) : Slot := if i = 0 then k.slot0 else k.slot1

/-- Replace a slot's state. -/
def Core.setSlot (k : Core) (i : Nat) (x : Slot) : Core := if i = 0 then { k with slot0 := x } else { k with slot1 := x }

/-- Partition mode in force: 1, 2 or 4. -/
def State.mode (s : State) : Nat := s.rd R.CHIP_PART F.CHIP_PART.MODE

/-- Whether the package is a TX-F936 (two partitions at most, 40 cores to a die). -/
def State.isF936 (s : State) : Bool := s.fuses.part == 0x0936

/-- Logical cores numbered on each die (R30). -/
def State.perDie (s : State) : Nat := if s.isF936 then 40 else 48

/-- The partition of a logical core (Table 17). -/
def State.partOfLogical (s : State) (n : Nat) : Nat :=
  if s.mode = 1 then 0 else if s.mode = 2 then n / s.perDie else n / 24

/-- The partition of a plinth site (Table 17). -/
def State.partOfSite (s : State) (i : Nat) : Nat := i * s.mode / 8

/-- The partition of a rope port (Table 17). -/
def State.partOfRope (s : State) (i : Nat) : Nat := i * s.mode / 24

/-- The partition of a ridge port (Table 17). -/
def State.partOfRidge (s : State) (i : Nat) : Nat := i * s.mode / 8

/-- The partition of a port window, rope ports 0 to 23 and ridge ports 24 to 31 (R238). -/
def State.partOfPort (s : State) (w : Nat) : Nat := if w < 24 then s.partOfRope w else s.partOfRidge (w - 24)

/-- The logical number that physical core `p` serves, if any. -/
def State.logicalOf (s : State) (p : Nat) : Option Nat := (s.logical.find? (fun e => e.2.val == p)).map Prod.fst

/-- The physical core that serves logical number `n`, if any. -/
def State.physOf (s : State) (n : Nat) : Option CoreId := SMap.look s.logical n

/-- Whether physical core `p` is on the fence list. -/
def State.isFenced (s : State) (p : Nat) : Bool :=
  s.rd (R.JIG_FENCED (p / 64)) F.JIG_FENCED.MASK >>> (p % 64) % 2 == 1

/-- The partition Table 17 gives a unit, none for a shared unit and for a core that serves no logical number or is fenced (R346). -/
def State.partOfUnit (s : State) (u : Nat) : Option Nat :=
  let k := bits u 12 4
  let i := bits u 0 12
  match coreOfUnit u with
  | some p => if s.isFenced p then none else (s.logicalOf p).map s.partOfLogical
  | none =>
    if k = 5 then (if s.mode = 4 then none else some (i * s.mode / 2))
    else if k = 6 then some (s.partOfSite i)
    else if k = 7 then some (s.partOfSite (i / 32))
    else if k = 8 then some (s.partOfRope i)
    else if k = 9 then some (s.partOfRidge i)
    else none

/-- The log of a record about a unit (R346): the chip log for severities CHIP and POWER. -/
def State.logOf (s : State) (u sev : Nat) : Nat :=
  if 4 ≤ sev then 20 else match s.partOfUnit u with
  | some q => 16 + q
  | none => 20

/-- The entry that is ACTIVE, if any. -/
def ErrLog.active (l : ErrLog) : Option (Nat × ErrRec) := l.entries.find? (fun e => e.2.st == .active)

/-- The lowest free place of a log. -/
def ErrLog.freePlace (l : ErrLog) : Nat := ((upto 64).find? (fun i => (SMap.look l.entries i).isNone)).getD 63

/-- Whether entry `a` is a better eviction victim than `b` (R348): less severe; then DONE or COVERED before QUEUED; then older. -/
def betterVictim (a b : ErrRec) (next : BitVec 32) : Bool :=
  let qa := if a.st == .queued then 1 else 0
  let qb := if b.st == .queued then 1 else 0
  let age := fun (r : ErrRec) => (next - r.seq).toNat
  if a.sev ≠ b.sev then a.sev < b.sev else if qa ≠ qb then decide (qa < qb) else decide (age b < age a)

/-- The eviction victim of a full log. -/
def ErrLog.victim (l : ErrLog) : Option (Nat × ErrRec) :=
  (l.entries.filter (fun e => e.2.st != .active)).foldl
    (fun best e => match best with
      | none => some e
      | some b => if betterVictim e.2 b.2 l.next then some e else some b) none

/-- Make room in a full log (R348): the log, and whether the new record of severity `sev` may enter. -/
def ErrLog.makeRoom (l : ErrLog) (sev : BitVec 8) : ErrLog × Bool :=
  if l.entries.length < 64 then (l, true) else
  match l.victim with
  | none => (l, false)
  | some (i, v) =>
    let l := { l with overflows := min (l.overflows + 1) 0xFFFF }
    if sev < v.sev then ({ l with lost := l.lost || decide (2 ≤ sev) }, false)
    else ({ l with entries := SMap.del l.entries i, lost := l.lost || (v.st == .queued && decide (2 ≤ v.sev)) }, true)

/-- Highest severity level of the resets in progress. -/
def State.topLevel (s : State) : Nat := s.recov.runs.foldl (fun m r => max m r.level) 0

/-- Whether a record of severity CONTEXT or above waits in some log. -/
def State.anyQueued (s : State) : Bool :=
  s.logs.any (fun kl => kl.2.entries.any (fun e => e.2.st == .queued && decide (1 ≤ e.2.sev)))

/-- The log holding the ACTIVE record of the highest severity, 0 if none does. -/
def State.activeLog (s : State) : Nat :=
  (s.logs.foldl (fun (b : Nat × Nat) kl => match kl.2.active with
    | none => b
    | some (_, r) => if b.2 < r.sev.toNat then (kl.1, r.sev.toNat) else b) (0, 0)).1

/-- Show the escalation state (Table 118): FAULT once FAULT_N is asserted, else the highest level in progress, RUN once no
reset is in progress and no record is queued. -/
def State.showEsc (s : State) : State :=
  let st := if s.pins.fault then 5 else if 0 < s.topLevel then s.topLevel
    else if s.anyQueued then s.rd R.ERR_ESC F.ERR_ESC.STATE else 0
  (s.wr R.ERR_ESC F.ERR_ESC.STATE st).wr R.ERR_ESC F.ERR_ESC.ACTIVE_LOG s.activeLog

/-- The 32 bytes of a record (Table 109). -/
def ErrRec.bytes (r : ErrRec) : List Byte :=
  let st := (match r.st with | .queued => 0 | .active => 1 | .done => 2 | .covered => 3)
    + (if r.preempted then 4 else 0) + (if r.escalated then 8 else 0)
  natLe r.ts.toNat 8 ++ natLe r.cls.toNat 1 ++ natLe r.sev.toNat 1 ++ natLe r.cause.toNat 2 ++ natLe r.ctx.toNat 1 ++
  natLe st 1 ++ natLe r.unit.toNat 2 ++ natLe r.addr.toNat 8 ++ natLe r.detail.toNat 4 ++ natLe r.seq.toNat 4

/-- Sub-units of a core: the core, its cubes, its vector engine and its DMA engines. -/
def coreUnits (p : Nat) : List Nat :=
  [uCore p] ++ (upto 16).map (uCube p) ++ [uVec p] ++ (upto 4).map (uDma p)

/-- A cairn summary: the first 4 KiB of a slot (Table 119). -/
def State.cairnHead (s : State) (c : Cairn) : List Byte :=
  let head := natLe 0x4E524143 4 ++ natLe 1 2 ++ natLe c.level 1 ++ natLe c.flags.toNat 1 ++ natLe c.seq.toNat 4 ++
    natLe c.units.length 2 ++ natLe c.target.toNat 2 ++ natLe c.tsStart.toNat 8 ++ natLe c.tsEnd.toNat 8 ++ c.trigger.bytes ++
    natLe (s.word (R.CHIP_IDENT 0)).toNat 8 ++ natLe (s.word (R.CHIP_IDENT 0 + 8)).toNat 8 ++
    natLe (s.rd R.JNR_CHIP F.JNR_CHIP.INDEX) 4 ++ natLe c.used 4 ++ List.replicate 168 0
  slice (head ++ c.directory.1) 0 4096

/-- Write a cairn's summary to the next entry of CRN_AON (R365), and count the cairn. -/
def State.keepSummary (s : State) (c : Cairn) : State :=
  let b := s.cairnHead c
  let r := R.CRN_AON (s.recov.ring % 4)
  let s := (upto 512).foldl (fun s i => s.setWord (r + 8 * i) (BitVec.ofNat 64 (leAt b (8 * i) 8))) s
  let s := s.wr R.CRN_STATUS F.CRN_STATUS.LAST_SEQ c.seq.toNat
  { s with recov := { s.recov with ring := s.recov.ring + 1 } }

/-- Assert FAULT_N with a cause (R361): the first cause stands. A cairn summary of level POWER is written first; its trigger is the
chip log's ACTIVE record, and its one entry the chip, of which no image is taken (log entry 32). -/
def State.assertFault (s : State) (cause : Nat) : State :=
  if s.pins.fault then s else
  let c : Cairn := {
    slot := 0, level := 5, flags := 0, seq := BitVec.ofNat 32 (s.rd R.CRN_STATUS F.CRN_STATUS.LAST_SEQ + 1), target := 0,
    tsStart := s.time, tsEnd := s.time, trigger := ((s.log 20).active.map Prod.snd).getD {}, units := [(0, 3, 0)] }
  let s := s.keepSummary c
  let s := { s with pins := { s.pins with fault := true } }
  (s.wr R.ERR_ESC F.ERR_ESC.FAULT_CAUSE cause).showEsc.emit .ibi

/-- The reset level a severity asks for; a record of severity POWER asks for none but FAULT_N. -/
def levelTarget (s : State) (r : ErrRec) : Nat :=
  if r.sev = 1 then r.ctx.toNat
  else if r.sev = 2 then (match coreOfUnit r.unit.toNat with
    | some p => uCore p
    | none => r.unit.toNat)
  else if r.sev = 3 then (s.partOfUnit r.unit.toNat).getD (bits r.unit.toNat 0 12)
  else 0

/-- Whether a reset's domain contains another's (R358): context within engine, engine within partition, all within chip. -/
def State.contains (s : State) (hi lo : ResetRun) : Bool :=
  if hi.level ≤ lo.level then false
  else if hi.level = 4 then true
  else if hi.level = 3 then
    if lo.level = 1 then (s.ctx lo.target).part.val == hi.target else s.partOfUnit lo.target == some hi.target
  else match coreOfUnit hi.target with
    | some p => (s.ctx lo.target).cores.any (fun k => k.phys.val == p)
    | none => (s.ctx lo.target).groups.any (fun g => uSplice g.2.die.val == hi.target)

/-- Mark the ACTIVE record of a log pre-empted and queued (R347). -/
def State.preempt (s : State) (d : Nat) : State :=
  let l := s.log d
  match l.active with
  | none => s
  | some (i, r) => s.setLog d { l with entries := SMap.put l.entries i { r with st := .queued, preempted := true } }

/-! ### DMA engines -/

/-- Cells of a slot. -/
def State.cellCount (s : State) (p i : Nat) : Nat := if i = 2 then 0 else s.rd (R.BLY_ALLOC p i) F.BLY_ALLOC.COUNT

/-- Physical cell of a slot's cell. -/
def State.cellAt (s : State) (p i cell : Nat) : Nat := s.rd (R.BLY_ALLOC p i) F.BLY_ALLOC.BASE + cell

/-- Value of a slot's cell. -/
def State.cellValue (s : State) (p i cell : Nat) : Word := s.word (R.BLY_CELL p (s.cellAt p i cell))

/-- A DMA engine of a core. -/
def State.dmaEng (s : State) (p e : Nat) : DmaEng := SMap.lookD (s.core p).dma e {}

/-- Replace a DMA engine. -/
def State.setDma (s : State) (p e : Nat) (x : DmaEng) : State :=
  s.setCore p { s.core p with dma := SMap.putD (s.core p).dma e x {} }

/-- Change the descriptor in progress of a DMA engine. -/
def State.onDma (s : State) (p e : Nat) (f : DmaActive → DmaActive) : State :=
  match (s.dmaEng p e).active with
  | none => s
  | some (a, c) => s.setDma p e { s.dmaEng p e with active := some (f a, c) }

/-- Note an error status: the first one met stands (R424). -/
def State.dmaError (s : State) (p e status : Nat) : State :=
  s.onDma p e (fun a => if a.status = 0 then { a with status := status } else a)

/-- The wait of a queued descriptor. -/
def dmaWaitOf (o : DmaOp) : Option (Nat × Word) :=
  match o with
  | .copy _ _ _ _ _ w _ _ => w
  | .shape _ _ _ => none

/-- Whether a descriptor's start wait is met (R45). -/
def State.dmaReady (s : State) (p c : Nat) (o : DmaOp) : Bool :=
  match dmaWaitOf o with
  | none => true
  | some (cell, target) => match s.slotOf p c with
    | none => false
    | some i => decide (target.toNat ≤ (s.cellValue p i cell).toNat)

/-- A descriptor reaches the head of its engine's queue: its start wait is timed from now with the timeout in force (R47). -/
def State.dmaHead (s : State) (p e : Nat) : State :=
  let t := s.rd (R.BLY_TIMEOUT p) F.BLY_TIMEOUT.TICKS
  (s.setDma p e { s.dmaEng p e with since := s.time, limit := BitVec.ofNat 64 (if t = 0 then 0x1DCD6500 else t) }).stamp (uDma p e)

/-- Show an engine's queue and state in DMA_STATUS. -/
def State.showDma (s : State) (p e : Nat) : State :=
  let g := s.dmaEng p e
  let st := match g.active with
    | some (_, c) => if (s.ctx c.val).fenced then 3 else 1
    | none => match g.queue with
      | [] => 0
      | (o, c) :: _ => if s.dmaReady p c.val o then 0 else 2
  (s.wr (R.DMA_STATUS p e) F.DMA_STATUS.QUEUED g.queue.length).wr (R.DMA_STATUS p e) F.DMA_STATUS.STATE st

/-- A fenced context's DMA descriptor in progress (Table 115): it issues nothing any more, what it has issued goes on, and its status is
FENCED unless it met an error before (R424). -/
def DmaActive.halt (a : DmaActive) : DmaActive :=
  { a with
    status := if a.status = 0 then 5 else a.status
    todo := a.todo.filter (fun t => match t with | .piece _ => false | .store .. => true) }

/-- What a core loses when a context is fenced (Table 115): queued work and undelivered telemetry. The DMA descriptor in progress stops
issuing; posted stores drain. -/
def Core.dropWork (k : Core) (c : Owner) : Core :=
  { k with
    cubeQ := k.cubeQ.filter (fun e => e.2 != c)
    upds := k.upds.filter (fun e => e.2 != c)
    dma := k.dma.map (fun e => (e.1, { e.2 with
      queue := e.2.queue.filter (fun q => q.2 != c)
      active := e.2.active.map (fun a => if a.2 = c then (a.1.halt, a.2) else a) }))
    tel := k.tel.filter (fun t => t.ctx != c) }

/-- The instructions run ahead and not yet reached by the program: those from the program counter on, that one left out while it is
stalled itself. -/
def State.aheadLeft (s : State) (p : Nat) : List Word :=
  let pc := s.word (R.SEQ_PC p)
  let k := s.core p
  match k.ahead with
  | none => []
  | some w =>
    if w.base = some pc then w.path
    else (w.path.dropWhile (fun a => a != pc)).drop (if k.load.isSome || k.wait.isSome then 1 else 0)

/-- Discard every shadow register and run-ahead buffer entry, and count the instructions discarded (R36). -/
def State.squash (s : State) (p : Nat) : State :=
  match (s.core p).window with
  | none => s
  | some _ =>
    (s.setCore p { s.core p with ahead := none }).count (R.SEQ_PERF p) F.SEQ_PERF.SQUASHED_INSNS (s.aheadLeft p).length

/-- What a core loses when the context it runs is fenced: fetch stops, run-ahead is squashed, the wait is removed (R36, R51).
A yield in progress stays one (R321). -/
def Core.stopFetch (k : Core) : Core := { k with ahead := none, wait := none, load := none }

/-- The slots of core `p`'s window of domain engine. -/
def inCoreWindow (p a : Nat) : Bool :=
  decide (0x04800000 + p * 0x10000 ≤ a) && decide (a < 0x04810000 + p * 0x10000) && a != R.CORE_PHYS p

/-- Power core `p` down (R57): scratchpad, sideband and registers other than CORE_PHYS lose their contents. The patterns it has still to
pass are the base-camp core's to know (R338). -/
def State.loseCore (s : State) (p : Nat) : State :=
  (s.resetSlots (inCoreWindow p)).setCore p { unfenceLeft := (s.core p).unfenceLeft }

/-- Core `p` has no contexts left to remove: it ends GATED, or FENCED if it was fenced (R59, Table 108 step 4). -/
def State.gateCore (s : State) (p : Nat) : State :=
  let st := if s.isFenced p then csFenced else csGated
  (s.loseCore p).setCoreState p st

/-- Cores of a die that are awake (DIE_STATUS.AWAKE). -/
def State.showAwake (s : State) (d : Nat) : State :=
  s.wr (R.DIE_STATUS d) F.DIE_STATUS.AWAKE
    ((natsFrom (52 * d) 52).filter (fun p => s.coreState p != csGated && s.coreState p != csFenced)).length

/-- The cores of a die that wake: those that serve a logical number in its order, then the others (R58). -/
def State.wakeOrder (s : State) (d : Nat) : List Nat :=
  (((upto 96).filterMap (fun n => (SMap.look s.logical n).map Fin.val)) ++
    (natsFrom (52 * d) 52).filter (fun p => (s.logicalOf p).isNone)).filter (fun p => p / 52 == d && s.coreState p == csWaking)

/-- The clamp admits the wakes of a die, at most eight at a time; an admitted wake stays so, and the others queue in logical-core order
(R58). -/
def State.admitWakes (s : State) (d : Nat) : State :=
  let old := s.clamp.waking.filter (fun p => p / 52 != d || s.coreState p == csWaking)
  let mine := old.filter (fun p => p / 52 == d)
  let more := ((s.wakeOrder d).filter (fun p => !mine.contains p)).take (8 - mine.length)
  { s with clamp := { s.clamp with waking := old ++ more } }

/-- What a jig's pattern has in progress on its core ends with it. -/
def Core.dropJig (k : Core) : Core :=
  let o : Owner := Fin.ofNat 17 jigCtx
  { k.dropWork o with
    jig := none
    load := none
    yielding := false
    posted := k.posted.filter (fun x => match x.tgt with | .spd a => decide (a < benchSave) | _ => true)
    dma := (k.dropWork o).dma.map (fun e => (e.1, { e.2 with active := e.2.active.filter (fun a => a.2 != o), jig := (1, 0, 0) })) }

/-- The jig run of core `p` is over: a core that was woken for it goes back to GATED; else the waiting context's state is restored
(Table 105 step 6, R333). -/
def State.leaveJig (s : State) (p : Nat) : State :=
  match (s.core p).jig with
  | none => s
  | some r =>
    let s := s.wr R.JIG_STATUS F.JIG_STATUS.STATE 0
    if r.gated then (((s.setCore p (s.core p).dropJig).gateCore p).showAwake (p / 52)).admitWakes (p / 52)
    else
      let d := Memory.read (s.core p).spd.bytes benchSave benchSaved
      ((s.setCore p (s.core p).dropJig).unbench p d).unshadow p r

/-- Count the jig run of core `p` as abandoned (R332, R342). A pattern of an UNFENCE package whose run is abandoned is run again (R331). -/
def State.abandonRun (s : State) (p : Nat) : State :=
  match (s.core p).jig with
  | none => s
  | some _ => (s.leaveJig p).wr (R.JIG_CORE_STATUS p) F.JIG_CORE_STATUS.LAST_RESULT 4

/-- Send RELEASE for the claim of one collective and take it off the engine's counts (R297). -/
def State.dropColl (s : State) (c g : Nat) (x : Group) (k : Coll) : State :=
  let own := BitVec.ofNat 17 (s.rd R.JNR_CHIP F.JNR_CHIP.INDEX)
  let m : SplCtl := {
    dst := own, src := own, key := BitVec.ofNat 16 (s.rd (R.JNR_CTX_ROUTE c) F.JNR_CTX_ROUTE.KEY), group := Fin.ofNat 256 g,
    seq := k.seq, chunk := 0, arg := 0, hasCarry := false }
  let claimed := if k.held then k.planes else k.granted
  let s := (onesOf claimed.toNat 24).foldl (fun s p => s.emit (.splCtl 6 (some p) none { m with arg := BitVec.ofNat 64 p })) s
  let r := R.SPL_STATUS x.die
  let s := s.wr r F.SPL_STATUS.ACTIVE (s.rd r F.SPL_STATUS.ACTIVE - 1)
  if k.held then s.wr r F.SPL_STATUS.CLAIMS_HELD (s.rd r F.SPL_STATUS.CLAIMS_HELD - 1) else s

/-- Destination writes of a collective that are not yet accepted. -/
def Coll.allWrites (k : Coll) : List SplWrite := k.recv.flatMap SplRecv.writes ++ k.writes

/-- Destination writes of a collective that are held for an urgent copy complete though the collective is abandoned (R379). -/
def State.keepHeld (s : State) (k : Coll) : State :=
  { s with biWait := s.biWait ++ k.allWrites.filterMap (fun w => w.held.map (fun a =>
      { lines := [], addr := a, data := w.data, poison := w.poison, whole := none, ack := none, held := true })) }

/-- Free the groups of a context (R297): queued instructions and collectives go, claims are released, SEQ is 0. -/
def State.freeGroups (s : State) (c : Nat) : State :=
  let x := s.ctx c
  let s := x.groups.foldl (fun s g =>
    let s := match g.2.cur with
      | none => s
      | some k => (s.keepHeld k).dropColl c g.1 g.2 k
    let r := R.SPL_STATUS g.2.die
    (s.wr r F.SPL_STATUS.GROUPS (s.rd r F.SPL_STATUS.GROUPS - 1)).setWord (R.SPL_GSTATE g.2.die c g.1) 0) s
  s.setCtx c { s.ctx c with
    groups := x.groups.map (fun g => (g.1, { g.2 with seq := 0, queue := [], cur := none, early := [] })) }

/-- Whether submission queue `q` is enabled and bound to context `c` (R302). -/
def State.boundTo (s : State) (q c : Nat) : Bool :=
  s.flag (R.CXL_Q_CFG q) F.CXL_Q_CFG.EN && s.rd (R.CXL_Q_CFG q) F.CXL_Q_CFG.CTX == c

/-- The queues of a fenced context show FENCED (R307). -/
def State.fenceQueues (s : State) (c : Nat) : State :=
  (upto 64).foldl (fun s q =>
    if s.boundTo q c && s.rd (R.CXL_Q_STATUS q) F.CXL_Q_STATUS.STATE == 1 then s.wr (R.CXL_Q_STATUS q) F.CXL_Q_STATUS.STATE 3
    else s) s

/-- The fence of a context stops its stream or restart pull and clears every PENDING bit (R379, R383). -/
def State.stopBiv (s : State) (c : Nat) : State :=
  let x := s.ctx c
  let s := s.setCtx c { x with biv := { x.biv with toSend := [], set := [], pend := [], trig := [], held := [], reserve := [], copies := [], final := false, pulled := 0, pulling := 0, ending := false } }
  let s := { s with biWait := s.biWait.filter (fun w => w.pull != some c) }
  let r := R.BIV_STATUS c
  if s.rd r F.BIV_STATUS.STATE = 0 then s
  else (((s.wr r F.BIV_STATUS.STATE 0).wr r F.BIV_STATUS.LAST_STATUS 2).wr r F.BIV_STATUS.PAGES_LEFT 0).wr r F.BIV_STATUS.HELD 0

/-- Drop the work that core `p` holds for a context: its DMA engines show what is left, and a descriptor that comes to the head of a queue
begins its start wait there (R47). -/
def State.dropOn (s : State) (p c : Nat) : State :=
  let old := s.core p
  let s := s.setCore p ((s.core p).dropWork (Fin.ofNat 17 c))
  (upto 4).foldl (fun s e =>
    let s := if (SMap.lookD old.dma e {}).queue.head? = (s.dmaEng p e).queue.head? then s else s.dmaHead p e
    s.showDma p e) s

/-- Reads that wait in a hold shelf. -/
def shelfReads (l : List Parked) : Nat := (l.filter (fun x => match x with | .read .. => true | .merge .. => false | .whole .. => false)).length

/-- Whether a reader that `p` selects waits at some plinth, or its data does. -/
def State.anyReader (s : State) (p : Reader → Bool) : Bool :=
  s.plinths.any (fun kp => kp.2.served.any (fun x => p x.who) ||
    kp.2.parked.any (fun x => match x with | .read w _ _ _ => p w | .merge .. => false | .whole .. => false))

/-- The readers that `gone` selects wait at no plinth any more. -/
def State.forgetReaders (s : State) (gone : Reader → Bool) : State :=
  if !s.anyReader gone then s else
  s.plinths.foldl (fun s kp =>
    let k := s.plinth kp.1
    let stays := fun (x : Parked) => match x with | .read w _ _ _ => !gone w | .merge .. => true | .whole .. => true
    let l := k.parked.filter stays
    (s.setPlinth kp.1 { k with parked := l, served := k.served.filter (fun x => !gone x.who) }).wr
      (R.PLN_STATUS kp.1) F.PLN_STATUS.READQ_FILL (min 512 (shelfReads l))) s

/-- Whether a reader acts for a context. -/
def Reader.actsFor (c : Nat) : Reader → Bool
  | .eng _ _ d => d == c
  | .fetch _ d => d == c
  | .walk d => d == c
  | .port => false
  | .host => false
  | .fab .. => false

/-- Fence a context on every unit of the chip (R352, R353). -/
def State.fenceCtx (s : State) (c : Nat) : State :=
  let x := s.ctx c
  if x.fenced then s else
  let s := ((s.freeGroups c).fenceQueues c).forgetReaders (Reader.actsFor c)
  let s := s.stopBiv c
  let s := s.setCtx c { s.ctx c with fenced := true }
  x.cores.foldl (fun s e =>
    let p := e.phys.val
    if s.activeSlot p = e.slot.val then
      let s := ((s.abandonRun p).squash p).dropOn p c
      s.setCore p (s.core p).stopFetch
    else s.dropOn p c) s

/-- Whether a level collects a cairn (R363). -/
def State.cairnEnabled (s : State) (level : Nat) : Bool :=
  if level = 2 then s.flag R.CRN_CTRL F.CRN_CTRL.EN_ENGINE
  else if level = 3 then s.flag R.CRN_CTRL F.CRN_CTRL.EN_PARTITION
  else if level = 4 ∨ level = 5 then s.flag R.CRN_CTRL F.CRN_CTRL.EN_CHIP else false

/-- MGT_CDC.MODE takes a value (R386): in RECOVERY the accesses that already wait are timed from now on; in RUN each keeps its timer. -/
def State.cdcMode (s : State) (m : Nat) : State :=
  if m = s.rd R.MGT_CDC F.MGT_CDC.MODE then s else
  let s := s.wr R.MGT_CDC F.MGT_CDC.MODE m
  if m = 0 then s else
  let wait := s.cdc.map (fun (x : CdcWait) => if x.timed then x else { x with since := s.time, timed := true })
  { s with cdc := wait }.wr R.MGT_CDC F.MGT_CDC.FAIL_ADDR 0

/-- Cairn slots in the ring: 12 on each present stack (R364). -/
def State.cairnSlots (s : State) : Nat := 12 * popCount s.fuses.stackMask.toNat 8

/-- The site of the stack that stores a cairn slot (R364). -/
def State.slotSite (s : State) (k : Nat) : Nat := (onesOf s.fuses.stackMask.toNat 8).getD (k / 12) 0

/-- The first slot of the ring from `k` on whose stack is not STOPPED and lies at a site that `ok` allows (R364). -/
def State.slotFrom (s : State) (k : Nat) (ok : Nat → Bool) : Option Nat :=
  let n := s.cairnSlots
  ((upto n).map (fun i => (k + i) % n)).find? (fun j =>
    s.rd (R.PLN_STATUS (s.slotSite j)) F.PLN_STATUS.THERM_STATE != 3 && ok (s.slotSite j))

/-- The slot for the next cairn: NEXT, past the stacks that are STOPPED (R364). -/
def State.cairnSlot (s : State) : Option Nat := s.slotFrom (s.rd R.CRN_STATUS F.CRN_STATUS.NEXT) (fun _ => true)

/-- The slot that takes a cairn: where the writes of the first one fail (`bad`: the stacks whose slots' writes fail), the next slot on
another stack is tried once (R364). -/
def State.takingSlot (s : State) (bad : BitVec 8) : Option Nat :=
  match s.cairnSlot with
  | none => none
  | some k =>
    if !bad.getLsbD (s.slotSite k) then some k else
    match s.slotFrom k (fun i => i != s.slotSite k) with
    | none => none
    | some j => if bad.getLsbD (s.slotSite j) then none else some j

/-- Units that every cairn of a partition or the chip reads: the CXL port, the firmware processors, the network-on-chip and bridge, the
always-on domain and the chip itself. -/
def sharedUnits : List Nat := [0xA000, 0xB000, 0xB001, 0xC000, 0xD000, 0xD001, 0xD002, 0xE000, 0x0000]

/-- The units of a cairn in the order of its directory (R363). DESIGN CHOICE: the manual lists no order; a partition or chip cairn has
one entry for a core (log entry 32). -/
def State.cairnUnits (s : State) (level target : Nat) : List Nat :=
  let has := fun (u : Nat) => level == 4 || s.partOfUnit u == some target
  let all := (upto 104).map uCore ++ (upto 2).map uSplice ++ (upto 8).map uPlinth ++ (upto 24).map (unitOf 8) ++ (upto 8).map (unitOf 9)
  if level = 2 then (match coreOfUnit target with
    | some p => coreUnits p
    | none => [target])
  else all.filter has ++ (if level = 3 ∧ s.mode = 4 then (upto 2).map uSplice else []) ++ sharedUnits

/-- Whether a unit is present in the package. -/
def State.unitPresent (s : State) (u : Nat) : Bool :=
  let k := bits u 12 4
  let i := bits u 0 12
  match coreOfUnit u with
  | some p => decide (p < 104) && !s.fuses.off.getLsbD p
  | none =>
    if k = 6 then s.fuses.stackMask.getLsbD i else if k = 8 then s.fuses.ropes.getLsbD i else if k = 9 then s.fuses.ridges.getLsbD i
    else true

/-- The logs that a cairn holds: those of the contexts, then of the partition, that the reset concerns; all of them for the chip. -/
def State.cairnLogs (s : State) (run : ResetRun) : List Nat :=
  if run.level = 4 then upto 21 else
  (upto 16).filter (fun c => s.contains run { level := 1, target := c, log := 0, start := 0 }) ++
    (if run.level = 3 then [16 + run.target] else (match s.partOfUnit run.target with
      | some q => [16 + q]
      | none => [20]))

/-- The 2 KiB of an error log: its 64 places. -/
def ErrLog.bytes (l : ErrLog) : List Byte :=
  (upto 64).flatMap (fun i => match SMap.look l.entries i with
    | some r => r.bytes
    | none => List.replicate 32 0)

/-- The unit under which a cairn of a level notes a failed read: a core for every unit in it where the directory has no entries for those
(log entry 32). -/
def cairnUnit (level u : Nat) : Nat :=
  if level < 3 then u else match coreOfUnit u with
  | some p => uCore p
  | none => u

/-- Status and FAIL_ADDR of a unit's directory entry; `left` units were collected when the time limit passed. -/
def State.dirState (s : State) (c : Cairn) (left : Nat) (e : Nat × Nat) : BitVec 16 × BitVec 8 × BitVec 32 :=
  match c.units.find? (fun x => x.1.toNat == e.1) with
  | some x => x
  | none => (BitVec.ofNat 16 e.1, if !s.unitPresent e.1 then 2 else if e.2 < left then 0 else 3, 0)

/-- Start to collect a cairn, with the crossings in RECOVERY mode (R362). -/
def State.startCairn (s : State) (level target : Nat) (r : ErrRec) : State :=
  let c : Cairn := {
    slot := s.rd R.CRN_STATUS F.CRN_STATUS.NEXT, level := level, flags := 0,
    seq := BitVec.ofNat 32 (s.rd R.CRN_STATUS F.CRN_STATUS.LAST_SEQ + 1), target := BitVec.ofNat 16 target,
    tsStart := s.time, tsEnd := 0, trigger := r, units := [] }
  let s := { s with recov := { s.recov with cairn := some c, cairnBase := s.time, cairnRead := s.time } }
  (s.wr R.CRN_STATUS F.CRN_STATUS.BUSY 1).cdcMode 1

/-- The next cairn that waits for the collector is collected (R363). -/
def State.nextCairn (s : State) : State :=
  let live := s.recov.cairnQ.filter (fun e => s.recov.runs.any (fun x => x.level == e.1 && x.target == e.2.1))
  match s.recov.cairn, live with
  | none, (l, t, r) :: rest => ({ s with recov := { s.recov with cairnQ := rest } } : State).startCairn l t r
  | _, _ => { s with recov := { s.recov with cairnQ := live } }

/-- The core whose scratchpad an engine cairn holds too (R363): one that has been reached to the end. -/
def State.dumpOf (s : State) (c : Cairn) : Option Nat :=
  if c.level ≠ 2 || !s.flag R.CRN_CTRL F.CRN_CTRL.SPD_DUMP || c.flags.getLsbD 2 then none
  else match coreOfUnit c.target.toNat with
    | some p => if c.units.any (fun u => u.1.toNat == uCore p && u.2.1 == 0) then some p else none
    | none => none

/-- The cairn in progress ends (R363 to R365): its directory is complete, or cut off where its time limit has passed; the slot takes
summary, logs, unit images and dump, CRN_AON the summary. MODE returns to RUN (R362), and the next cairn that waits begins. -/
def State.storeCairn (s : State) (c : Cairn) (logs : List Nat) (truncated : Bool) (bad : BitVec 8) : State :=
  let us := s.cairnUnits c.level c.target.toNat
  let left := if truncated then (Config.freeWord s.free).toNat % us.length else us.length
  let units := (us.zip (upto us.length)).map (s.dirState c left)
  let partialBit := if units.any (fun u => u.2.1 == 1) then 1 else 0
  let slot := s.takingSlot bad
  let flags := partialBit + (if slot.isNone then 2 else 0) + (if truncated then 4 else 8)
  let c := { c with
    slot := slot.getD 0
    flags := BitVec.ofNat 8 flags
    tsEnd := s.time
    units := units }
  let at_ := c.directory.2
  let c := { c with used := if slot.isNone then 0 else if (s.dumpOf c).isSome then at_ + dumpBytes else at_ }
  let s := s.draw
  let body := slice (s.cairnHead c ++ logs.flatMap (fun d => (s.log d).bytes)) 0 0xC000 ++ s.cairnImages c
  let dump := match s.dumpOf c with
    | some p => (s.core p).spdDump at_
    | none => []
  let s := s.keepSummary c
  let s := match slot with
    | none => s
    | some k =>
      let rest := (SMap.lookD s.recov.slots k []).filter (fun (x : Nat × Byte) => decide (c.used ≤ x.1))
      let s := { s with recov := { s.recov with
        slots := SMap.put s.recov.slots k (Memory.write [] 0 body ++ dump ++ rest)
        cairns := c :: s.recov.cairns.filter (fun x => x.slot != k) } }
      s.wr R.CRN_STATUS F.CRN_STATUS.NEXT ((k + 1) % s.cairnSlots)
  let runs := s.recov.runs.map (fun (x : ResetRun) => if x.level = c.level ∧ x.target = c.target.toNat then { x with cseq := some c.seq } else x)
  let s := { s with recov := { s.recov with cairn := none, runs := runs } }
  ((s.wr R.CRN_STATUS F.CRN_STATUS.BUSY 0).cdcMode 0).nextCairn

/-- End the cairn of a reset, if it is the one in progress; `bad`: stacks whose slots' writes fail. -/
def State.endCairn (s : State) (run : ResetRun) (truncated : Bool) (bad : BitVec 8) : State :=
  match s.recov.cairn with
  | none => s
  | some c => if c.level = run.level ∧ c.target.toNat = run.target then s.storeCairn c (s.cairnLogs run) truncated bad else s

/-- Whether a reset's cairn still waits for the collector (R363): the reset then goes no further. -/
def State.cairnWaits (s : State) (run : ResetRun) : Bool := s.recov.cairnQ.any (fun e => e.1 == run.level && e.2.1 == run.target)

/-- Whether a stack of a partition is STOPPED, while which the bound of its reset does not run (R356). -/
def State.partStopped (s : State) (q : Nat) : Bool :=
  (upto 8).any (fun i => s.partOfSite i == q && s.rd (R.PLN_STATUS i) F.PLN_STATUS.THERM_STATE == 3)

/-- A stack enters or leaves STOPPED: the bounds of partition resets stop or run on (R356). -/
def State.pauseRuns (s : State) : State :=
  let runs := s.recov.runs.map (fun (x : ResetRun) =>
    match x.pauseAt, x.level == 3 && s.partStopped x.target with
    | none, true => { x with pauseAt := some s.time }
    | some t, false => { x with paused := x.paused + (s.time - t).toNat, pauseAt := none }
    | _, _ => x)
  { s with recov := { s.recov with runs := runs } }

/-- An engine, partition or chip reset fences the contexts of its domain (R352); each takes its record when it is removed (R347). -/
def State.fenceDomain (s : State) (run : ResetRun) : State :=
  (s.ctxs.map Prod.fst).foldl (fun s c => if s.contains run { level := 1, target := c, log := 0, start := 0 } then s.fenceCtx c else s) s

/-- Begin the reset a record demands (R352, R358, R362): take over the resets it contains, join one of the same domain,
and start the cairn of an engine, partition or chip reset with the crossings in RECOVERY mode; one that meets a cairn being collected
waits for it. A chip reset within 60 s of the end of an earlier one asserts FAULT_N (R361). -/
def State.beginReset (s : State) (d : Nat) (r : ErrRec) (noCairn : Bool) : State :=
  let target := levelTarget s r
  let run : ResetRun := {
    level := r.sev.toNat, target := target, log := Fin.ofNat 21 d, start := s.time
    pauseAt := if r.sev = 3 && s.partStopped target then some s.time else none }
  if r.sev = 0 ∨ 5 ≤ r.sev then s
  else if s.recov.runs.any (fun x => x.level == run.level && x.target == run.target) then s
  else if s.recov.runs.any (fun x => s.contains x run) then s
  else
    let taken := s.recov.runs.filter (fun x => s.contains run x)
    let s := taken.foldl (fun s x => if x.log.val = d then s else s.preempt x.log.val) s
    let waits := s.recov.cairnQ.filter (fun e => !taken.any (fun x => x.level == e.1 && x.target == e.2.1))
    let s := { s with recov := { s.recov with cairnQ := waits } }
    let s := taken.foldl (fun s x => s.endCairn x true 0) s
    let s := { s with recov := { s.recov with
      runs := s.recov.runs.filter (fun x => !s.contains run x) ++ [run] } }
    let s := s.fenceDomain run
    let s := if run.level = 4 then
        match s.recov.chipEnd with
        | some t => if s.time.toNat < t.toNat + 6000000000 then s.assertFault 2 else s
        | none => s
      else s
    let s := if 2 ≤ run.level && s.cairnEnabled run.level && !noCairn then
        ({ s with recov := { s.recov with cairnQ := s.recov.cairnQ ++ [(run.level, run.target, r)] } } : State).nextCairn
      else s
    s.showEsc

/-- A unit that stands for partition `q` in a record: its lowest plinth site (log entry 21). -/
def State.partUnit (s : State) (q : Nat) : Nat := uPlinth (q * 8 / max 1 s.mode)

/-- The record of a reset that no class of Table 111 names, the one of LOST_ACTION and the one of the hold pin (R343, R349, R390). DESIGN
CHOICE: its CLASS is a free value (log entry 95). -/
def State.plainRec (s : State) (sev unit : Nat) : ErrRec :=
  { cls := BitVec.ofNat 8 (Config.freeWord s.free).toNat, sev := BitVec.ofNat 8 sev, unit := BitVec.ofNat 16 unit }

/-- Begin the reset of a log's own domain that a lost record demanded, once the log handles nothing (R349): it has a record of its own
(R343). LOST_ACTION clears when that reset is done. -/
def State.lostReset (s : State) (d : Nat) : State :=
  let l := s.log d
  if !l.lost || l.active.isSome || decide (d < 16) then s else
  let sev := if d = 20 then 4 else 3
  let (l, ok) := l.makeRoom (BitVec.ofNat 8 sev)
  let r := { s.plainRec sev (if d = 20 then 0 else s.partUnit (d - 16)) with seq := l.next, ts := s.time, st := .active }
  let l := if ok then { l with entries := SMap.put l.entries l.freePlace r, next := l.next + 1 } else l
  let s := (s.draw.setLog d l).beginReset d r false
  let runs := s.recov.runs.map (fun (x : ResetRun) => if x.level = sev ∧ x.target = levelTarget s r then { x with lost := true } else x)
  { s with recov := { s.recov with runs := runs } }

/-- The reset that a record demands. -/
def State.runOf (s : State) (d : Nat) (r : ErrRec) : ResetRun :=
  { level := r.sev.toNat, target := levelTarget s r, log := Fin.ofNat 21 d, start := s.time }

/-- Whether a reset in progress contains the domain of the reset that a record demands (R358). -/
def State.covered (s : State) (r : ErrRec) : Bool := s.recov.runs.any (fun x => s.contains x (s.runOf 0 r))

/-- Enter a record into log `d` (R347, R348). `mayAct` is false for the record of a context that a larger reset removes:
it is entered QUEUED and never becomes ACTIVE. Answers the state and the record's SEQ. -/
def State.enter (s : State) (d : Nat) (r : ErrRec) (mayAct noCairn : Bool) : State :=
  let l := s.log d
  let (l, ok) := l.makeRoom r.sev
  if !ok then (s.setLog d l).lostReset d else
  let r := { r with seq := l.next, ts := s.time }
  let mayAct := mayAct && !s.covered r
  let i := l.freePlace
  let put := fun (l : ErrLog) (r : ErrRec) => { l with entries := SMap.put l.entries i r, next := l.next + 1 }
  if r.sev = 0 then s.setLog d (put l { r with st := .done })
  else if !mayAct then (s.setLog d (put l { r with st := .queued })).showEsc
  else match l.active with
    | none => (s.setLog d (put l { r with st := .active })).beginReset d { r with st := .active } noCairn
    | some (j, a) =>
      if a.sev < r.sev then
        let l := { l with entries := SMap.put l.entries j { a with st := .queued, preempted := true } }
        (s.setLog d (put l { r with st := .active })).beginReset d { r with st := .active } noCairn
      else (s.setLog d (put l { r with st := .queued })).showEsc

/-- File a record about a unit in the log R346 gives it. -/
def State.file (s : State) (cls sev unit : Nat) (ctx : Option Nat) (addr detail : Nat) : State :=
  s.enter (s.logOf unit sev)
    { cls := BitVec.ofNat 8 cls, sev := BitVec.ofNat 8 sev, ctx := BitVec.ofNat 8 (ctx.getD 0xFF),
      unit := BitVec.ofNat 16 unit, addr := BitVec.ofNat 64 addr, detail := BitVec.ofNat 32 detail } true false

/-- Note that an entry has been written which MSI-X vector `v` announces (R308). -/
def State.signal (s : State) (v : Nat) : State := s.setVector v { s.vector v with due := true }

/-- The 32-byte header and 32-byte payload of an event (R316, Table 97). Events carry major 1, minor 0 (log entry 20). -/
def eventBytes (typ : Nat) (payload : List Byte) (ts : Word) : List Byte :=
  natLe 1 2 ++ natLe 0 2 ++ natLe typ 2 ++ natLe 0 2 ++ natLe 0 4 ++ natLe 32 4 ++ natLe 0 2 ++ natLe 0 2 ++ natLe 0 4 ++
  natLe ts.toNat 8 ++ slice payload 0 32

/-- Write an event at EVT_TAIL and advance it; drop it and count it when the ring is full (R316). -/
def State.event (s : State) (typ : Nat) (payload : List Byte) : State :=
  let t := s.rd R.MBX_EVT F.MBX_EVT.EVT_TAIL
  let h := s.rd R.MBX_EVT F.MBX_EVT.EVT_HEAD
  if (t + 1) % 63 = h then { s.bump R.MBX_EVT F.MBX_EVT.LOST 1 with evtLost := true }
  else
    let s := { s with mbx := Memory.write s.mbx (0x7000 + 0x40 + 64 * t) (eventBytes typ payload s.time) }
    (s.wr R.MBX_EVT F.MBX_EVT.EVT_TAIL ((t + 1) % 63)).signal (s.rd R.MBX_EVT F.MBX_EVT.VECTOR)

/-- Whether a context number is in use by a loaded context. -/
def Ctx.live (x : Ctx) : Bool := x.phase == .loaded || x.phase == .running

/-! ### Mailbox responses -/

/-- Byte `off` of channel `ch`'s page, as an offset in the mailbox pages. -/
def mbxAt (ch off : Nat) : Nat := ch * 0x1000 + off

/-- Bytes of the request in channel `ch`. -/
def State.reqBytes (s : State) (ch off n : Nat) : List Byte := Memory.read s.mbx (mbxAt ch (0x100 + off)) n

/-- A little-endian number in the request in channel `ch`. -/
def State.reqNat (s : State) (ch off n : Nat) : Nat := leNat (s.reqBytes ch off n)

/-- Status codes (Table 98). -/
def msOk : Nat := 0
def msVersion : Nat := 1
def msUnknown : Nat := 2
def msLength : Nat := 3
def msArg : Nat := 4
def msState : Nat := 5
def msRestarted : Nat := 6
def msDeferred : Nat := 7

/-- Write a response (R309, R310): it repeats TYPE and TAG and carries version 1.0, then DONE is set, BUSY cleared, and vector 0
signalled if IRQ_EN is 1. -/
def State.reply (s : State) (ch status detail : Nat) (payload : List Byte) : State :=
  let h := natLe 1 2 ++ natLe 0 2 ++ s.reqBytes ch 4 2 ++ natLe 0 2 ++ s.reqBytes ch 8 4 ++ natLe payload.length 4 ++
    natLe status 2 ++ natLe detail 2 ++ natLe 0 4 ++ natLe s.time.toNat 8
  let s := { s with mbx := Memory.write s.mbx (mbxAt ch 0x900) (h ++ payload) }
  let r := R.MBX_CTRL ch
  let s := (s.wr r F.MBX_CTRL.DONE 1).wr r F.MBX_CTRL.BUSY 0
  if s.flag r F.MBX_CTRL.IRQ_EN then s.signal 0 else s

/-- A core is fenced while it wakes for a load: the load is refused with UNIT_ABSENT (R58). -/
def State.refuseLoads (s : State) (p : Nat) : State :=
  s.ctxs.foldl (fun s kc =>
    if kc.2.phase == .loading && kc.2.cores.any (fun k => k.phys.val == p) then
      let s := match kc.2.loadCh with
        | some ch => s.reply ch 0x103 0 []
        | none => s
      s.setCtx kc.1 {}
    else s) s

/-- A context error of a jig's pattern goes only to the run's outcome (R331, R333). -/
def State.jigError (s : State) (unit : Nat) : State :=
  match coreOfUnit unit with
  | none => s
  | some p => s.onJig p (fun r => { r with ctxErr := true })

/-- Raise a context error (R320, R343): the record enters the context's log, and the context is fenced. A context that is
already fenced takes no second error; the record is only logged (R321). An absent context takes none. -/
def State.raiseFrom (s : State) (c cause unit addr detail : Nat) (mayAct : Bool) : State :=
  if c = jigCtx then s.jigError unit else
  let x := s.ctx c
  if !x.live then s else
  let r : ErrRec := {
    cls := BitVec.ofNat 8 clsCtxError, sev := 1, cause := BitVec.ofNat 16 cause, ctx := BitVec.ofNat 8 c,
    unit := BitVec.ofNat 16 unit, addr := BitVec.ofNat 64 addr, detail := BitVec.ofNat 32 detail, ts := s.time,
    seq := (s.log c).next }
  let s := s.enter c r mayAct false
  if x.cause.isSome then s else
  let s := s.setCtx c { s.ctx c with cause := some r }
  s.fenceCtx c

/-- Raise a context error that its own context reset handles. -/
def State.raise (s : State) (c cause unit addr detail : Nat) : State := s.raiseFrom c cause unit addr detail true

/-- Raise a context error for the instruction at the program counter of core `p`: SEQ_FAULT_PC takes its address (R168). -/
def State.raiseInsn (s : State) (p c cause addr detail : Nat) : State :=
  let pc := s.rd (R.SEQ_PC p) F.SEQ_PC.PC
  (s.wr (R.SEQ_FAULT_PC p) F.SEQ_FAULT_PC.PC pc).raise c cause (uCore p) addr detail

/-- Whether physical core `p` is present in the package. -/
def State.corePresent (s : State) (p : Nat) : Bool := decide (p < 104) && !s.fuses.off.getLsbD p

/-- The free spares of a die: present, serving no logical number, not fenced. -/
def State.freeSpares (s : State) (d : Nat) : List Nat :=
  (natsFrom (52 * d) 52).filter (fun p => s.corePresent p && (s.logicalOf p).isNone && !s.isFenced p)

/-- Show the cores in service and the free spares (R3). -/
def State.showCap (s : State) : State :=
  (s.wr R.CHIP_CAP_UNITS F.CHIP_CAP_UNITS.CORES s.logical.length).wr R.CHIP_CAP_UNITS F.CHIP_CAP_UNITS.SPARES
    (min 8 ((s.freeSpares 0).length + (s.freeSpares 1).length))

/-- Fence a physical core (R340, Table 108 steps 2 to 4): the fence list, HEALTH FENCED, a context error UNIT_FENCED for each
resident context, and FENCED at once where the core holds none. -/
def State.fenceCore (s : State) (p : Nat) : State :=
  if s.isFenced p then s else
  let s := s.abandonRun p
  let m := s.rd (R.JIG_FENCED (p / 64)) F.JIG_FENCED.MASK
  let s := s.wr (R.JIG_FENCED (p / 64)) F.JIG_FENCED.MASK (m ||| 1 <<< (p % 64))
  let s := s.wr (R.JIG_CORE_STATUS p) F.JIG_CORE_STATUS.HEALTH 2
  let s := s.wr (R.JIG_CORE_STATUS p) F.JIG_CORE_STATUS.TARGETED 0
  let s := { s with jig := { s.jig with
    fenceDue := true
    awaiting := s.jig.awaiting ++ ((s.logicalOf p).map (fun n => (Fin.ofNat 104 p, n, s.time))).toList } }
  let rs := s.residents p
  let s := s.refuseLoads p
  let s := if rs.isEmpty then ((s.gateCore p).showAwake (p / 52)).admitWakes (p / 52) else
    rs.foldl (fun s c => s.raise c cUnitFenced (uCore p) 0 0) (s.setCoreState p csFencing)
  s.showCap

/-- A health failure's first effects: SUSPECT, the window and a targeted run (R324). -/
def State.suspect (s : State) (p : Nat) : State :=
  if s.rd (R.JIG_CORE_STATUS p) F.JIG_CORE_STATUS.HEALTH ≠ 0 then s else
  let s := s.wr (R.JIG_CORE_STATUS p) F.JIG_CORE_STATUS.HEALTH 1
  let s := s.wr (R.JIG_CORE_TIME p) F.JIG_CORE_TIME.WINDOW_START s.time.toNat
  s.wr (R.JIG_CORE_STATUS p) F.JIG_CORE_STATUS.TARGETED 1

/-- Whether the 24 h window of core `p` is still open (R325): 24 h is 8.64 × 10^12 ticks. -/
def State.inWindow (s : State) (p : Nat) : Bool :=
  (s.time - BitVec.ofNat 64 (s.rd (R.JIG_CORE_TIME p) F.JIG_CORE_TIME.WINDOW_START)).toNat ≤ 8640000000000

/-- A residue check failed on core `p` (R324, R325). A jig's result goes only to the run's outcome (R331, R333). -/
def State.residueFail (s : State) (p unit : Nat) (ctx : Option Nat) : State :=
  if ctx = some jigCtx then
    s.onJig p (fun r => if unit = uVec p then { r with vecs := r.vecs + 1 } else { r with cubes := r.cubes + 1 })
  else
  let s := s.file clsResidue 0 unit ctx 0 0
  let s := s.bump (R.JIG_CORE_STATUS p) F.JIG_CORE_STATUS.RESIDUE_24H 1
  let s := s.bump (R.JIG_CORE_STATUS p) F.JIG_CORE_STATUS.RESIDUE_TOTAL 1
  let s := s.suspect p
  if 2 ≤ s.rd (R.JIG_CORE_STATUS p) F.JIG_CORE_STATUS.RESIDUE_24H && s.inWindow p then s.fenceCore p else s

/-- A scratchpad seal or a register parity check failed on core `p` (R326, R327). In a jig run it goes only to the run's outcome (R331). -/
def State.storageFail (s : State) (p unit : Nat) (ctx : Option Nat) (addr : Nat) : State :=
  if ctx = some jigCtx then
    s.onJig p (fun r => if unit = uVec p then { r with parity := r.parity + 1 } else { r with bench := true })
  else
  let s := s.file clsStorage 0 unit ctx addr 0
  let s := s.bump (R.JIG_CORE_STATUS p) F.JIG_CORE_STATUS.STORE_24H 1
  let s := s.bump (R.JIG_CORE_STATUS p) F.JIG_CORE_STATUS.STORE_TOTAL 1
  let s := s.suspect p
  if 3 ≤ s.rd (R.JIG_CORE_STATUS p) F.JIG_CORE_STATUS.STORE_24H && s.inWindow p then s.fenceCore p else s

end Sys2Proof.Machine
end

