-- ==== Sys2Proof/Machine/Tiles.lean ====
section
/-!
DEFINITION. Tiled memories: scratchpad with its seals and states (R38 to R43), HBM with the address hash, ECC, the
write-combining buffer, the hold shelf and repair requests (R191 to R214), and the snoop filter of the host (R300).
-/
namespace Sys2Proof.Machine

/-- Bytes of a tile. -/
def tileBytes : Nat := 2048

/-- Seal and state of tile `i`. -/
def Tiled.info (t : Tiled) (i : Nat) : TileMeta := SMap.lookD t.tiles i {}

/-- The 2048 bytes of tile `i`. -/
def Tiled.data (t : Tiled) (i : Nat) : List Byte := Memory.read t.bytes (2048 * i) 2048

/-- Store a whole tile with a seal and state. -/
def Tiled.put (t : Tiled) (i : Nat) (d : List Byte) (m : TileMeta) : Tiled :=
  { bytes := Memory.write t.bytes (2048 * i) d, tiles := SMap.putD t.tiles i m {} }

/-- Give tile `i` a seal and state, leaving its bytes. -/
def Tiled.mark (t : Tiled) (i : Nat) (m : TileMeta) : Tiled := { t with tiles := SMap.putD t.tiles i m {} }

/-- Set `n` tiles from tile `i` on UNWRITTEN. -/
def Tiled.erase (t : Tiled) (i n : Nat) : Tiled :=
  { bytes := Memory.clear t.bytes (2048 * i) (2048 * n)
    tiles := t.tiles.filter (fun kv => !(decide (i ≤ kv.1) && decide (kv.1 < i + n))) }

/-- The seal of a tile's bytes (R40). -/
def sealOf (d : List Byte) : BitVec 32 := BitVec.ofNat 32 (crc32c d)

/-- A tile sealed over its bytes. -/
def sealedMeta (d : List Byte) : TileMeta := { sl := sealOf d, st := .sealed }

/-- A tile sealed over its bytes and marked POISON. -/
def poisonMeta (d : List Byte) : TileMeta := { sl := sealOf d, st := .poison }

/-- Cut a run of bytes at tile boundaries: address and bytes of each piece. `fuel` bounds the pieces. -/
def tilePieces : Nat → Nat → List Byte → List (Nat × List Byte)
  | 0, _, _ => []
  | _, _, [] => []
  | f + 1, a, d =>
    let n := 2048 - a % 2048
    (a, d.take n) :: tilePieces f (a + n) (d.drop n)

/-- The pieces of a run of bytes. -/
def pieces (a : Nat) (d : List Byte) : List (Nat × List Byte) := tilePieces (d.length / 2048 + 2) a d

/-- The tiles that `n` bytes from `a` on touch. -/
def tilesOf (a n : Nat) : List Nat := if n = 0 then [] else natsFrom (a / 2048) ((a + n - 1) / 2048 - a / 2048 + 1)

/-! ### Scratchpad -/

/-- Change a core's scratchpad. -/
def State.setSpd (s : State) (p : Nat) (t : Tiled) : State := s.setCore p { s.core p with spd := t }

/-- Check a scratchpad tile before its data is used (R41, R42): whether the data is poisoned. -/
def State.spdCheck (s : State) (p : Nat) (ctx : Option Nat) (i : Nat) : State × Bool :=
  let t := (s.core p).spd
  let m := t.info i
  match m.st with
  | .unwritten => (s.bump (R.CORE_STATUS p) F.CORE_STATUS.UNINIT_READS 1, false)
  | .poison => (s, true)
  | .sealed =>
    if sealOf (t.data i) = m.sl then (s, false)
    else
      let s := s.setSpd p (t.mark i { m with st := .poison })
      (s.storageFail p (uCore p) ctx (2048 * i), true)

/-- Read scratchpad bytes at a core-local address, checking every tile they lie in: the bytes, and whether any is poisoned. -/
def State.spdRead (s : State) (p : Nat) (ctx : Option Nat) (a n : Nat) : State × List Byte × Bool :=
  let d := Memory.read (s.core p).spd.bytes a n
  let (s, po) := (tilesOf a n).foldl (fun (x : State × Bool) i =>
    let (s, q) := x.1.spdCheck p ctx i
    (s, x.2 || q)) (s, false)
  (s, d, po)

/-- A write has reached a scratchpad tile: buffered speculative reads of it are stale (R37). -/
def Core.staleSpec (k : Core) (i : Nat) : Core :=
  match k.ahead with
  | none => k
  | some r => { k with ahead := some { r with buf := r.buf.map (fun (b : Target × List Byte × Bool) =>
      match b.1 with
      | .spd a => if a / 2048 = i then (b.1, b.2.1, true) else b
      | _ => b) } }

/-- Store a tile that a write has changed. -/
def State.spdStore (s : State) (p i : Nat) (t : Tiled) : State := s.setCore p { (s.core p).staleSpec i with spd := t }

/-- Write one piece of a tile (R40): a whole tile is sealed over its new data; part of a tile is merged after the old seal is
checked. Poisoned data leaves the tile POISON. -/
def State.spdPiece (s : State) (p : Nat) (ctx : Option Nat) (a : Nat) (d : List Byte) (poison : Bool) : State :=
  let i := a / 2048
  let t := (s.core p).spd
  if d.length = 2048 then s.spdStore p i (t.put i d (if poison then poisonMeta d else sealedMeta d))
  else
    let (s, bad) := if (t.info i).st = .unwritten then (s, false) else s.spdCheck p ctx i
    let d' := splice ((s.core p).spd.data i) (a % 2048) d
    s.spdStore p i ((s.core p).spd.put i d' (if bad || poison then poisonMeta d' else sealedMeta d'))

/-- Write scratchpad bytes at a core-local address. -/
def State.spdWrite (s : State) (p : Nat) (ctx : Option Nat) (a : Nat) (d : List Byte) (poison : Bool) : State :=
  (pieces a d).foldl (fun s x => s.spdPiece p ctx x.1 x.2 poison) s

/-- Write a whole scratchpad tile with a seal and state carried from elsewhere (R46). -/
def State.spdPutTile (s : State) (p i : Nat) (d : List Byte) (m : TileMeta) : State :=
  s.spdStore p i ((s.core p).spd.put i d m)

/-- The first context scratchpad address past a slot's allocation (R43). The save area and the staging buffers lie inside the
allocation, and R43's bound does not except them (log entry 24). -/
def State.spdLimit (s : State) (p i : Nat) : Nat :=
  if i = 2 then benchRoom else s.rd (R.CORE_SPD_ALLOC p i) F.CORE_SPD_ALLOC.SIZE * 0x10000

/-- Core-local address of a slot's first scratchpad byte (R43). The pattern of a jig has the workspace (R328). -/
def State.spdBase (s : State) (p i : Nat) : Nat :=
  if i = 2 then benchWork else s.rd (R.CORE_SPD_ALLOC p i) F.CORE_SPD_ALLOC.BASE * 0x10000

/-- Core-local address of a context address of a slot (R43), if it and the `n` bytes from it on lie in the allocation. -/
def State.spdAddr (s : State) (p i a n : Nat) : Option Nat :=
  if a + n ≤ s.spdLimit p i then some (s.spdBase p i + a) else none

/-! ### HBM: places -/

/-- Whether a plinth site carries a stack (R15). -/
def State.stackPresent (s : State) (i : Nat) : Bool := decide (i < 8) && s.fuses.stackMask.getLsbD i

/-- The partition whose HBM range holds a local address (R193). -/
def State.partOfAddr (s : State) (a : Nat) : Option Nat :=
  (upto 4).find? (fun p =>
    let b := s.rd (R.MEM_PART p) F.MEM_PART.BASE
    let z := s.rd (R.MEM_PART p) F.MEM_PART.SIZE
    decide (b <<< 30 ≤ a) && decide (a < (b + z) <<< 30))

/-- The end of the last partition (R299). -/
def State.hbmEnd (s : State) : Nat :=
  (upto 4).foldl (fun m p =>
    max m ((s.rd (R.MEM_PART p) F.MEM_PART.BASE + s.rd (R.MEM_PART p) F.MEM_PART.SIZE) <<< 30)) 0

/-- Fold a number in 5-bit chunks (R194). -/
def fold5 (q : Nat) : Nat := (upto 8).foldl (fun f i => f ^^^ (q >>> (5 * i) % 32)) 0

/-- The address hash of R194: partition stack index, channel and channel offset of a partition-relative address. -/
def hbmMap (a S : Nat) : Nat × Nat × Nat :=
  let g := a / 256
  let q := g / 32
  let t := q / S
  ((q % S + t) % S, (g % 32) ^^^ fold5 q, t * 256 + a % 256)

/-- The inverse of the hash: the partition-relative address of a stack index, channel and channel offset (R194). -/
def hbmUnmap (S stack chan off : Nat) : Nat :=
  let t := off / 256
  let j := ((stack + S - t % S) % S)
  let q := S * t + j
  (q * 32 + (chan ^^^ fold5 q)) * 256 + off % 256

/-- The plinth sites of a partition in ascending order. -/
def State.sitesOf (s : State) (p : Nat) : List Nat := onesOf (s.rd (R.MEM_PART p) F.MEM_PART.STACK_MASK) 8

/-- Site, channel and channel offset of a local address, by the address hash (R194). -/
def State.place (s : State) (a : Nat) : Option (Nat × Nat × Nat) :=
  match s.partOfAddr a with
  | none => none
  | some p =>
    let sites := s.sitesOf p
    if sites.isEmpty then none else
    let (st, ch, off) := hbmMap (a - s.rd (R.MEM_PART p) F.MEM_PART.BASE <<< 30) sites.length
    some (sites.getD st 0, ch, off)

/-- The channel that holds the current copy of offset `o` of channel `c` of a stack: granules of a repaired channel below WATERMARK lie in
the reserves of the others (R207, R208, R210). -/
def State.chanOf (s : State) (site c o : Nat) : Nat :=
  let f := s.rd (R.PLN_STATUS site) F.PLN_STATUS.REPAIR_CH
  if s.rd (R.PLN_STATUS site) F.PLN_STATUS.REPAIR_STATE = 0 ∨ c ≠ f ∨ s.rd (R.PLN_REPAIR site) F.PLN_REPAIR.WATERMARK ≤ o / 256 then c
  else
    let k := o / 0x6000000
    if k < f then k else k + 1

/-- The nominal channel and offset whose current copy lies at a place of a channel; none where the place holds no current data. -/
def State.currentAt (s : State) (site c o : Nat) : Option (Nat × Nat) :=
  let f := s.rd (R.PLN_STATUS site) F.PLN_STATUS.REPAIR_CH
  let w := s.rd (R.PLN_REPAIR site) F.PLN_REPAIR.WATERMARK
  if s.rd (R.PLN_STATUS site) F.PLN_STATUS.REPAIR_STATE = 0 then some (c, o)
  else if c = f then (if o / 256 < w then none else some (c, o))
  else if 0xBA000000 ≤ o then
    let x := (if c < f then c else c - 1) * 0x6000000 + (o - 0xBA000000)
    if x / 256 < w then some (f, x) else none
  else some (c, o)

/-- Site and channel that serve a local address: the hash, then the repair map (R194, R207). -/
def State.served (s : State) (a : Nat) : Option (Nat × Nat) := (s.place a).map (fun x => (x.1, s.chanOf x.1 x.2.1 x.2.2))

/-- Site and the eight channels of a tile. -/
def State.tilePlace (s : State) (i : Nat) : Option (Nat × List Nat) :=
  match s.place (2048 * i) with
  | none => none
  | some (site, _, _) => some (site, (upto 8).filterMap (fun k => (s.served (2048 * i + 256 * k)).map Prod.snd))

/-- Site of a tile, 0 where the tile does not exist. -/
def State.siteOf (s : State) (i : Nat) : Nat := match s.place (2048 * i) with | some (x, _, _) => x | none => 0

/-- Whether a stack is STOPPED. -/
def State.stopped (s : State) (site : Nat) : Bool := s.rd (R.PLN_STATUS site) F.PLN_STATUS.THERM_STATE == 3

/-- Whether a tile has a granule on the channel its plinth holds for retraining. -/
def State.tileHeld (s : State) (i : Nat) : Bool :=
  match s.tilePlace i with
  | none => false
  | some (site, cs) => match (s.plinth site).hold with
    | none => false
    | some (c, _) => cs.contains c

/-- Whether a request for a tile must wait: its stack is STOPPED or it is held (R202, R206, R214). -/
def State.tileBlocked (s : State) (i : Nat) : Bool := s.stopped (s.siteOf i) || s.tileHeld i

/-! ### HBM: repair requests -/

/-- Record the saved training settings of a stack (R212). -/
def State.saveRepair (s : State) (site : Nat) : State :=
  { s with
    flash := { s.flash with
      repair := SMap.put s.flash.repair site (BitVec.ofNat 2 (s.rd (R.PLN_STATUS site) F.PLN_STATUS.REPAIR_STATE),
       BitVec.ofNat 5 (s.rd (R.PLN_STATUS site) F.PLN_STATUS.REPAIR_CH),
       s.flag (R.PLN_STATUS site) F.PLN_STATUS.EXHAUSTED,
       BitVec.ofNat 24 (s.rd (R.PLN_REPAIR site) F.PLN_REPAIR.WATERMARK)) } }

/-- A repair of a channel is requested (R209). -/
def State.requestRepair (s : State) (site ch : Nat) : State :=
  let st := s.rd (R.PLN_STATUS site) F.PLN_STATUS.REPAIR_STATE
  if st = 0 then
    let s := s.wr (R.PLN_STATUS site) F.PLN_STATUS.REPAIR_STATE 1
    let s := s.wr (R.PLN_STATUS site) F.PLN_STATUS.REPAIR_CH ch
    (s.wr (R.PLN_REPAIR site) F.PLN_REPAIR.WATERMARK 0).saveRepair site
  else if s.rd (R.PLN_STATUS site) F.PLN_STATUS.REPAIR_CH = ch then s
  else
    let s := s.wr (R.PLN_STATUS site) F.PLN_STATUS.EXHAUSTED 1
    let s := s.file clsRepairExhausted 0 (uChannel site ch) none 0 0
    (s.wr R.ERR_ESC F.ERR_ESC.SERVICE 1).saveRepair site

/-! ### HBM: checks and writes -/

/-- The sectors of a tile with an uncorrectable fault. -/
def State.badSectors (s : State) (i : Nat) : List Nat := s.ue.filter (fun x => x / 32 == i)

/-- A tile's sectors carry fresh ECC once it is written (R192). -/
def State.freshEcc (s : State) (i : Nat) : State := { s with ue := s.ue.filter (fun x => x / 32 != i) }

/-- An uncorrectable sector is found: count, record and repair request (R192, R209). -/
def State.foundUe (s : State) (sector : Nat) : State :=
  match s.served (64 * sector) with
  | none => s
  | some (site, ch) =>
    let s := s.bump (R.PLN_CHAN_ERR site ch) F.PLN_CHAN_ERR.UE 1
    (s.file clsHbmUe 0 (uChannel site ch) none (64 * sector) 0).requestRepair site ch

/-- Set a tile's state to POISON. -/
def State.poisonTile (s : State) (i : Nat) : State :=
  { s with hbm := s.hbm.mark i { s.hbm.info i with st := .poison } }

/-- The channels of a tile complete a DRAM operation (R350). -/
def State.dramDone (s : State) (i : Nat) : State :=
  match s.tilePlace i with
  | none => s
  | some (site, cs) => cs.foldl (fun s c => s.stamp (uChannel site c)) s

/-- Check an HBM tile (R196): every uncorrectable sector it meets is found, whatever the tile's state (R192); whether its data is poisoned. `count` is false for a merge, which reads an UNWRITTEN tile as
zeros without counting it. -/
def State.hbmCheck (s : State) (i : Nat) (count : Bool) : State × Bool :=
  let m := s.hbm.info i
  let s := s.dramDone i
  match m.st with
  | .unwritten => (if count then s.bump (R.PLN_COUNT (s.siteOf i)) F.PLN_COUNT.UNINIT_READS 1 else s, false)
  | .poison => ((s.badSectors i).foldl State.foundUe s, true)
  | .sealed =>
    let bad := s.badSectors i
    if !bad.isEmpty then ((bad.foldl State.foundUe s).poisonTile i, true)
    else if sealOf (s.hbm.data i) = m.sl then (s, false)
    else ((s.poisonTile i).file clsHbmSeal 0 (uPlinth (s.siteOf i)) none (2048 * i) 0, true)

/-- Store a tile in DRAM. -/
def State.putTile (s : State) (i : Nat) (d : List Byte) (m : TileMeta) : State :=
  ({ s with hbm := s.hbm.put i d m }.freshEcc i).dramDone i

/-- The granules of a tile that lie on a channel its plinth holds: only these wait in the hold shelf (R206). -/
def State.heldGranules (s : State) (i : Nat) : Nat :=
  match s.tilePlace i with
  | none => 1
  | some (site, cs) => match (s.plinth site).hold with
    | none => 1
    | some (c, _) => max 1 (cs.filter (fun x => x == c)).length

/-- Bytes of write data in the hold shelf of a plinth (R206). -/
def State.shelfBytes (s : State) (site : Nat) : Nat :=
  (s.plinth site).parked.foldl (fun n x => n + (match x with
    | .merge t _ _ => 256 * s.heldGranules t
    | .whole a _ _ => 256 * s.heldGranules (a / 2048)
    | .read .. => 0)) 0

/-- Whether the hold shelf has room for the part of one more tile write that waits. -/
def State.shelfRoom (s : State) (i : Nat) : Bool := decide (s.shelfBytes (s.siteOf i) + 256 * s.heldGranules i ≤ 0x400000)

/-- Show the occupancy of the hold shelf. -/
def State.showShelf (s : State) (site : Nat) : State :=
  (s.wr (R.PLN_STATUS site) F.PLN_STATUS.SHELF_FILL (min 256 (ceilDiv (s.shelfBytes site) 0x4000))).wr
    (R.PLN_STATUS site) F.PLN_STATUS.READQ_FILL (min 512 (shelfReads (s.plinth site).parked))

/-- Park a request for a held channel (R206). -/
def State.park (s : State) (site : Nat) (x : Parked) : State :=
  let k := s.plinth site
  (s.setPlinth site { k with parked := k.parked ++ [x] }).showShelf site

/-- The write-combining entry of a tile, if any. -/
def State.wcbEntry (s : State) (i : Nat) : Option WcbEntry := (s.plinth (s.siteOf i)).wcb.find? (fun e => e.tile == i)

/-- Drop the write-combining entry of a tile. -/
def State.wcbDrop (s : State) (i : Nat) : State :=
  let site := s.siteOf i
  let k := s.plinth site
  s.setPlinth site { k with wcb := k.wcb.filter (fun e => e.tile != i), merging := k.merging.filter (fun t => t != i) }

/-- Bytes of a write-combining entry laid over a tile. -/
def overlay (d : List Byte) (w : SMap Byte) : List Byte :=
  (upto 2048).map (fun o => match SMap.look w o with | some b => b | none => d.getD o 0)

/-- Merge written bytes into their tile (R200). -/
def State.mergeBytes (s : State) (i : Nat) (bytes : SMap Byte) (poison : Bool) : State :=
  let (s, bad) := s.hbmCheck i false
  let d := overlay (s.hbm.data i) bytes
  (s.putTile i d (if bad || poison then poisonMeta d else sealedMeta d)).count (R.PLN_COUNT (s.siteOf i)) F.PLN_COUNT.WCB_MERGE 1

/-- Merge a write-combining entry into its tile (R200). -/
def State.wcbMerge (s : State) (i : Nat) : State :=
  match s.wcbEntry i with
  | none => s
  | some e => (s.wcbDrop i).mergeBytes i e.bytes e.poison

/-- Lay bytes into a write-combining entry. -/
def layBytes (w : SMap Byte) (o : Nat) (d : List Byte) : SMap Byte :=
  w.filter (fun c => decide (c.1 < o)) ++ (natsFrom o d.length).zip d ++ w.filter (fun c => decide (o + d.length ≤ c.1))

/-- The least recently written entry of a buffer. -/
def oldestEntry (l : List WcbEntry) : Option WcbEntry :=
  l.foldl (fun b e => match b with | none => some e | some x => if e.touched < x.touched then some e else b) none

/-- A whole-tile write is accepted (R198): it supersedes the tile's write-combining entry, and parks in the hold shelf while
the tile is held. `none`: refused, the source retries (R206, R214). -/
def State.acceptWhole (s : State) (i : Nat) (d : List Byte) (m : TileMeta) : Option State :=
  let site := s.siteOf i
  if s.stopped site then none
  else if s.tileHeld i then
    if !s.shelfRoom i then none else some ((s.wcbDrop i).park site (.whole (2048 * i) d m))
  else some ((s.wcbDrop i).putTile i d m)

/-- Make room for a new entry: a full buffer merges its least recently written entry (R200). `none`: that entry is held. -/
def State.wcbRoom (s : State) (site : Nat) : Option State :=
  if (s.plinth site).wcb.length < 1024 then some s else
  match oldestEntry (s.plinth site).wcb with
  | none => some s
  | some e => if s.tileHeld e.tile then none else some (s.wcbMerge e.tile)

/-- A partial write inside one tile is accepted into the tile's write-combining entry (R199); an entry whose last byte is
written leaves at once as a whole tile (R200). `none`: refused. -/
def State.acceptPiece (s : State) (a : Nat) (d : List Byte) (poison : Bool) : Option State :=
  let i := a / 2048
  let site := s.siteOf i
  if s.stopped site then none else
  match (match s.wcbEntry i with | some _ => some s | none => s.wcbRoom site) with
  | none => none
  | some s =>
    let k := s.plinth site
    let e : WcbEntry := (s.wcbEntry i).getD { tile := i, bytes := [], poison := false, born := s.time, touched := 0 }
    let e := { e with bytes := layBytes e.bytes (a % 2048) d, poison := e.poison || poison, touched := k.stamp + 1 }
    if e.bytes.length = 2048 then
      let t := e.bytes.map Prod.snd
      match s.acceptWhole i t (if e.poison then poisonMeta t else sealedMeta t) with
      | none => none
      | some s => some (s.count (R.PLN_COUNT site) F.PLN_COUNT.WCB_COMPLETE 1)
    else some (s.setPlinth site { k with wcb := k.wcb.filter (fun x => x.tile != i) ++ [e], stamp := k.stamp + 1 })

/-- Every piece of a write is accepted, or none is. -/
def State.acceptPieces (s : State) (poison : Bool) : List (Nat × List Byte) → Option State
  | [] => some s
  | (a, d) :: l =>
    let r := if d.length = 2048 then s.acceptWhole (a / 2048) d (if poison then poisonMeta d else sealedMeta d)
      else s.acceptPiece a d poison
    match r with
    | none => none
    | some s => s.acceptPieces poison l

/-! ### The host's snoop filter -/

/-- Lines of `n` bytes from a local address on that the host holds. -/
def State.heldLines (s : State) (a n : Nat) : List Nat :=
  s.snoop.filter (fun l => decide (a < 64 * l + 64) && decide (64 * l < a + n))

/-- Send BISnpInv for lines not yet asked for (R300). -/
def State.backInvalidate (s : State) (lines : List Nat) : State :=
  lines.foldl (fun s l => if s.biSent.contains l then s else
    ({ s with biSent := s.biSent ++ [l] }.emit (.bisnp l)).count R.CXL_LINK F.CXL_LINK.BI_SNOOPS 1) s

/-- Bytes of a bivouac page. -/
def pageBytes : Nat := 0x200000

/-- The context whose HBM extents hold a local address, if any. -/
def State.ownerOf (s : State) (a : Nat) : Option Nat :=
  (s.ctxs.find? (fun kc => kc.2.extents.any (fun e => decide (e.1 ≤ a) && decide (a < e.1 + e.2)))).map Prod.fst

/-- Page number of a local address in the image of its context: 2 MiB pages counted through the extents (R374). -/
def pageIn : List (Nat × Nat) → Nat → Nat → Option Nat
  | [], _, _ => none
  | (b, n) :: es, a, k =>
    if b ≤ a ∧ a < b + n then some (k + (a - b) / 0x200000) else pageIn es a (k + n / 0x200000)

/-- Record an accepted write in the dirty sets of both bivouac slots (R372). -/
def State.markDirty (s : State) (a : Nat) : State :=
  match s.ownerOf a with
  | none => s
  | some c =>
    let x := s.ctx c
    if !x.biv.configured then s else
    match pageIn x.extents a 0 with
    | none => s
    | some g =>
      let add := fun (l : List Nat) => if l.contains g then l else l ++ [g]
      s.setCtx c { x with biv := { x.biv with dirtyA := add x.biv.dirtyA, dirtyB := add x.biv.dirtyB } }

/-- Whether a write must wait for a page that a snapshot has marked PENDING (R373). -/
def State.pagePending (s : State) (a : Nat) : Bool :=
  match s.ownerOf a with
  | none => false
  | some c => match pageIn (s.ctx c).extents a 0 with
    | none => false
    | some g => (s.ctx c).biv.pend.contains g

/-- Note that a page has a write held, and since when (R373); its urgent copy stalls if the reserve has no page for it. -/
def State.holdPage (s : State) (a : Nat) : State :=
  match s.ownerOf a with
  | none => s
  | some c =>
    let x := s.ctx c
    match pageIn x.extents a 0 with
    | none => s
    | some g =>
      if x.biv.held.any (fun h => h.1 == g) then s else
      let held := x.biv.held ++ [(g, s.time)]
      let room := decide (x.biv.reserve.length + x.biv.held.length < s.rd (R.BIV_CFG c) F.BIV_CFG.RESERVE_PAGES)
      let s := s.setCtx c { x with biv := { x.biv with held := held } }
      let s := if room then s else s.bump (R.BIV_COUNT c) F.BIV_COUNT.RESERVE_STALLS 1
      s.wr (R.BIV_STATUS c) F.BIV_STATUS.HELD held.length

/-- A write of HBM bytes from any source is tried: `none` in the second place while it must wait for an urgent copy, or is
refused at the plinth. A whole tile with a carried seal keeps it (R198). -/
def State.plainWrite (s : State) (a : Nat) (d : List Byte) (poison : Bool) (whole : Option TileMeta) : State × Option State :=
  if s.pagePending a then (s.holdPage a, none) else
  (s, (match whole with
    | some m => s.acceptWhole (a / 2048) d m
    | none => s.acceptPieces poison (pieces a d)).map (fun (t : State) => t.markDirty a))

/-- A device write of HBM bytes is tried. It waits for BIRsp of the lines the host holds (R300): `none` in the second place, and
the first place has the back-invalidates sent. -/
def State.tryWrite (s : State) (a : Nat) (d : List Byte) (poison : Bool) (whole : Option TileMeta) : State × Option State :=
  let lines := s.heldLines a d.length
  if !lines.isEmpty then (s.backInvalidate lines, none) else s.plainWrite a d poison whole

/-- Serve one tile's part of an HBM read (R196, R200): a waiting write-combining entry is merged first. -/
def State.serveTile (s : State) (i : Nat) : State × Bool := (s.wcbMerge i).hbmCheck i true

/-- Read HBM bytes: the bytes and whether any tile of theirs is poisoned. `none` while a tile must wait. -/
def State.hbmRead (s : State) (a n : Nat) : Option (State × List Byte × Bool) :=
  let ts := tilesOf a n
  if ts.any s.tileBlocked then none else
  let (s, po) := ts.foldl (fun (x : State × Bool) i =>
    let (s, q) := x.1.serveTile i
    (s, x.2 || q)) (s, false)
  some (s, Memory.read s.hbm.bytes a n, po)

/-- A speculative read of one tile's bytes (R197): no effect but SPEC_DROPS; `none` in the second place when dropped. -/
def State.specHbm (s : State) (a n : Nat) : State × Option (List Byte) :=
  let i := a / 2048
  let m := s.hbm.info i
  let drop := (s.count (R.PLN_COUNT (s.siteOf i)) F.PLN_COUNT.SPEC_DROPS 1, none)
  if s.tileBlocked i then drop
  else match m.st with
  | .unwritten => (match s.wcbEntry i with
    | none => (s, some (List.replicate n 0))
    | some e => if e.poison then drop else (s, some (slice (overlay (List.replicate 2048 0) e.bytes) (a % 2048) n)))
  | .poison => drop
  | .sealed =>
    if !(s.badSectors i).isEmpty || sealOf (s.hbm.data i) != m.sl then drop
    else match s.wcbEntry i with
      | none => (s, some (Memory.read s.hbm.bytes a n))
      | some e => if e.poison then drop else (s, some (slice (overlay (s.hbm.data i) e.bytes) (a % 2048) n))

/-! ### HBM: channels, and the read queue of a hold -/

/-- A channel of a stack beyond its registers. -/
def Plinth.chan (k : Plinth) (c : Nat) : Chan := SMap.lookD k.chans c {}

/-- Replace a channel. -/
def State.setChan (s : State) (site c : Nat) (x : Chan) : State :=
  s.setPlinth site { s.plinth site with chans := SMap.putD (s.plinth site).chans c x {} }

/-- Queue a retraining of a channel at the hut core (R204). -/
def State.queueRetrain (s : State) (site c : Nat) : State :=
  let k := s.plinth site
  if k.queue.contains c then s else s.setPlinth site { k with queue := k.queue ++ [c] }

/-- Corrected sectors of a channel (R192): counted, and taken against the limits within 1 s of R204 and R209. -/
def State.corrected (s : State) (site c n : Nat) : State :=
  if n = 0 then s else
  let s := s.bump (R.PLN_CHAN_ERR site c) F.PLN_CHAN_ERR.CE n
  let x := (s.plinth site).chan c
  let ces := x.ces.filter (fun e => decide ((s.time - e.1).toNat ≤ 100000000)) ++ [(s.time, n)]
  let total := ces.foldl (fun t e => t + e.2) 0
  let s := s.setChan site c { x with ces := ces }
  let s := if s.rd (R.PLN_RETRAIN_CTRL site) F.PLN_RETRAIN_CTRL.CE_RATE ≤ total then s.queueRetrain site c else s
  if s.rd (R.PLN_RETRAIN_CTRL site) F.PLN_RETRAIN_CTRL.CE_LIMIT < total then s.requestRepair site c else s

/-- Corrected sectors on the way of a request for an address, on the channel that serves it (R192, R207). -/
def State.correctedAt (s : State) (a n : Nat) : State :=
  match s.served a with
  | none => s
  | some (site, ch) => s.corrected site ch n

/-- Perform one request of the hold shelf (Table 69 step 5). A read sees what stood before it in the shelf, and no partial write that came
after it. -/
def State.replayOne (s : State) (x : Parked) : State :=
  match x with
  | .merge t b po => s.mergeBytes t b po
  | .whole a d m => s.putTile (a / 2048) d m
  | .read who a n ce =>
    let i := a / 2048
    let (s, po) := (s.correctedAt a ce).hbmCheck i true
    let d := Memory.read s.hbm.bytes a n
    match who with
    | .port => s.emit (.plinthData a d (s.hbm.info i) po)
    | .host => s.emit (.memData a d po)
    | _ =>
      let site := s.siteOf i
      let k := s.plinth site
      s.setPlinth site { k with served := k.served ++ [{ who := who, addr := a, n := n, data := d, poison := po, m := s.hbm.info i }] }

/-- A SPEC request that waited is served, or dropped where it meets what R197 names; the core's run-ahead makes its own read. -/
def State.replaySpec (s : State) (x : SpecWait) : State :=
  match x.core with
  | some _ => s
  | none => match s.specHbm x.addr x.n with
    | (s, none) => s.emit (.specDrop x.addr)
    | (s, some d) => s.emit (.plinthData x.addr d (s.hbm.info (x.addr / 2048)) false)

/-- Replay the hold shelf of a site in arrival order, then its SPEC requests. -/
def State.replayShelf (s : State) (site : Nat) : State :=
  let k := s.plinth site
  let s := k.parked.foldl State.replayOne (s.setPlinth site { k with parked := [], specs := [] })
  (k.specs.foldl State.replaySpec s).showShelf site

/-- A read of a tile that is held takes a place in the read queue (R206). A read calls for the merge of the tile's write-combining entry
(R200), which waits in front of it. `none`: the read queue or the shelf is full, and the plinth refuses the read. -/
def State.parkRead (s : State) (who : Reader) (a n ce : Nat) : Option State :=
  let i := a / 2048
  let site := s.siteOf i
  if 512 ≤ shelfReads (s.plinth site).parked then none else
  match s.wcbEntry i with
  | none => some (s.park site (.read who a n ce))
  | some e => if s.shelfRoom i then some (((s.wcbDrop i).park site (.merge i e.bytes e.poison)).park site (.read who a n ce)) else none

/-- Whether a reader's request already waits in the read queue. -/
def Plinth.awaits (k : Plinth) (who : Reader) (a n : Nat) : Bool :=
  k.parked.any (fun x => match x with
    | .read w b m _ => w == who && b == a && m == n
    | .merge .. => false
    | .whole .. => false)

/-- An engine reads bytes of one HBM tile: data that waited for it in the read queue, the tile itself, or (`none`) the read waits: in the
read queue of a held channel, or before a STOPPED stack or a full queue that refuses it (R206, R214). The data comes with the tile's seal
and state. -/
def State.readAs (s : State) (who : Reader) (a n : Nat) : State × Option (List Byte × Bool × TileMeta) :=
  let site := s.siteOf (a / 2048)
  let k := s.plinth site
  let mine := fun (x : Served) => x.who == who && x.addr == a && x.n == n
  match k.served.find? mine with
  | some x => (s.setPlinth site { k with served := k.served.eraseP mine }, some (x.data, x.poison, x.m))
  | none => match s.hbmRead a n with
    | some (t, d, po) => (t, some (d, po, t.hbm.info (a / 2048)))
    | none =>
      if s.stopped site || !s.tileHeld (a / 2048) || k.awaits who a n then (s, none) else ((s.parkRead who a n 0).getD s, none)

end Sys2Proof.Machine
end

