-- ==== Sys2Proof/Machine/Xlate.lean ====
section
/-!
DEFINITION. Addresses of the Jenaris fabric: chip indices and routes (R215 to R219), page tables (R222 to R224), fabric windows
(R226), and paths through rope and ridge ports (R238 to R253).
-/
namespace Sys2Proof.Machine

/-- Massif coordinates of a chip: X, Y, Z, a, b, c. -/
abbrev Coords := List Nat

/-- Coordinates named by a chip index (R216). -/
def coordsOf (chip : Nat) : Coords := [bits chip 13 4, bits chip 9 4, bits chip 6 3, bits chip 4 2, bits chip 2 2, bits chip 0 2]

/-- Chip index of coordinates (R216). -/
def chipAt (c : Coords) : Nat :=
  c.getD 0 0 <<< 13 ||| c.getD 1 0 <<< 9 ||| c.getD 2 0 <<< 6 ||| c.getD 3 0 <<< 4 ||| c.getD 4 0 <<< 2 ||| c.getD 5 0

/-- This chip's index. -/
def State.ownChip (s : State) : Nat := s.rd R.JNR_CHIP F.JNR_CHIP.INDEX

/-- Massif sizes DX, DY, DZ. -/
def State.dims (s : State) : List Nat :=
  [s.rd R.JNR_MASSIF F.JNR_MASSIF.DX, s.rd R.JNR_MASSIF F.JNR_MASSIF.DY, s.rd R.JNR_MASSIF F.JNR_MASSIF.DZ]

/-- Route origin of a context (R219). -/
def State.routeOrg (s : State) (c : Nat) : List Nat :=
  let r := R.JNR_CTX_ROUTE c
  [s.rd r F.JNR_CTX_ROUTE.X0, s.rd r F.JNR_CTX_ROUTE.Y0, s.rd r F.JNR_CTX_ROUTE.Z0,
   s.rd r F.JNR_CTX_ROUTE.A0, s.rd r F.JNR_CTX_ROUTE.B0, s.rd r F.JNR_CTX_ROUTE.C0]

/-- Route extents of a context (R219). -/
def State.routeExt (s : State) (c : Nat) : List Nat :=
  let r := R.JNR_CTX_ROUTE c
  [s.rd r F.JNR_CTX_ROUTE.NX, s.rd r F.JNR_CTX_ROUTE.NY, s.rd r F.JNR_CTX_ROUTE.NZ,
   s.rd r F.JNR_CTX_ROUTE.NA, s.rd r F.JNR_CTX_ROUTE.NB, s.rd r F.JNR_CTX_ROUTE.NC]

/-- Job key of a context (R220). -/
def State.key (s : State) (c : Nat) : Nat := s.rd (R.JNR_CTX_ROUTE c) F.JNR_CTX_ROUTE.KEY

/-- Whether a context's route is valid (R219). -/
def State.routeValid (s : State) (c : Nat) : Bool :=
  let o := s.routeOrg c
  let e := s.routeExt c
  let d := s.dims
  let ropes := e.getD 0 0 * e.getD 1 0 * e.getD 2 0
  let whole := (upto 3).all (fun i => o.getD (3 + i) 0 == 0 && e.getD (3 + i) 0 == 4)
  (upto 3).all (fun i => decide (1 ≤ e.getD i 0) && decide (e.getD i 0 ≤ d.getD i 0)) &&
  (upto 3).all (fun i => decide (1 ≤ e.getD (3 + i) 0) && decide (o.getD (3 + i) 0 + e.getD (3 + i) 0 ≤ 4)) &&
  (decide (ropes ≤ 1) || whole)

/-- Massif coordinates of a route-relative coordinate, if it is valid in the route (R219). -/
def State.routeCoords (s : State) (c : Nat) (rel : List Nat) : Option Coords :=
  let o := s.routeOrg c
  let e := s.routeExt c
  let d := s.dims
  if s.routeValid c && (upto 6).all (fun i => decide (rel.getD i 0 < e.getD i 0)) then
    some ((upto 6).map (fun i => if i < 3 then (o.getD i 0 + rel.getD i 0) % d.getD i 1 else o.getD i 0 + rel.getD i 0))
  else none

/-- Route-relative coordinate of a chip, if the chip lies in the route. -/
def State.relOf (s : State) (c chip : Nat) : Option (List Nat) :=
  let o := s.routeOrg c
  let e := s.routeExt c
  let d := s.dims
  let x := coordsOf chip
  let rel := (upto 6).map (fun i =>
    if i < 3 then (x.getD i 0 + d.getD i 1 - o.getD i 0 % d.getD i 1) % d.getD i 1 else x.getD i 0 - o.getD i 0)
  let ok := (upto 6).all (fun i =>
    decide (rel.getD i 0 < e.getD i 0) && (if i < 3 then decide (x.getD i 0 < d.getD i 1) else decide (o.getD i 0 ≤ x.getD i 0)))
  if s.routeValid c && ok then some rel else none

/-- Regions of the local address space (Table 72). -/
inductive Region where
  | hbm
  | spd (n a : Nat)      -- logical core and context address
  | cell (n i : Nat)     -- logical core and cell
  | host (o : Nat)
  | unmapped
  deriving DecidableEq, Repr

/-- The region of a local address (R217). -/
def State.region (s : State) (a : Nat) : Region :=
  if a < s.hbmEnd then .hbm
  else if 0xC000000000 ≤ a ∧ a < 0xC000000000 + 96 * 0x2000000 then
    .spd ((a - 0xC000000000) / 0x2000000) ((a - 0xC000000000) % 0x2000000)
  else if 0xD000000000 ≤ a ∧ a < 0xD000000000 + 96 * 0x2000 then
    .cell ((a - 0xD000000000) / 0x2000) ((a - 0xD000000000) % 0x2000 / 8)
  else if 0xE000000000 ≤ a ∧ a < 0xF000000000 then .host (a - 0xE000000000)
  else .unmapped

/-- Host physical address of a host-window offset (R301). -/
def State.hostAddr (s : State) (o : Nat) : Nat := s.rd R.CXL_HWIN F.CXL_HWIN.BASE * 2 ^ 36 + o

/-- Where a FAB = 0 leaf's local address lies (R221): scratchpad and belay cells of this chip are reached as a request to it. So
is an unmapped address, which R224 does not fault: the request is denied. -/
def State.localTarget (s : State) (a : Nat) : Target :=
  match s.region a with
  | .hbm => .hbm a
  | .host o => .host (s.hostAddr o)
  | _ => .remote (BitVec.ofNat 17 s.ownChip) a

/-- Outcome of a translation. -/
inductive XRes where
  | ok (t : Target) (specOk : Bool)   -- `specOk`: a speculative read of it may be issued (R34)
  | fault
  | poisoned                          -- the walk met a poisoned table (R224)
  | blocked                           -- the walk waits for a held channel or a STOPPED stack (R202)
  deriving DecidableEq, Repr

/-- Outcome of a walk's read of one entry. -/
inductive WalkRes where
  | entry (v : Nat)
  | poisoned
  | blocked
  deriving DecidableEq, Repr

/-- Read one page-table entry in class LC, checked under R196. A table outside HBM reads
as an entry with V = 0. -/
def State.walkRead (s : State) (c a : Nat) : State × WalkRes :=
  if s.hbmEnd ≤ a then (s, .entry 0)
  else match s.readAs (.walk c) a 8 with
    | (s, none) => (s, .blocked)
    | (s, some (d, po, _)) => (s, if po then .poisoned else .entry (leNat d))

/-- Bits of an entry that must be zero at a level (Table 73). -/
def pteZero (level : Nat) (leaf : Bool) (e : Nat) : Bool :=
  bits e 7 5 == 0 && bits e 57 7 == 0 &&
  (if leaf then
    (if level = 1 then bits e 12 18 == 0 else bits e 12 9 == 0) && (bits e 6 1 == 1 || bits e 40 17 == 0)
  else bits e 2 4 == 0 && bits e 40 17 == 0)

/-- Use a leaf for an access (R223, R224). `size` is the page size. -/
def State.useLeaf (s : State) (c : Nat) (e va size : Nat) (acc : Access) : XRes :=
  let a := bits e 12 28 * 0x1000 + va % size
  let fab := bits e 6 1 == 1
  let r := bits e 2 1 == 1
  let w := bits e 3 1 == 1
  let x := bits e 4 1 == 1
  let spec := bits e 5 1 == 1
  let ok := match acc with
    | .read => r
    | .write => w
    | .fetch => x && !fab && s.region a == .hbm
    | .spec => r && spec && !fab
  if !ok then .fault
  else if fab then
    match s.relOf c (bits e 40 17) with
    | none => .fault
    | some _ => .ok (.remote (BitVec.ofNat 17 (bits e 40 17)) a) false
  else .ok (s.localTarget a) (spec && s.region a == .hbm)

/-- Walk the page tables of a context from a table at a level on (R222). `fuel` is the levels left. -/
def State.walkFrom (s : State) (c va : Nat) (acc : Access) : Nat → Nat → State × XRes
  | 0, _ => (s, .fault)
  | left + 1, table =>
    let level := 2 - left
    let idx := bits va (39 - 9 * level) 9
    match s.walkRead c (table + 8 * idx) with
    | (s, .poisoned) => (s, .poisoned)
    | (s, .blocked) => (s, .blocked)
    | (s, .entry e) =>
      let leaf := bits e 1 1 == 1
      if bits e 0 1 = 0 then (s, .fault)
      else if (leaf && level == 0) || (!leaf && level == 2) then (s, .fault)
      else if !pteZero level leaf e then (s, .fault)
      else if leaf then (s, s.useLeaf c e va (if level = 1 then 0x40000000 else 0x200000) acc)
      else s.walkFrom c va acc left (bits e 12 28 * 0x1000)

/-- A LEN or STRIDE field of a window; 0 is read as 1 (R226). -/
def orOne (n : Nat) : Nat := if n = 0 then 1 else n

/-- Starts, lengths and strides of a window, axes X, Y, Z, a, b, c. -/
def State.winBox (s : State) (c w : Nat) : List Nat × List Nat × List Nat :=
  let r := R.JNR_WIN_ROPE c w
  let t := R.JNR_WIN_SLOT c w
  ([s.rd r F.JNR_WIN_ROPE.START_X, s.rd r F.JNR_WIN_ROPE.START_Y, s.rd r F.JNR_WIN_ROPE.START_Z,
    s.rd t F.JNR_WIN_SLOT.START_A, s.rd t F.JNR_WIN_SLOT.START_B, s.rd t F.JNR_WIN_SLOT.START_C],
   [s.rd r F.JNR_WIN_ROPE.LEN_X, s.rd r F.JNR_WIN_ROPE.LEN_Y, s.rd r F.JNR_WIN_ROPE.LEN_Z,
    s.rd t F.JNR_WIN_SLOT.LEN_A, s.rd t F.JNR_WIN_SLOT.LEN_B, s.rd t F.JNR_WIN_SLOT.LEN_C].map orOne,
   [s.rd r F.JNR_WIN_ROPE.STRIDE_X, s.rd r F.JNR_WIN_ROPE.STRIDE_Y, s.rd r F.JNR_WIN_ROPE.STRIDE_Z,
    s.rd t F.JNR_WIN_SLOT.STRIDE_A, s.rd t F.JNR_WIN_SLOT.STRIDE_B, s.rd t F.JNR_WIN_SLOT.STRIDE_C].map orOne)

/-- Whether window `w` of a context applies to a virtual address (R226). -/
def State.winApplies (s : State) (c w va : Nat) : Bool :=
  let b := R.JNR_WIN_BASE c w
  let ls := s.rd b F.JNR_WIN_BASE.LOG_SPAN
  let base := s.rd b F.JNR_WIN_BASE.VA_BASE <<< 30
  let (_, len, _) := s.winBox c w
  s.flag b F.JNR_WIN_BASE.EN && decide (21 ≤ ls) && decide (ls ≤ 36) && decide (base ≤ va) &&
  decide (va < base + len.foldl (· * ·) 1 * 2 ^ ls)

/-- Route-relative coordinate of a member: axis c varies fastest (R226). Lists are taken from the last axis on. -/
def memberRel : Nat → List Nat → List Nat → List Nat → List Nat
  | m, st :: sts, l :: ls, k :: ks => (st + m % l * k) :: memberRel (m / l) sts ls ks
  | _, _, _, _ => []

/-- Translate a virtual address through window `w` (R226). -/
def State.winXlate (s : State) (c w va : Nat) (acc : Access) : XRes :=
  let b := R.JNR_WIN_BASE c w
  let ls := s.rd b F.JNR_WIN_BASE.LOG_SPAN
  let o := va - s.rd b F.JNR_WIN_BASE.VA_BASE <<< 30
  let (st, len, str) := s.winBox c w
  let rel := (memberRel (o / 2 ^ ls) st.reverse len.reverse str.reverse).reverse
  let ok := match acc with
    | .read => s.flag b F.JNR_WIN_BASE.R
    | .write => s.flag b F.JNR_WIN_BASE.W
    | .fetch => false
    | .spec => false
  match s.routeCoords c rel with
  | none => .fault
  | some x =>
    if ok then .ok (.remote (BitVec.ofNat 17 (chipAt x))
      ((s.rd (R.JNR_WIN_SLOT c w) F.JNR_WIN_SLOT.LOCAL_BASE * 2 ^ 21 + o % 2 ^ ls) % 2 ^ 40)) false
    else .fault

/-- Translate a virtual address of a context (R222). A jig's pattern has none but those of its code. -/
def State.xlate (s : State) (c va : Nat) (acc : Access) : State × XRes :=
  if 2 ^ 48 ≤ va ∨ c = jigCtx then (s, .fault)
  else match (upto 8).find? (fun w => s.winApplies c w va) with
    | some w => (s, s.winXlate c w va acc)
    | none =>
      let root := s.rd (R.JNR_CTX_PT c) F.JNR_CTX_PT.ROOT * 0x1000
      if root = 0 then (s, .fault) else s.walkFrom c va acc 3 root

/-! ### Paths -/

/-- Whether a port carries messages: UP or DEGRADED. -/
def State.portUp (s : State) (w : Nat) : Bool :=
  let st := s.rd (R.LNK_STATUS w) F.LNK_STATUS.STATE
  st == 3 || st == 4

/-- Usable rope ports, ascending. -/
def State.upRopes (s : State) : List Nat := (upto 24).filter s.portUp

/-- Primary ridge window of a direction: 0 +X, 1 −X, 2 +Y, 3 −Y, 4 +Z, 5 −Z (Table 79). -/
def primaryOf (dir : Nat) : Nat := if dir % 2 = 0 then 24 + dir / 2 else 28 + dir / 2

/-- Usable ridge windows of a direction, its spare included, ascending (R240). -/
def State.ridgesOf (s : State) (dir : Nat) : List Nat :=
  (natsFrom 24 8).filter (fun w => s.portUp w && (w == primaryOf dir ||
    ((w == 27 || w == 31) && s.flag (R.LNK_CTRL w) F.LNK_CTRL.SPARE_EN && s.rd (R.LNK_CTRL w) F.LNK_CTRL.SPARE_DIR == dir)))

/-- The port of a list that carries a message (R249). -/
def pickPort (addr src dst : Nat) (ups : List Nat) : Option Nat :=
  if ups.isEmpty then none else ups[(addr / 2048 ^^^ dst ^^^ src) % ups.length]?

/-- Signed hops along one axis (R251). -/
def hopsOn (xs xd len dim : Nat) : Int :=
  if len < dim then (xd : Int) - xs
  else
    let h := (xd + dim - xs % dim) % dim
    if h ≤ dim / 2 then h else (h : Int) - dim

/-- Direction of a hop on an axis. -/
def dirOf (axis : Nat) (h : Int) : Nat := 2 * axis + (if h < 0 then 1 else 0)

/-- The first axis with hops left. -/
def firstAxis (h : List Int) : Option Nat := (upto 3).find? (fun i => h.getD i 0 != 0)

/-- The route word of signed hops (R251). -/
def routeWordOf (h : List Int) (replay : Bool) : RouteWord :=
  { hopsX := BitVec.ofNat 4 (h.getD 0 0).natAbs, negX := decide (h.getD 0 0 < 0),
    hopsY := BitVec.ofNat 4 (h.getD 1 0).natAbs, negY := decide (h.getD 1 0 < 0),
    hopsZ := BitVec.ofNat 3 (h.getD 2 0).natAbs, negZ := decide (h.getD 2 0 < 0), replay := replay }

/-- The way of a message out of this chip. -/
inductive Path where
  | own                                     -- to this chip itself (R218)
  | port (w : Nat) (rw : Option RouteWord)
  | none                                    -- UNROUTABLE
  deriving DecidableEq, Repr

/-- The path of a message to chip `dst` by the route of context `c` or, where none is matched, by the shortest way in the massif (R251,
R253). Planes and parallel ports are picked from `addr`, `psrc` and `pdst`: the local address and the chips of the request, also for its
response (R249). -/
def State.pathBy (s : State) (c : Option Nat) (addr psrc pdst dst : Nat) (replay : Bool) : Path :=
  if dst = s.ownChip then .own
  else if dst / 64 = s.ownChip / 64 then
    match pickPort addr psrc pdst s.upRopes with
    | some w => .port w none
    | none => .none
  else
    let d := s.dims
    let (xs, xd, len) := match c with
      | some c => match s.relOf c s.ownChip, s.relOf c dst with
        | some a, some b => (a, b, s.routeExt c)
        | _, _ => (coordsOf s.ownChip, coordsOf dst, d)
      | Option.none => (coordsOf s.ownChip, coordsOf dst, d)
    let h := (upto 3).map (fun i => hopsOn (xs.getD i 0) (xd.getD i 0) (len.getD i 0) (d.getD i 1))
    match firstAxis h with
    | Option.none => .none
    | some ax =>
      let hx := h.getD ax 0
      match pickPort addr psrc pdst (s.ridgesOf (dirOf ax hx)) with
      | some w => .port w (some (routeWordOf h replay))
      | Option.none =>
        if len.getD ax 0 = d.getD ax 1 then
          let o : Int := if hx < 0 then hx + d.getD ax 1 else hx - d.getD ax 1
          match pickPort addr psrc pdst (s.ridgesOf (dirOf ax o)) with
          | some w => .port w (some (routeWordOf (h.set ax o) replay))
          | Option.none => .none
        else .none

/-- The path of a message about local address `addr` from chip `src` to chip `dst` (R249, R251, R253). -/
def State.path (s : State) (c : Option Nat) (addr src dst : Nat) (replay : Bool) : Path := s.pathBy c addr src dst dst replay

end Sys2Proof.Machine
end

