-- ==== Sys2Proof/Machine/Ops.lean ====
section
/-!
DEFINITION. The shared operations over the whole state: scalar registers, belay increments (R48), fabric requests and responses
on both sides (R218 to R237), posted stores (R234), DMA pieces (R44 to R47, R424), and witness filing (R260).
-/
namespace Sys2Proof.Machine

/-! ### The running context -/

/-- The context that core `p` runs and that may issue: RUNNING, resident in the active slot, not fenced (R352), its
clock running (R386). In jig mode it is the jig's pattern (R330). -/
def State.running (s : State) (p : Nat) : Option Nat :=
  if s.jigging p then (if s.clocked p then some jigCtx else none)
  else if s.coreState p ≠ csRunning ∨ !s.clocked p then none else
  match s.resident p (s.activeSlot p) with
  | none => none
  | some c => if (s.ctx c).fenced then none else some c

/-- Scalar register of the running context; s0 reads as zero (R32). -/
def State.sreg (s : State) (p : Nat) (r : SReg) : Word := if r = 0 then 0 else SMap.lookD (s.core p).sregs r.val 0

/-- Write a scalar register; a write to s0 is discarded (R32). -/
def State.setSreg (s : State) (p : Nat) (r : SReg) (v : Word) : State :=
  if r = 0 then s else s.setCore p { s.core p with sregs := SMap.putD (s.core p).sregs r.val v 0 }

/-- Program counter of the running context. -/
def State.pc (s : State) (p : Nat) : Word := s.word (R.SEQ_PC p)

/-- Set the program counter. -/
def State.setPc (s : State) (p : Nat) (v : Word) : State := s.setWord (R.SEQ_PC p) v

/-! ### Witness reports -/

/-- File a witness report (R260, R262): added to this chip's open window of the key, or opening one. -/
def State.fileWitness (s : State) (suspect unit fclass : Nat) : State :=
  let key : WitKey := { suspect := BitVec.ofNat 17 suspect, unit := BitVec.ofNat 8 unit, fclass := BitVec.ofNat 4 fclass }
  if s.wits.any (fun w => w.own && w.key == key) then
    { s with wits := s.wits.map (fun w => if w.own && w.key == key then { w with count := min (w.count + 1) 0xFFFFFF } else w) }
  else
    let w : WitWin := { key := key, src := BitVec.ofNat 17 s.ownChip, firstTs := s.time, count := 1, opened := s.time, own := true }
    { s with wits := s.wits ++ [w] }.count R.LNK_WITNESS F.LNK_WITNESS.FILED 1

/-! ### Belays -/

/-- Note an increment of a configured trigger cell (R371). -/
def State.noteTrigger (s : State) (c p cell : Nat) (v : Word) : State :=
  let x := s.ctx c
  let cfg := R.BIV_CFG c
  if x.biv.configured && s.logicalOf p == some (s.rd cfg F.BIV_CFG.TRIG_CORE) && s.rd cfg F.BIV_CFG.TRIG_CELL == cell then
    s.setCtx c { x with biv := { x.biv with trig := x.biv.trig ++ [v] } }
  else s

/-- The collective timeout of a die's splice engine in ticks (R293). -/
def State.collTicks (s : State) (d : Nat) : Word :=
  let ms := s.rd (R.SPL_CTRL d) F.SPL_CTRL.COLL_TIMEOUT_MS
  BitVec.ofNat 64 ((if ms = 0 then 2000 else ms) * 100000)

/-- Set anew, to the timeout each read when it began, the collective deadlines of the waits on a cell that an increment to `v` leaves unsatisfied (R293): a BLY.WAIT with
COLL = 1, and the start wait of an SPL descriptor at the head of its group's queue. -/
def State.refreshWaits (s : State) (c p i cell : Nat) (v : Word) : State :=
  let k := s.core p
  let s := match k.wait with
    | some w =>
      if w.coll && w.cell == cell && s.activeSlot p == i && decide (v.toNat < w.target.toNat) then
        s.setCore p { k with wait := some { w with deadline := s.time + w.limit } }
      else s
    | none => s
  let x := s.ctx c
  let late := fun (g : Group) => match g.queue, g.cur with
    | op :: _, none =>
      let w := match op with | .run _ _ _ _ _ w _ => w | .batch _ _ w _ => w | .counts _ _ _ w _ => w
      (match w with
      | some (cell', t) => g.phys.val == p && cell' == cell && decide (v.toNat < t.toNat)
      | none => false)
    | _, _ => false
  if x.groups.any (fun g => late g.2) then
    s.setCtx c { x with groups := x.groups.map (fun g => (g.1, if late g.2 then { g.2 with waitDeadline := s.time + g.2.waitLimit } else g.2)) }
  else s

/-- An increment that satisfies the wait of the context a jig run has displaced ends the run (R332). -/
def State.endRun (s : State) (p i cell : Nat) (v : Word) : State :=
  match (s.core p).wait with
  | some w => if w.cell == cell && s.activeSlot p == i && decide (w.target.toNat ≤ v.toNat) then s.abandonRun p else s
  | none => s

/-- Add to a cell of context `c` in slot `i` of core `p` (R48): a carry past 2^64 − 1 leaves 2^64 − 1 and raises
BELAY_OVERFLOW. -/
def State.blyAdd (s : State) (c p i cell amount : Nat) : State :=
  let a := R.BLY_CELL p (s.cellAt p i cell)
  let v := (s.word a).toNat + amount
  let w : Word := BitVec.ofNat 64 (min v (2 ^ 64 - 1))
  let s := ((s.setWord a w).noteTrigger c p cell w).refreshWaits c p i cell w
  let s := s.endRun p i cell w
  if 2 ^ 64 ≤ v then s.raise c cBelayOverflow (uCore p) (8 * s.cellAt p i cell) 0 else s

/-- Outcome of a belay increment from outside the core. -/
inductive IncRes where
  | done (s : State)
  | fenced
  | range

/-- Increment a cell of context `c` on core `p` from an engine, the fabric or the host (R51, R221). -/
def State.blyInc (s : State) (c p cell amount : Nat) : IncRes :=
  match s.slotOf p c with
  | none => .range
  | some i =>
    if (s.ctx c).fenced then .fenced
    else if s.cellCount p i ≤ cell then .range
    else .done (s.blyAdd c p i cell amount)

/-- A completion increment of a descriptor (R45): refused while the context is fenced (R51). -/
def State.completeInc (s : State) (c p : Nat) (inc : Option (Nat × Nat)) : State :=
  match inc with
  | none => s
  | some (cell, amount) => match s.blyInc c p cell amount with
    | .done s => s
    | _ => s

/-! ### Requests of this chip -/

/-- Code of an engine in a header's STREAM; the manual gives no bit places (log entry 22). -/
def engCode : Engine → Nat
  | .seq => 0
  | .dma n => 1 + n.val
  | .splice => 5

/-- STREAM of an engine of core `p`. -/
def State.streamOf (s : State) (e : Engine) (p : Nat) : Nat := engCode e * 128 + (s.logicalOf p).getD 127

/-- Timeout of a request in ticks (R232). -/
def State.reqTicks (s : State) : Nat :=
  let ms := s.rd R.JNR_CTRL F.JNR_CTRL.REQ_TIMEOUT_MS
  (if ms = 0 then 500 else ms) * 100000

/-- Bytes of an address before which a read's whole 64 B units begin: 0 for any other request. -/
def OutReq.skew (q : OutReq) : Nat := if q.cls = 1 then q.addr % 64 else 0

/-- The header of an outstanding request. ADDR and LEN name whole 64 B units (Table 74). DESIGN CHOICE: a write of a part of a unit names
its first byte (log entry 91). -/
def State.headerOf (s : State) (q : OutReq) : FabHdr :=
  { whole := q.whole.isSome, dst := q.chip, src := BitVec.ofNat 17 s.ownChip, key := BitVec.ofNat 16 (s.key q.ctx),
    addr := BitVec.ofNat 40 (q.addr - q.skew), len := BitVec.ofNat 6 (ceilDiv (q.skew + q.len) 64 - 1), tag := q.tag,
    sealAmt := (match q.whole with | some m => m.sl | none => if q.cls = 3 then q.amount else 0),
    state := (match q.whole with | some m => (if m.st = .poison then 2 else 1) | none => 0),
    poison := q.poison, status := 0, stream := BitVec.ofNat 16 (if q.biv then 6 * 128 + 127 else s.streamOf q.eng q.core) }

/-- Put a request on its way (R218, R249 to R253): the port it leaves through, none for this chip itself. With no path it is answered
UNROUTABLE at the source. -/
def State.transmit (s : State) (q : OutReq) (replay : Bool) : State × Option Nat :=
  let h := s.headerOf q
  let s := if q.poison && q.cls == 2 then s.bump R.JNR_ERR F.JNR_ERR.POISON_OUT 1 else s
  match s.path (some q.ctx) q.addr s.ownChip q.chip.toNat replay with
  | .own => ({ s with retry := s.retry ++ [(q.cls, h, q.data, replay)] }, none)
  | .port w rw => (s.emit (.fab q.cls (some w) rw replay h q.data), some w)
  | .none =>
    let s := s.fileWitness q.chip.toNat 0 4
    ({ s with retry := s.retry ++ [(0xB, { h with src := q.chip, dst := h.src, status := 7 }, [], false)] }, none)

/-- Whether an outstanding request waits to be replayed: the port it left through carries messages no more (R254). -/
def State.stranded (s : State) (q : OutReq) : Bool :=
  match q.port with
  | some w => !s.portUp w
  | none => false

/-- Resend an outstanding request on a new path with REPLAY = 1 (R254). It keeps its place in the issue order. -/
def State.resend (s : State) (q : OutReq) : State :=
  let (s, w) := s.transmit q true
  { s with out := s.out.map (fun y => if y.tag == q.tag then { y with port := w, replayed := true } else y) }

/-- Whether a request may still be replayed: a BLY_INC only within 5 ms of its first send (R255). -/
def State.mayReplay (s : State) (q : OutReq) : Bool := q.cls != 3 || decide ((s.time - q.first).toNat ≤ 500000)

/-- Whether two requests are of one STREAM for one tile (R233). -/
def sameStream (q r : OutReq) : Bool :=
  q.core == r.core && q.eng == r.eng && q.biv == r.biv && q.chip == r.chip && q.addr / 2048 == r.addr / 2048

/-- Issue a fabric request: it takes the next tag and its deadline. Replays of its STREAM for its tile go first (R250). -/
def State.sendReq (s : State) (q : OutReq) : State :=
  let s := (s.out.filter (fun y => s.stranded y && s.mayReplay y && sameStream y q)).foldl State.resend s
  let q := { q with tag := s.nextTag, first := s.time, deadline := s.time + BitVec.ofNat 64 s.reqTicks }
  let (s, w) := { s with nextTag := s.nextTag + 1 }.transmit q false
  { s with out := s.out ++ [{ q with port := w }] }

/-- Whether a core's fabric interface has a free entry (R228). -/
def State.fabricFree (s : State) (p : Nat) : Bool := decide ((s.out.filter (fun q => q.core == p && q.cls ≤ 3 && !q.biv)).length < 256)

/-- The CXL.cache requests of a host-window read: RdCurr for each 64 B line (R301). -/
def lineReads (hpa n : Nat) : List Out := (natsFrom (hpa / 64) ((hpa + n - 1) / 64 - hpa / 64 + 1)).map (fun l => .cxlReq .rdCurr (64 * l) [])

/-- The CXL.cache requests of a host-window write: ItoMWr for a whole 64 B line, WrCur for a part of one (R301). `fuel` bounds the lines. -/
def lineWrites : Nat → Nat → List Byte → List Out
  | 0, _, _ => []
  | _, _, [] => []
  | f + 1, hpa, d =>
    let n := min (64 - hpa % 64) d.length
    .cxlReq (if n = 64 then .itoMWr else .wrCur) hpa (d.take n) :: lineWrites f (hpa + n) (d.drop n)

/-- Issue a host-window access (R301); it carries no deadline of its own. -/
def State.hostReq (s : State) (q : OutReq) : State :=
  let q := { q with tag := s.nextTag, first := s.time, deadline := s.time }
  let s := { s with nextTag := s.nextTag + 1, out := s.out ++ [q] }
  (if q.cls = 4 then lineReads q.addr q.len else lineWrites (q.data.length / 64 + 2) q.addr q.data).foldl State.emit s

/-! ### Posted stores of the sequencer -/

/-- A sequencer store to a translated target (R151, R234): scratchpad and HBM at once where they accept, else posted. -/
def State.store (s : State) (p c : Nat) (t : Target) (d : List Byte) : State :=
  let post := fun (s : State) (tag : Option (BitVec 16)) =>
    s.setCore p { s.core p with posted := (s.core p).posted ++ [{ tgt := t, data := d, tag := tag }] }
  match t with
  | .spd a => s.spdWrite p (some c) a d false
  | .hbm a =>
    -- an earlier store that still waits keeps its place in front (R233)
    if (s.core p).posted.any (fun x => x.tag.isNone) then post s none else
    match s.tryWrite a d false none with
    | (_, some s) => s
    | (s, none) => post s none
  | .remote chip a =>
    let tag := s.nextTag
    post (s.sendReq { tag := 0, cls := 2, chip := chip, addr := a, len := d.length, core := p, eng := .seq, ctx := c,
                      deadline := 0, first := 0, data := d, pc := s.pc p }) (some tag)
  | .host a =>
    let tag := s.nextTag
    post (s.hostReq { tag := 0, cls := 5, addr := a, len := d.length, core := p, eng := .seq, ctx := c,
                      deadline := 0, first := 0, data := d, pc := s.pc p }) (some tag)

/-- Try the HBM stores that wait at core `p`, in order. -/
def State.drainPosted (s : State) (p : Nat) : State :=
  let l := (s.core p).posted
  let (s, left) := l.foldl (fun (x : State × List Posted) e =>
    match e.tag, e.tgt with
    | none, .hbm a =>
      if x.2.any (fun y => y.tag.isNone) then (x.1, x.2 ++ [e]) else
      match x.1.tryWrite a e.data false none with
      | (_, some s) => (s, x.2)
      | (s, none) => (s, x.2 ++ [e])
    | _, _ => (x.1, x.2 ++ [e])) (s, [])
  s.setCore p { s.core p with posted := left }

/-! ### DMA pieces -/

/-- Note that poisoned data was written (R424). -/
def State.dmaPoison (s : State) (p e : Nat) (poison : Bool) : State :=
  if poison then s.onDma p e (fun a => { a with wrotePoison := true }) else s

/-- A DMA request faults (R424): no later request is issued. -/
def State.dmaStop (s : State) (p e status : Nat) : State := (s.dmaError p e status).onDma p e (fun a => { a with todo := [] })

/-- Where a DMA address lies: a context address of the slot's scratchpad, or a virtual address. -/
inductive DmaAddr where
  | at (t : Target)
  | bounds
  | fault
  | poisoned
  | blocked

/-- Resolve a DMA address (R43, R224). -/
def State.dmaAddr (s : State) (p c : Nat) (sp : Space) (a n : Nat) (acc : Access) : State × DmaAddr :=
  match sp with
  | .spd => match s.slotOf p c with
    | none => (s, .bounds)
    | some i => match s.spdAddr p i a n with
      | none => (s, .bounds)
      | some x => (s, .at (.spd x))
  | .mem => match s.xlate c a acc with
    | (s, .ok t _) => (s, .at t)
    | (s, .fault) => (s, .fault)
    | (s, .poisoned) => (s, .poisoned)
    | (s, .blocked) => (s, .blocked)

/-- A DMA access outside the allocation: not performed, status SPD_BOUNDS, context error SPD_BOUNDS (R43, R424). -/
def State.dmaBounds (s : State) (p e c a : Nat) : State := (s.dmaStop p e 2).raise c cSpdBounds (uDma p e) a 0

/-- A DMA walk met a poisoned table: the walker consumes the poison (R224, R320). -/
def State.dmaWalkPoison (s : State) (p e c a : Nat) : State := (s.dmaStop p e 3).raise c cPoisonConsumed (uCore p) a 0

/-- Write data a DMA descriptor has read to its destination (R41, R46, R228). Answers false while the write must wait. -/
def State.dmaStore (s : State) (p e c : Nat) (dsp : Space) (dst : Nat) (d : List Byte) (poison : Bool)
    (whole : Option TileMeta) : State × Bool :=
  match s.dmaAddr p c dsp dst d.length .write with
  | (s, .bounds) => (s.dmaBounds p e c dst, true)
  | (s, .fault) => (s.dmaStop p e 3, true)
  | (s, .poisoned) => (s.dmaWalkPoison p e c dst, true)
  | (s, .blocked) => (s, false)
  | (s, .at (.spd a)) =>
    let s := match whole with
      | some m => s.spdPutTile p (a / 2048) d m
      | none => s.spdWrite p (some c) a d poison
    (s.dmaPoison p e poison, true)
  | (s, .at (.hbm a)) => match s.tryWrite a d poison whole with
    | (_, some s) => (s.dmaPoison p e poison, true)
    | (s, none) => (s, false)
  | (s, .at (.remote chip a)) =>
    if (s.ctx c).fenced then (s, true)   -- not yet sent: dropped (Table 78)
    else if !s.fabricFree p then (s, false) else
    let s := s.sendReq { tag := 0, cls := 2, chip := chip, addr := a, len := d.length, core := p,
                         eng := .dma (Fin.ofNat 4 e), ctx := c, deadline := 0, first := 0, data := d, poison := poison,
                         whole := whole }
    (s.dmaPoison p e poison, true)
  | (s, .at (.host a)) =>
    if (s.ctx c).fenced then (s, true) else
    let s := s.hostReq { tag := 0, cls := 5, addr := a, len := d.length, core := p,
                         eng := .dma (Fin.ofNat 4 e), ctx := c, deadline := 0, first := 0, data := d, poison := poison }
    (s.dmaPoison p e poison, true)

/-- The seal and state a whole, tile-aligned tile carries along (R46): an UNWRITTEN tile travels as sealed zeros; a tile found
poisoned travels as POISON. -/
def carried (m : TileMeta) (d : List Byte) (poison : Bool) : TileMeta :=
  if m.st = .unwritten then sealedMeta d else if poison then { m with st := .poison } else m

/-- Whether a piece is a whole tile at both ends. -/
def DmaPiece.isWhole (x : DmaPiece) : Bool := x.n == 2048 && x.src % 2048 == 0 && x.dst % 2048 == 0

/-- Do the next thing of a DMA descriptor: read a piece and write it, or write bytes already read. Answers false while it must
wait; the thing then stays first. -/
def State.dmaNext (s : State) (p e c : Nat) (t : DmaTodo) : State × Bool :=
  let pop := fun (s : State) => s.onDma p e (fun a => { a with todo := a.todo.drop 1 })
  let keep := fun (s : State) (x : DmaTodo) => s.onDma p e (fun a => { a with todo := x :: a.todo.drop 1 })
  let put := fun (s : State) (x : DmaPiece) (d : List Byte) (poison : Bool) (m : Option TileMeta) =>
    match s.dmaStore p e c x.dsp x.dst d poison m with
    | (s, true) => (pop s, true)
    | (s, false) => (keep s (.store x.dsp x.dst d poison m), false)
  match t with
  | .store dsp dst d po m => match s.dmaStore p e c dsp dst d po m with
    | (s, true) => (pop s, true)
    | (s, false) => (s, false)
  | .piece x => match s.dmaAddr p c x.ssp x.src x.n .read with
    | (s, .bounds) => (s.dmaBounds p e c x.src, true)
    | (s, .fault) => (s.dmaStop p e 3, true)
    | (s, .poisoned) => (s.dmaWalkPoison p e c x.src, true)
    | (s, .blocked) => (s, false)
    | (s, .at (.spd a)) =>
      let m := (s.core p).spd.info (a / 2048)
      let (s, d, po) := s.spdRead p (some c) a x.n
      put s x d po (if x.isWhole then some (carried m d po) else none)
    | (s, .at (.hbm a)) =>
      match s.readAs (.eng (.dma (Fin.ofNat 4 e)) p c) a x.n with
      | (s, none) => (s, false)
      | (s, some (d, po, m)) => put s x d po (if x.isWhole then some (carried m d po) else none)
    | (s, .at (.remote chip a)) =>
      if !s.fabricFree p then (s, false) else
      (pop (s.sendReq { tag := 0, cls := 1, chip := chip, addr := a, len := x.n, core := p,
                        eng := .dma (Fin.ofNat 4 e), ctx := c, deadline := 0, first := 0, piece := some x,
                        whole := if x.isWhole then some {} else none }), true)
    | (s, .at (.host a)) =>
      (pop (s.hostReq { tag := 0, cls := 4, addr := a, len := x.n, core := p,
                        eng := .dma (Fin.ofNat 4 e), ctx := c, deadline := 0, first := 0, piece := some x }), true)

/-- Do what a DMA descriptor has to do, in order, until it must wait. `fuel` bounds the things done. -/
def State.dmaPump (s : State) (p e c : Nat) : Nat → State
  | 0 => s
  | f + 1 => match (s.dmaEng p e).active with
    | none => s
    | some (a, _) => match a.todo with
      | [] => s
      | t :: _ => match s.dmaNext p e c t with
        | (s, true) => (s.stamp (uDma p e)).dmaPump p e c f
        | (s, false) => s

/-- Run a DMA engine's descriptor as far as it goes. -/
def State.dmaRun (s : State) (p e : Nat) : State :=
  match (s.dmaEng p e).active with
  | none => s
  | some (a, c) => s.dmaPump p e c.val (a.todo.length + 1)

/-- Accesses of a DMA engine that have no response yet. -/
def State.dmaWaiting (s : State) (p e : Nat) : Nat :=
  (s.out.filter (fun q => q.core == p && q.eng == .dma (Fin.ofNat 4 e) && !q.biv)).length

/-! ### The target's side of the fabric -/

/-- The live contexts of a KEY (R220). -/
def State.keyed (s : State) (key : Nat) : List Nat :=
  (s.ctxs.filter (fun kc => kc.2.live && s.key kc.1 == key)).map Prod.fst

/-- Whether bytes lie wholly inside one HBM extent of a context (R221). -/
def State.inExtent (s : State) (c a n : Nat) : Bool :=
  (s.ctx c).extents.any (fun e => decide (e.1 ≤ a) && decide (a + n ≤ e.1 + e.2))

/-- Core, slot and core-local address of a scratchpad request (R217, R221). -/
def State.spdTarget (s : State) (c n a len : Nat) : Option (Nat × Nat) :=
  match s.physOf n with
  | none => none
  | some p => match s.slotOf p.val c with
    | none => none
    | some i => (s.spdAddr p.val i a len).map (fun x => (p.val, x))

/-- Where a request to this chip itself lands. -/
inductive OwnTarget where
  | hbm (a : Nat)
  | spd (p a : Nat)     -- core and core-local address
  deriving DecidableEq, Repr

/-- A request of context `c` to this chip itself, checked as one that arrives from another chip (R218, R220, R221): none where it is answered
with an error. -/
def State.ownTarget (s : State) (c a n : Nat) : Option OwnTarget :=
  match s.keyed (s.key c) with
  | [d] =>
    if (s.ctx d).fenced then none else
    match s.region a with
    | .hbm => if s.inExtent d a n then some (.hbm a) else none
    | .spd l x => (s.spdTarget d l x n).map (fun e => .spd e.1 e.2)
    | _ => none
  | _ => none

/-- Send a response (R228, R249, R251); a response to this chip itself is delivered here. -/
def State.respond (s : State) (c : Option Nat) (cls : Nat) (h : FabHdr) (status : Nat) (d : List Byte) (m : Option TileMeta)
    (poison : Bool) : State :=
  let r : FabHdr := { h with
    dst := h.src, src := BitVec.ofNat 17 s.ownChip, status := BitVec.ofNat 4 status, poison := poison,
    sealAmt := (match m with | some m => m.sl | none => 0),
    state := (match m with | some m => (if m.st = .poison then 2 else 1) | none => 0) }
  let s := if 1 ≤ status ∧ status ≤ 5 ∧ status ≠ 4 then s.bump R.JNR_ERR F.JNR_ERR.DENIED 1 else s
  let s := if poison && !d.isEmpty then s.bump R.JNR_ERR F.JNR_ERR.POISON_OUT 1 else s
  match s.pathBy c h.addr.toNat h.src.toNat h.dst.toNat h.src.toNat false with
  | .own => { s with retry := s.retry ++ [(cls, r, d, false)] }
  | .port w rw => s.emit (.fab cls (some w) rw false r d)
  | .none => s.fileWitness h.src.toNat 0 4

/-- Refuse a request with an error status. -/
def State.refuse (s : State) (c : Option Nat) (h : FabHdr) (status : Nat) : State := s.respond c 0xB h status [] none false

/-- Bytes a request is about: LEN units of 64 B, or the payload where it carries one. -/
def reqLen (h : FabHdr) : Nat := (h.len.toNat + 1) * 64

/-- The reader that a request of the fabric is at a plinth. -/
def FabHdr.reader (h : FabHdr) : Reader := .fab h.src h.stream h.tag

/-- Serve a read (R221, R228, R229). Answers false while it waits at its plinth. -/
def State.serveRead (s : State) (c : Nat) (h : FabHdr) : State × Bool :=
  let a := h.addr.toNat
  let n := reqLen h
  match s.region a with
  | .hbm =>
    if !s.inExtent c a n then (s.refuse (some c) h 2, true) else
    match s.readAs (FabHdr.reader h) a n with
    | (s, none) => (s, false)
    | (s, some (d, po, m)) => (s.respond (some c) 8 h 0 d (if h.whole then some (carried m d po) else none) po, true)
  | .spd n' x => match s.spdTarget c n' x n with
    | none => (s.refuse (some c) h 2, true)
    | some (p, l) =>
      let m := (s.core p).spd.info (l / 2048)
      let (s, d, po) := s.spdRead p (some c) l n
      (s.respond (some c) 8 h 0 d (if h.whole then some (carried m d po) else none) po, true)
  | _ => (s.refuse (some c) h 2, true)

/-- The seal and state a whole-tile write carries; a payload marked POISON is stored with state POISON (R229). -/
def metaOf (h : FabHdr) : Option TileMeta :=
  if h.whole then some { sl := h.sealAmt, st := if h.state = 2 || h.poison then .poison else .sealed } else none

/-- Serve a write (R221, R228, R229). A write to lines the host holds waits for BIRsp, one to a PENDING page for the page's urgent copy,
and it is acknowledged then (R300, R373). Answers false while a plinth refuses it. -/
def State.serveWrite (s : State) (c : Nat) (h : FabHdr) (d : List Byte) : State × Bool :=
  let a := h.addr.toNat
  match s.region a with
  | .hbm =>
    if !s.inExtent c a d.length then (s.refuse (some c) h 2, true) else
    let lines := s.heldLines a d.length
    let x : BiWait := { lines := lines, addr := a, data := d, poison := h.poison, whole := metaOf h, ack := some h }
    if !lines.isEmpty then
      let s := s.backInvalidate lines
      ({ s with biWait := s.biWait ++ [x] }, true)
    else if s.pagePending a then
      let s := s.holdPage a
      ({ s with biWait := s.biWait ++ [{ x with held := true }] }, true)
    else match s.tryWrite a d h.poison (metaOf h) with
    | (_, some t) => (t.respond (some c) 9 h 0 [] none false, true)
    | (s, none) => (s, false)
  | .spd n x => match s.spdTarget c n x d.length with
    | none => (s.refuse (some c) h 2, true)
    | some (p, l) =>
      let s := match metaOf h with
        | some m => if d.length = 2048 then s.spdPutTile p (l / 2048) d m else s.spdWrite p (some c) l d h.poison
        | none => s.spdWrite p (some c) l d h.poison
      (s.respond (some c) 9 h 0 [] none false, true)
  | _ => (s.refuse (some c) h 2, true)

/-- The increments applied in the last 20 ms (R255). -/
def State.recentIncs (s : State) : List (BitVec 17 × BitVec 16 × BitVec 16 × Word) :=
  s.incs.filter (fun e => (s.time - e.2.2.2).toNat ≤ 2000000)

/-- Serve a belay increment (R221, R255). Answers false while the 20 ms share is used up. -/
def State.serveInc (s : State) (c : Nat) (h : FabHdr) (replay : Bool) : State × Bool :=
  let recent := s.recentIncs
  if replay && recent.any (fun e => e.1 == h.src && e.2.1 == h.stream && e.2.2.1 == h.tag) then
    (s.respond (some c) 0xA h 0 [] none false, true)
  else if 4096 ≤ recent.length then (s, false)
  else match s.region h.addr.toNat with
  | .cell n i => match s.physOf n with
    | none => (s.refuse (some c) h 5, true)
    | some p => match s.blyInc c p.val i h.sealAmt.toNat with
      | .done s => ({ s with incs := recent ++ [(h.src, h.stream, h.tag, s.time)] }.respond (some c) 0xA h 0 [] none false, true)
      | .fenced => (s.refuse (some c) h 4, true)
      | .range => (s.refuse (some c) h 5, true)
  | _ => (s.refuse (some c) h 2, true)

/-- Whether a region is reached by requests at all: the host window and unmapped addresses are denied (R221). -/
def Region.reached : Region → Bool
  | .hbm => true
  | .spd _ _ => true
  | .cell _ _ => true
  | .host _ => false
  | .unmapped => false

/-- Serve a fabric request (R220, R221, R236). Answers false where it is refused at ingress and to be retried (R228). -/
def State.serve (s : State) (cls : Nat) (h : FabHdr) (d : List Byte) (replay : Bool) : State × Bool :=
  if !(s.region h.addr.toNat).reached then (s.refuse none h 2, true) else
  match s.keyed h.key.toNat with
  | [] => (s.refuse none h 1, true)
  | [c] =>
    if (s.ctx c).fenced then (s.refuse (some c) h 4, true)
    else if cls = 1 then s.serveRead c h
    else if cls = 2 then s.serveWrite c h d
    else s.serveInc c h replay
  | _ => (s.refuse none h 3, true)

/-- Whether two requests are of one STREAM of one chip, for one tile (R233). -/
def sameWay (g h : FabHdr) : Bool := g.src == h.src && g.stream == h.stream && g.addr.toNat / 2048 == h.addr.toNat / 2048

/-- Whether a request stands behind an earlier one of its STREAM for its tile that is not yet performed: among `kept`, those that are to be
retried, or among the writes that wait for the host or for an urgent copy (R233). -/
def State.standsBehind (s : State) (kept : List (Nat × FabHdr × List Byte × Bool)) (h : FabHdr) : Bool :=
  kept.any (fun x => decide (x.1 < 8) && sameWay x.2.1 h) ||
  s.biWait.any (fun x => match x.ack with | some g => sameWay g h | none => false)

/-! ### Responses -/

/-- Remove an outstanding request. -/
def State.dropReq (s : State) (tag : BitVec 16) : State :=
  { s with
    out := s.out.filter (fun q => q.tag != tag)
    ctxs := s.ctxs.map (fun kc => (kc.1, { kc.2 with inval := kc.2.inval.filter (fun t => t != tag) })) }

/-- A bivouac stream or restart of a context fails (R378, R383). -/
def State.bivFail (s : State) (c status : Nat) : State :=
  let x := s.ctx c
  let b := x.biv
  if s.rd (R.BIV_STATUS c) F.BIV_STATUS.STATE = 0 then s else
  let add := fun (l : List Nat) => l ++ b.set.filter (fun g => !l.contains g)
  let inA := s.rd (R.BIV_STATUS c) F.BIV_STATUS.SLOT == 0
  let st := s.rd (R.BIV_STATUS c) F.BIV_STATUS.STATE
  let keep := st == 2
  let b' := { b with
    dirtyA := if inA && !keep then add b.dirtyA else b.dirtyA
    dirtyB := if inA || keep then b.dirtyB else add b.dirtyB
    pend := [], toSend := [], set := [], reserve := [], copies := [], held := [], acks := 0, final := false, pulled := 0,
    pulling := 0, ending := false }
  let s := s.setCtx c { x with biv := b' }
  let s := { s with biWait := s.biWait.filter (fun w => w.pull != some c) }
  let s := { s with out := s.out.filter (fun q => !(q.biv && q.ctx == c)) }
  let s := s.wr (R.BIV_STATUS c) F.BIV_STATUS.STATE 0
  let s := s.wr (R.BIV_STATUS c) F.BIV_STATUS.PAGES_LEFT 0
  let s := s.wr (R.BIV_STATUS c) F.BIV_STATUS.HELD 0
  let s := s.wr (R.BIV_STATUS c) F.BIV_STATUS.LAST_STATUS status
  if st = 3 then s else s.bump (R.BIV_COUNT c) F.BIV_COUNT.FAILED 1

/-- The last write of a stream is acknowledged (R374): its slot holds a valid image. -/
def State.bivDone (s : State) (c : Nat) : State :=
  let x := s.ctx c
  let r := R.BIV_STATUS c
  let s := if s.rd r F.BIV_STATUS.STATE = 2 then s
    else s.wr (R.BIV_TARGET c (s.rd r F.BIV_STATUS.SLOT)) F.BIV_TARGET.VALID_IMAGE 1
  let s := s.setCtx c { x with biv := { x.biv with set := [], acks := 0, final := false } }
  let s := ((s.wr r F.BIV_STATUS.STATE 0).wr r F.BIV_STATUS.LAST_STATUS 0).wr r F.BIV_STATUS.STEP x.biv.step.toNat
  s.count (R.BIV_COUNT c) F.BIV_COUNT.SNAPSHOTS 1

/-- Bytes of a context's extents. -/
def Ctx.hbmBytes (x : Ctx) : Nat := x.extents.foldl (fun n e => n + e.2) 0

/-- Pages of a context's image. -/
def Ctx.pages (x : Ctx) : Nat := x.hbmBytes / pageBytes

/-- Sub-codes of BIV_CONFIG and BIV_RESTART (R370, R382). The manual names them and gives no numbers. -/
def subMode : Nat := (Config.subCode 3).toNat
def subCap : Nat := (Config.subCode 4).toNat
def subCell : Nat := (Config.subCode 5).toNat
def subAlign : Nat := (Config.subCode 6).toNat
def subTarget : Nat := (Config.subCode 7).toNat
def rstNoValid : Nat := (Config.subCode 8).toNat
def rstSize : Nat := (Config.subCode 9).toNat
def rstKey : Nat := (Config.subCode 10).toNat
def rstRoute : Nat := (Config.subCode 11).toNat
def subReserve : Nat := (Config.subCode 12).toNat

/-- Whether manifest bytes are a valid manifest (R382). -/
def manifestOk (m : List Byte) : Bool :=
  decide (200 ≤ m.length) && leAt m 0 4 == 0x56434942 && leAt m 6 2 % 2 == 1 && crc64 0 (m.take 0xC0) == leAt m 0xC0 8

/-- Of two manifests, the one a restart takes: valid and of the highest STEP, A at equal STEP (R382). -/
def chooseManifest (a b : List Byte) : Option (Bool × List Byte) :=
  if manifestOk a && (!manifestOk b || decide (leAt b 0x10 8 ≤ leAt a 0x10 8)) then some (false, a)
  else if manifestOk b then some (true, b) else none

/-- The bivouac engine requests a whole tile of a restart's source: a fabric address of a slot, and an offset in the slot (R382). -/
def State.bivAsk (s : State) (c : Nat) (r : BivRead) (src off : Nat) : State :=
  let core := ((s.physOf (s.rd (R.BIV_CFG c) F.BIV_CFG.TRIG_CORE)).map Fin.val).getD 0
  s.sendReq { tag := 0, cls := 1, chip := BitVec.ofNat 17 (bits src 40 17), addr := bits src 0 40 + off, len := 2048, core := core,
              eng := .splice, ctx := c, biv := true, pull := some r, deadline := 0, first := 0, whole := some {} }

/-- The manifests of a restart have been read (Table 126 step 3): the newest valid one is taken, and the request is answered. -/
def State.bivChoose (s : State) (c : Nat) (t : BivRst) (manA manB : List Byte) : State :=
  let x := s.ctx c
  let s := s.setCtx c { x with biv := { x.biv with rst := none } }
  if x.phase != .loaded || x.fenced || s.rd (R.BIV_STATUS c) F.BIV_STATUS.STATE != 0 then s.reply t.ch msState 0 [] else
  match chooseManifest manA manB with
  | none => s.reply t.ch msArg rstNoValid []
  | some (second, m) =>
    if leAt m 0x28 8 ≠ x.hbmBytes then s.reply t.ch msArg rstSize []
    else if leAt m 0x38 2 ≠ s.key c then s.reply t.ch msArg rstKey []
    else
      let b : Biv := { x.biv with
        rst := none, pulled := 0, pulling := 0, ending := false
        srcSlot := BitVec.ofNat 64 (if second then t.srcB else t.srcA), manifest := m.take 0xC8 }
      let s := s.setCtx c { x with biv := b }
      let s := (s.wr (R.BIV_STATUS c) F.BIV_STATUS.STATE 3).wr (R.BIV_STATUS c) F.BIV_STATUS.PAGES_LEFT x.pages
      s.reply t.ch msOk 0 []

/-- A tile of a restart has been written; the last of a page ends the page (R382). -/
def State.bivTaken (s : State) (c : Nat) : State :=
  let x := s.ctx c
  let n := x.biv.pulling - 1
  let k := if n = 0 then x.biv.pulled + 1 else x.biv.pulled
  (s.setCtx c { x with biv := { x.biv with pulling := n, pulled := k } }).wr (R.BIV_STATUS c) F.BIV_STATUS.PAGES_LEFT (x.pages - k)

/-- Write a tile of a restart whole, with its seal and state (R382). Lines of it that the host holds are asked back first (R300). -/
def State.bivPut (s : State) (c a : Nat) (d : List Byte) (m : TileMeta) : State :=
  let w : BiWait := {
    lines := s.heldLines a 2048, addr := a, data := d, poison := m.st == .poison, whole := some m, ack := none, pull := some c }
  match s.tryWrite a d w.poison w.whole with
  | (_, some s) => s.bivTaken c
  | (s, none) => { s with biWait := s.biWait ++ [w] }

/-- The chosen manifest has been read again (R383): a restart whose source has changed fails; else the context's loss scale and STEP are the
image's, and both dirty sets hold every page. -/
def State.bivEnd (s : State) (c : Nat) (man : List Byte) : State :=
  let x := s.ctx c
  let m := x.biv.manifest
  if leAt man 6 2 ≠ leAt m 6 2 ∨ leAt man 8 4 ≠ leAt m 8 4 then s.bivFail c 3
  else
    let all := upto x.pages
    let b : Biv := { x.biv with restored := true, dirtyA := all, dirtyB := all, pulled := 0, ending := false }
    let s := s.setCtx c { x with biv := b }
    let ls := R.SCA_LS_STATUS c
    let s := (s.wr ls F.SCA_LS_STATUS.EXP (leAt man 0x3C 1)).wr ls F.SCA_LS_STATUS.CLEAN (leAt man 0x3E 2)
    let r := R.BIV_STATUS c
    let s := (s.wr r F.BIV_STATUS.STATE 0).wr r F.BIV_STATUS.LAST_STATUS 0
    s.wr r F.BIV_STATUS.STEP (leAt man 0x10 8)

/-- A read of a restart is answered; without data it came back with an error (R382, R383). -/
def State.bivRead (s : State) (c : Nat) (r : BivRead) (d : Option (List Byte)) (m : Option TileMeta) : State :=
  let x := s.ctx c
  let busy := s.rd (R.BIV_STATUS c) F.BIV_STATUS.STATE == 3
  match r with
  | .manifest second => (match x.biv.rst with
    | none => s
    | some t =>
      let t := if second then { t with manB := some (d.getD []) } else { t with manA := some (d.getD []) }
      match t.manA, t.manB with
      | some a, some b => s.bivChoose c t a b
      | _, _ => s.setCtx c { x with biv := { x.biv with rst := some t } })
  | .again => if !busy || !x.biv.ending then s else match d with
    | none => s.bivFail c 1
    | some d => s.bivEnd c d
  | .tile a => if !busy then s else match d with
    | none => s.bivFail c 1
    | some d => s.bivPut c a d (m.getD (sealedMeta d))

/-- A part of a source chunk that a splice engine requested has arrived; an error response delivers poisoned zeros (R230). -/
def State.splPart (s : State) (c g k : Nat) (d : List Byte) (poison : Bool) : State :=
  let x := s.ctx c
  match SMap.look x.groups g with
  | none => s
  | some w => match w.cur with
    | none => s
    | some col =>
      s.setCtx c { x with groups := SMap.put x.groups g { w with cur := some { col with parts := SMap.put col.parts k (d, poison) } } }

/-- A response reaches the engine that issued the request (R229, R230, R236). An error of a posted store or a BLY.INCA puts the
instruction's own address into SEQ_FAULT_PC. `err` is the error status, 0 for none. -/
def State.answer (s : State) (q : OutReq) (err : Nat) (d : List Byte) (poison : Bool) (m : Option TileMeta) : State :=
  let p := q.core
  let x := s.ctx q.ctx
  if q.biv then
    if let some r := q.pull then s.bivRead q.ctx r (if err = 0 then some d else none) m
    else if err ≠ 0 then s.bivFail q.ctx 1
    else
      let s := s.setCtx q.ctx { x with biv := { x.biv with acks := x.biv.acks - 1 } }
      if x.biv.final && decide (x.biv.acks ≤ 1) then s.bivDone q.ctx else s
  else if q.eng = .seq then
    if q.cls = 1 ∨ q.cls = 4 then
      if x.fenced then s else
      match (s.core p).load with
      | none => s
      | some l => if l.tag ≠ some q.tag then s else
        s.setCore p { s.core p with load := some { l with data := some (if err = 0 then d else List.replicate q.len 0, poison || err != 0), err := err != 0 } }
    else
      let s := if q.cls = 3 then s else
        s.setCore p { s.core p with posted := (s.core p).posted.filter (fun y => y.tag != some q.tag) }
      if err = 0 || x.fenced then s
      else (s.wr (R.SEQ_FAULT_PC p) F.SEQ_FAULT_PC.PC q.pc.toNat).raise q.ctx cRemoteError (uCore p) q.addr err
  else match q.eng with
  | .dma e =>
    let s := (if err = 0 then s else s.dmaError p e.val (if err = 4 then 5 else 4)).stamp (uDma p e.val)
    if q.cls = 2 ∨ q.cls = 5 ∨ x.fenced then s
    else match q.piece with
    | none => s
    | some y =>
      let po := poison || err != 0
      let d := if err = 0 then slice d 0 y.n else List.replicate y.n 0
      let w := if y.isWhole then some (match m with | some m => carried m d po | none => if po then poisonMeta d else sealedMeta d) else none
      match s.dmaStore p e.val q.ctx y.dsp y.dst d po w with
      | (s, true) => s
      | (s, false) => s.onDma p e.val (fun a => { a with todo := a.todo ++ [.store y.dsp y.dst d po w] })
  | .splice => match q.piece with
    | some y => if x.fenced then s else
      s.splPart q.ctx q.amount.toNat (64 * y.src + y.dst) (if err = 0 then slice d 0 y.n else List.replicate y.n 0) (poison || err != 0)
    | none => s
  | .seq => s

/-- A response of the fabric arrives (R232): one with no outstanding request is discarded. A request that went out over the ridge
ports and comes back UNROUTABLE is replayed (R254). -/
def State.deliver (s : State) (cls : Nat) (h : FabHdr) (d : List Byte) : State :=
  match s.out.find? (fun q => q.tag == h.tag && q.cls ≤ 3 && (cls == 0xB || cls == q.cls + 7)) with
  | none => s
  | some q =>
    if cls = 0xB && h.status == 7 && s.mayReplay q && q.port.any (fun w => decide (24 ≤ w)) then s.resend q else
    let s := s.dropReq q.tag
    let s := if cls = 8 && h.poison && h.src.toNat != s.ownChip then s.fileWitness h.src.toNat 0 5 else s
    s.answer q (if cls = 0xB then max 1 h.status.toNat else 0) (slice d q.skew (d.length - q.skew)) h.poison (metaOf h)

/-- Take one message that this chip has for itself, or one request to be retried; a request that must still wait joins `kept`. -/
def State.settleMsg (s : State) (kept : List (Nat × FabHdr × List Byte × Bool)) (x : Nat × FabHdr × List Byte × Bool) :
    State × List (Nat × FabHdr × List Byte × Bool) :=
  if 8 ≤ x.1 then (s.deliver x.1 x.2.1 x.2.2.1, kept)
  else if s.standsBehind kept x.2.1 then (s, kept ++ [x])
  else match s.serve x.1 x.2.1 x.2.2.1 x.2.2.2 with
    | (s, true) => (s, kept)
    | (s, false) => (s, kept ++ [x])

/-- One pass over the requests and responses that this chip has for itself and the requests to be retried, in their order. -/
def State.settleOnce (s : State) : State :=
  let (s, kept) := s.retry.foldl (fun (r : State × List (Nat × FabHdr × List Byte × Bool)) x => r.1.settleMsg r.2 x)
    ({ s with retry := [] }, [])
  { s with retry := kept ++ s.retry }

/-- A request, the response it draws, and what that response lets the engine send (R218). -/
def State.settleAll (s : State) : State := s.settleOnce.settleOnce.settleOnce.settleOnce

/-- Perform a write that waited for the host's lines or for an urgent copy, and acknowledge it (R300, R373). A request whose context has
been fenced before it was accepted is answered FENCED, or NO_TARGET once the context is gone (R236, R237); a write that was held for a page
completes (R379). Answers false while it must wait. -/
def State.finishWait (s : State) (x : BiWait) : State × Bool :=
  if !x.lines.isEmpty then (s, false) else
  let late := fun (h : FabHdr) => match s.keyed h.key.toNat with
    | [] => some (none, 1)
    | c :: _ => if (s.ctx c).fenced then some (some c, 4) else (none : Option (Option Nat × Nat))
  match (if x.held then none else x.ack.bind (fun h => (late h).map (fun e => (h, e)))) with
  | some (h, c, st) => (s.refuse c h st, true)
  | none =>
    match (if x.host then s.plainWrite x.addr x.data x.poison x.whole else s.tryWrite x.addr x.data x.poison x.whole) with
    | (_, some s) => (match x.ack with
      | none => (match x.pull with
        | some c => s.bivTaken c
        | none => s)
      | some h => s.respond (s.keyed h.key.toNat).head? 9 h 0 [] none false, true)
    | (s, none) => (s, false)

/-- Perform the waiting writes that can go on, in their order. -/
def State.finishWaits (s : State) : State :=
  s.biWait.foldl (fun s x => match s.finishWait x with
    | (s, true) => s
    | (s, false) =>
      let x := if x.host then x else { x with lines := x.lines ++ (s.heldLines x.addr x.data.length).filter (fun l => !x.lines.contains l) }
      { s with biWait := s.biWait ++ [{ x with held := x.held || (x.lines.isEmpty && s.pagePending x.addr) }] }) { s with biWait := [] }

/-- Set CUR_CODE of a scale slot to the INIT_CODE of its CFG word (R177); none while the tile or a line of it must wait. -/
def State.scaSet (s : State) (c i : Nat) : State × Bool :=
  let a := s.rd (R.SCA_TABLE c) F.SCA_TABLE.BASE + 128 * i
  match s.hbmRead a 4 with
  | none => (s, false)
  | some (t, d, _) => match t.tryWrite (a + 4) [d.getD 2 0] false none with
    | (_, some t) => (t, true)
    | (t, none) => (t, false)

/-- Go on with the scale slots of a context that its start has still to set (R177). -/
def State.scaGoOn (s : State) (c : Nat) : State :=
  (s.ctx c).scaTodo.foldl (fun s i => match s.scaSet c i with
    | (s, true) => s
    | (s, false) => s.setCtx c { s.ctx c with scaTodo := (s.ctx c).scaTodo ++ [i] }) (s.setCtx c { s.ctx c with scaTodo := [] })

/-- What waited for memory goes on (R206, R214, R373): stores, DMA descriptors, writes that waited, and the start of scale slots. -/
def State.resumeWrites (s : State) : State :=
  let s := s.cores.foldl (fun s kc =>
    let s := s.drainPosted kc.1
    kc.2.dma.foldl (fun s e => s.dmaRun kc.1 e.1) s) s
  let s := s.ctxs.foldl (fun s kc => if kc.2.scaTodo.isEmpty then s else s.scaGoOn kc.1) s
  s.finishWaits

/-- Contexts with a bivouac stream in progress. -/
def State.streaming (s : State) : Nat := (s.ctxs.filter (fun kc => s.rd (R.BIV_STATUS kc.1) F.BIV_STATUS.STATE != 0)).length

/-- Settle what this chip has for itself (R218). Where that ends a bivouac stream, the writes it held go on (R378). -/
def State.settle (s : State) : State :=
  let t := s.settleAll
  if t.streaming < s.streaming then t.resumeWrites.settleAll else t

/-- A request from another chip arrives; refused at a plinth it is retried here (R228), and it waits behind an earlier one of its STREAM
for its tile (R233). -/
def State.arrive (s : State) (cls : Nat) (h : FabHdr) (d : List Byte) (replay : Bool) : State :=
  if s.standsBehind s.retry h then { s with retry := s.retry ++ [(cls, h, d, replay)] } else
  match (s.forgetReaders (fun r => r == FabHdr.reader h)).serve cls h d replay with
  | (s, true) => s.settle
  | (s, false) => { s with retry := s.retry ++ [(cls, h, d, replay)] }

/-- Retry everything that waited for memory (R206, R214, R373). -/
def State.retryAll (s : State) : State := s.resumeWrites.settle

end Sys2Proof.Machine
end

