-- ==== Sys2Proof/Machine/Legal.lean ====
section
/-!
DEFINITION. The legality rules of TIS encodings beyond the layout (R62, R66, R91, R134, R136 to R140, R147, R156 to R164, R186):
which combinations of field values an instruction may carry (Table 57).
-/
namespace Sys2Proof.Machine

/-- Format codes of Table 24. -/
def fmtCode : Fmt → Nat
  | .fp32 => 0 | .bf16 => 1 | .fp16 => 2 | .e4m3 => 3 | .e5m2 => 4 | .e2m3 => 5 | .e3m2 => 6 | .e2m1 => 7 | .bell4 => 8
  | .int8 => 9 | .int32 => 10 | .e8m0 => 15

/-- The format of a code; none for a reserved code (R78). -/
def fmtOf (n : Nat) : Option Fmt :=
  match n with
  | 0 => some .fp32 | 1 => some .bf16 | 2 => some .fp16 | 3 => some .e4m3 | 4 => some .e5m2 | 5 => some .e2m3
  | 6 => some .e3m2 | 7 => some .e2m1 | 8 => some .bell4 | 9 => some .int8 | 10 => some .int32 | 15 => some .e8m0
  | _ => none

/-- Bits of an element (Table 24). -/
def fmtBits : Fmt → Nat
  | .fp32 => 32 | .bf16 => 16 | .fp16 => 16 | .e4m3 => 8 | .e5m2 => 8 | .e2m3 => 6 | .e3m2 => 6 | .e2m1 => 4 | .bell4 => 4
  | .int8 => 8 | .int32 => 32 | .e8m0 => 8

/-- Slices of 256 elements a register holds (Table 39). -/
def fmtSlices : Fmt → Nat
  | .fp32 => 1 | .int32 => 1 | .bf16 => 2 | .fp16 => 2 | .e4m3 => 4 | .e5m2 => 4 | .int8 => 4 | .e8m0 => 4
  | .e2m3 => 5 | .e3m2 => 5 | .e2m1 => 8 | .bell4 => 8

/-- Formats that block scales apply to (R91). -/
def scalable : Fmt → Bool
  | .e4m3 | .e5m2 | .e2m3 | .e3m2 | .e2m1 | .bell4 | .int8 => true
  | .fp32 | .bf16 | .fp16 | .int32 | .e8m0 => false

/-- The wide float formats that CVT.Q reads and CVT.DQ writes. -/
def wideFloat : Fmt → Bool
  | .fp32 | .bf16 | .fp16 => true
  | .e4m3 | .e5m2 | .e2m3 | .e3m2 | .e2m1 | .bell4 | .int8 | .int32 | .e8m0 => false

/-- Row group of Table 20 a cube operand belongs to (R62). -/
def cubeGroup : Fmt → Option Nat
  | .e4m3 | .e5m2 | .e2m3 | .e3m2 => some 0
  | .e2m1 | .bell4 => some 1
  | .bf16 | .fp16 => some 2
  | .int8 => some 3
  | .fp32 => some 4
  | .int32 | .e8m0 => none

/-- Ring size R of a RING code (R162). -/
def ringSize (r : Fin 5) : Nat := 2 ^ r.val

/-- BLY amount: in the register or in the immediate, exactly one of the two (R156). -/
def legalAmount (r : SReg) (imm : BitVec 18) : Bool := (r != 0) != (imm != 0)

/-- Selectors of SCL.INFO (Table 47). -/
def legalInfo (sel : BitVec 4) : Bool := decide (sel.toNat ≤ 5)

/-- LIH's IMM40 [39:24] is zero by its type; the unused WAIT and completion fields of a DMA copy are zero (R147, R160). -/
def legalDma (d : DmaCopy) : Bool :=
  (d.waitEn || (d.wcell == 0 && d.rt == 0)) && (d.amount != 0 || d.icell == 0)

/-- CUB.LDS: a cube and a format some cube instruction takes (R162, Table 20). -/
def legalLds (d : CubLds) : Bool := d.mask != 0 && (cubeGroup d.fmt).isSome

/-- A mask whose bit count is a multiple of the ring size (R66, R162). -/
def legalMask (m : BitVec 16) (ring : Fin 5) : Bool := m != 0 && popCount m.toNat 16 % ringSize ring == 0

/-- CUB.LDSC (R66, R91, R162). -/
def legalLdsc (d : CubLdsc) : Bool :=
  legalMask d.mask d.ring && scalable d.fmt && (d.ldB || d.ldA) &&
  (d.ldB || (d.rbB == 0 && d.bsoff == 0)) && (d.ldA || (d.rbA == 0 && d.asoff == 0))

/-- CUB.MMA (R62, R66, R91, R162). -/
def legalMma (d : CubMma) : Bool :=
  legalMask d.mask d.ring && (cubeGroup d.fmtA).isSome && cubeGroup d.fmtA == cubeGroup d.fmtB &&
  (!d.scaA || scalable d.fmtA) && (!d.scaB || scalable d.fmtB) && (d.scaA || d.scaB || !d.s32)

/-- CUB.DRAIN (R162). -/
def legalDrain (d : CubDrain) : Bool := d.mask != 0

/-- Elementwise float formats (Table 50). -/
def legalVecFmt (f : Fmt) : Bool := wideFloat f

/-- VEC.CMP (Table 50). -/
def legalCmpFmt (f : Fmt) : Bool := wideFloat f || f == .int32

/-- VEC.CLASS: slice 0 for FP32 (Table 50). -/
def legalClass (f : Fmt) (sl : Fin 2) : Bool := wideFloat f && (f != .fp32 || sl == 0)

/-- VEC.RED: FP32 for SUM, MAX and MIN, INT32 for the rest; k from 1 to 8 (Table 50). -/
def legalRed (f : Fmt) (op : RedOp) (k : BitVec 4) : Bool :=
  decide (1 ≤ k.toNat) && decide (k.toNat ≤ 8) &&
  (match op with
  | .sum | .max | .min => f == .fp32
  | .and | .or | .xor | .iadd => f == .int32)

/-- VEC.XFM (Table 51, R134): registers of disabled stages are zero. -/
def legalXfm (d : VecXfm) : Bool :=
  (if d.perm then d.ra != 63 else d.rb == 0) && (d.smooth || d.rc == 0) &&
  (if d.had then decide (4 ≤ d.m.toNat) && decide (d.m.toNat ≤ 8) else d.m == 0) && decide (d.h.toNat ≤ 8)

/-- Number of scale blocks of a block geometry (Table 42), none where the combination is illegal. -/
def geomBlocks (strided s32 pair : Bool) : Option Nat :=
  match strided, s32, pair with
  | false, false, false => some 16
  | false, true, false => some 8
  | true, false, false => some 16
  | false, true, true => some 16
  | true, true, true => some 16
  | _, _, _ => none

/-- Byte of the scale register that holds the scale of block `t` (R137). -/
def scaleByte (soff : Nat) (sord : Bool) (t : Nat) : Nat :=
  if sord then soff * 8 + t % 2 * 16 + t / 2 else soff * 8 + t

/-- The block geometry of a CVT.Q or CVT.DQ with block scales (Table 42, R137). -/
def legalGeom (d : Cvt) : Bool :=
  match geomBlocks d.strided d.s32 d.pair with
  | none => false
  | some n => (!d.sord || (!d.strided && !d.s32 && !d.pair)) &&
      decide (d.soff.toNat * 8 + (if d.sord then 23 else n - 1) ≤ 1023)

/-- Scale placement fields of CVT.Q and CVT.DQ, block or register (Table 52). -/
def legalScale (d : Cvt) : Bool :=
  if d.reg then !d.minmax && !d.strided && !d.s32 && !d.pair && !d.sord && decide (d.soff.toNat < 4) else legalGeom d

/-- CVT.F (Table 52, R136). -/
def legalCvtF (d : Cvt) : Bool :=
  d.srcf != .e8m0 && d.dstf != .e8m0 && d.rb == 0 && d.rc == 0 &&
  !d.minmax && !d.reg && !d.strided && !d.s32 && !d.pair && !d.sord && d.soff == 0 &&
  decide (d.ss.toNat < fmtSlices d.srcf) && decide (d.ds.toNat < fmtSlices d.dstf)

/-- One more slice where PAIR is set. -/
def pairNat (d : Cvt) : Nat := if d.pair then 1 else 0

/-- CVT.Q (Table 52, R137). -/
def legalCvtQ (d : Cvt) : Bool :=
  wideFloat d.srcf && scalable d.dstf && decide (d.ss.toNat < fmtSlices d.srcf) &&
  decide (d.ds.toNat + pairNat d < fmtSlices d.dstf) && (!d.pair || d.ra != 63) &&
  ((d.minmax && !d.reg) || d.rc == 0) && legalScale d

/-- CVT.QSC (Table 52, R139). -/
def legalCvtQsc (d : Cvt) : Bool :=
  d.srcf == .fp32 && scalable d.dstf && decide (d.ss.toNat < 4) && d.ds == 0 && !d.reg && !d.strided && !d.s32 &&
  !d.pair && !d.sord && d.soff == 0 && d.tag == 0 && (d.minmax || d.rb == 0)

/-- CVT.DQ (Table 52, R140). -/
def legalCvtDq (d : Cvt) : Bool :=
  scalable d.srcf && wideFloat d.dstf && decide (d.ss.toNat + pairNat d < fmtSlices d.srcf) &&
  decide (d.ds.toNat < fmtSlices d.dstf) && (!d.pair || d.rd != 63) && d.rc == 0 && d.tag == 0 && d.ovf == .sat &&
  legalScale d

/-- Unused wait and completion fields of an SPL instruction are zero (R147, R164). -/
def legalSplWait (d : Spl) : Bool :=
  (d.waitEn || (d.wcell == 0 && d.rt == 0)) && (d.amount != 0 || d.icell == 0)

/-- SPL.RUN (R164). -/
def legalRun (d : Spl) : Bool :=
  decide (d.kind.toNat ≤ 5) && (fmtOf d.fmt.toNat).isSome &&
  (!(d.kind == 0 || d.kind == 1 || d.kind == 4) || d.fmt == 0) && legalSplWait d

/-- SPL.BATCH: the list names every destination (R164, R289). -/
def legalBatch (d : Spl) : Bool := d.kind == 0 && d.fmt == 0 && d.rdst == 0 && d.doff == 0 && legalSplWait d

/-- SPL.COUNTS (R164, R290). -/
def legalCounts (d : Spl) : Bool := d.kind == 0 && d.fmt == 0 && legalSplWait d

/-- SCA.TREAD reads the counters of the formats 0x0 to 0xA (R186). -/
def legalTread (f : BitVec 4) : Bool := decide (f.toNat ≤ 10)

/-- The register pair of VEC.LD2 and VEC.ST2 is even (R158). -/
def legalPair (rd : VReg) : Bool := rd.val % 2 == 0

end Sys2Proof.Machine
end

