-- ==== Sys2Proof/WellFormed.lean ====
section
/-!
DEFINITION. Which terms of `Instr` stand for a command the manual has: the legality rules of the TIS encodings (Table 57), and
for an event row that its payload has the size the manual gives that message.
-/
namespace Sys2Proof
open Sys2Proof.Machine

/-- Bytes in the units of a fabric message: whole 64 B units, or one small aligned access of the sequencer. -/
def payloadOk (h : FabHdr) (data : List Byte) : Bool :=
  if h.whole then data.length == 2048 else decide (0 < data.length) && decide (data.length ≤ (h.len.toNat + 1) * 64)

/-- Well-formed commands. -/
def Instr.wellFormed : Instr → Bool
  | .sclAdd .. | .sclSub .. | .sclMul .. | .sclAnd .. | .sclOr .. | .sclXor .. | .sclShl .. | .sclShr .. | .sclSar ..
  | .sclSlt .. | .sclSltu .. | .sclAddi .. | .sclAndi .. | .sclOri .. | .sclXori .. | .sclShli .. | .sclShri ..
  | .sclSari .. | .sclSlti .. | .sclLi .. | .sclLih .. | .sclLd .. | .sclLds .. | .sclSt .. => true
  | .sclInfo _ _ sel => legalInfo sel
  | .seqLoadReturn _ | .specReadReturn _ | .runaheadSquash _ => true
  | .ctlNop _ | .ctlBr .. | .ctlJmp .. | .ctlJr .. | .ctlStep _ | .ctlYield _ | .yieldSwitch .. | .ctlHalt _
  | .ctlFence .. | .ctlSeth .. | .ctlReth _ => true
  | .blyInc _ _ ra imm => legalAmount ra imm
  | .blyInca _ _ rb imm => legalAmount rb imm
  | .blyWait .. | .blyRead .. | .belayWaitResume _ | .waitIdleEntry _ | .belayTimeout _ => true
  | .dmaCopy _ d => legalDma d
  | .dmaShape .. | .dmaDescriptorStart .. | .dmaWaitTimeout .. | .dmaComplete .. => true
  | .cubLds _ d => legalLds d
  | .cubLdsc _ d => legalLdsc d
  | .cubMma _ d => legalMma d
  | .cubDrain _ d => legalDrain d
  | .cubeLoadGrant _ | .cubeRingStep .. | .cubeAccumUpdate .. | .cubeDrainExec _ | .ballastOp .. | .cubeRampDownEntry ..
  | .cubeDutyStep .. => true
  | .vecAdd _ f _ _ _ ma mb _ => legalVecFmt f && !ma.fin && !mb.fin
  | .vecSub _ f _ _ _ ma mb _ => legalVecFmt f && !ma.fin && !mb.fin
  | .vecMul _ f _ _ _ ma mb _ => legalVecFmt f && !ma.fin && !mb.fin
  | .vecFma _ f _ _ _ _ ma mb mc _ => legalVecFmt f && !ma.fin && !mb.fin && !mc.fin
  | .vecMax _ f .. => legalVecFmt f
  | .vecMin _ f .. => legalVecFmt f
  | .vecIadd .. | .vecIsub .. | .vecImul .. | .vecAnd .. | .vecOr .. | .vecXor .. | .vecNot .. | .vecShl .. | .vecShr ..
  | .vecSar .. => true
  | .vecCmp _ f .. => legalCmpFmt f
  | .vecSel .. => true
  | .vecClass _ f sl _ _ _ => legalClass f sl
  | .vecRcp .. | .vecRsq .. | .vecExp2 .. | .vecLog2 .. => true
  | .vecRed _ f op k _ _ _ => legalRed f op k
  | .vecXfm _ d _ => legalXfm d
  | .vecLd .. => true
  | .vecLd2 _ rd _ _ => legalPair rd
  | .vecSt .. => true
  | .vecSt2 _ rd _ _ _ => legalPair rd
  | .cvtF _ d _ => legalCvtF d
  | .cvtQ _ d _ => legalCvtQ d
  | .cvtQsc _ d _ => legalCvtQsc d
  | .cvtDq _ d _ => legalCvtDq d
  | .telDeliver _ => true
  | .splRun _ d => legalRun d
  | .splBatch _ d => legalBatch d
  | .splCounts _ d => legalCounts d
  | .chkState .. | .chkVerify .. | .scaLsget .. | .scaLsupd .. | .scaHrec .. | .scaHget .. => true
  | .scaTread _ _ _ f _ => legalTread f
  | .coreWake _ | .coreGate _ => true
  | .hbmRead a n _ _ _ => decide (0 < n.toNat) && decide (a.toNat % 2048 + n.toNat ≤ 2048)
  | .hbmWriteWhole a data _ st => data.length == 2048 && a.toNat % 2048 == 0 && st != .unwritten
  | .hbmWritePartial a data _ => decide (0 < data.length) && decide (a.toNat % 2048 + data.length ≤ 2048)
  | .wcbMergeAge .. | .wcbMergeDone .. | .specRequestDrop _ | .stackThermalEval .. | .thermalPauseSend _
  | .retrainPeriodic .. | .plnCmdRetrain .. | .retrainStart _ | .retrainConfirm _ | .retrainHoldTimeout _
  | .plnCmdRepair .. | .repairMigrateGranule .. | .repairStateSave _ => true
  | .rdReq _ => true
  | .wrReq h data => payloadOk h data
  | .blyIncReq .. => true
  | .rdRsp h data => payloadOk h data
  | .wrAck _ | .incAck _ | .errRsp _ | .remoteTimeout _ | .pageWalkComplete .. | .jnrCtxCmdInval _ | .invalDone _ => true
  | .flitReceive _ flit _ _ => flit.length == 256
  | .ridgeForward .. | .nakReceive .. | .linkAckTimeout _ | .laneLockLoss .. | .requestReplay _
  | .lnkCtrlRetrain _ | .portTraining .. | .settingsFlashCopy | .noticeThermalPause .. | .noticePauseEnd ..
  | .pauseEntryExpire .. | .witnessReceive _ | .witnessWindowClose _ => true
  | .splCollectiveStart .. | .splReady _ | .splMode _ | .splCredit _ | .splGrant _ | .splNoSlot _ | .claimRetry ..
  | .claimFallback .. => true
  | .splChunk _ payload => decide (payload.length ≤ 4096)
  | .splFenced _ | .splLost _ | .splRedo _ | .splAbort _ | .splComplete .. | .collDeadline .. => true
  | .sqWake .. => true
  | .sqStart .. | .sqBelayInc _ | .sqNop _ | .contextHalted _ | .qEnable _ | .qDisable _ | .msixSend _
  | .msixHoldoffEnd _ | .hostMemRead _ => true
  | .hostMemWrite off data _ => data.length == 64 && off.toNat % 64 == 0
  | .hostLineRequest _ | .birspReceive _ => true
  | .getVersion _ | .load .. | .unload _ | .setPartitionMode _ | .resetReq _ | .cairnInfo _ | .fwStage .. | .fwActivate ..
  | .attest .. | .getMeasurements _ | .jigInstall .. | .bivConfig _ | .bivRestart .. | .evtHeadWrite _ => true
  | .jigRunStart .. | .jigRunEnd _ | .jigTimeout _ | .jigCmdRun _ | .jigOverdue _ | .jigPkgFlash | .healthWindowExpire _
  | .spareSubstitute _ | .fenceListFlash => true
  | .contextReset _ | .hbmQuarantineRelease _ | .engineHang .. | .plinthHang .. | .nocTimeout _ | .bridgeFail
  | .drainTimeout .. | .engineReset .. | .partitionReset .. | .warmChipReset .. | .resetOverrun _ | .cairnTimeLimit _
  | .cdcTimeout .. | .cdcModeWrite _ | .errLogAck .. | .logHandlingDone _ => true
  | .bivTrigger _ | .urgentCopyDone .. | .bivPageSend _ | .bivStreamComplete _ => true
  | .bivRestartPull _ | .bivRestartFinish _ => true
  | .aonPowerUp .. | .powerGoodLoss | .holdResetAssert | .holdResetRelease .. | .thermTrip .. | .fwProcRestart ..
  | .svnFloorRaise | .activationDeferredStart _ | .clampPowerStep _ | .clampCurrentLimit .. | .clampDieThermal ..
  | .optThermal .. | .vidAck .. | .vidTimeout | .voltageAlarm .. | .voltageAlarmClear _ | .telClear .. | .telClearDone ..
  | .rbApertureRead .. => true
  | .registerWrite _ width _ => decide (1 ≤ width.toNat) && decide (width.toNat ≤ 8)
  | .vddAonRemoval | .cxlLinkTraining _ | .pllLossOfLock .. | .hostWindowResponse .. => true

end Sys2Proof
end

