-- ==== Sys2Proof/Machine/Seq.lean ====
section
/-!
DEFINITION. The sequencer: fetch (R146, R168), issue and commit (R149), the drain, save and restore of a resident slot (R53, R54,
R172), and run-ahead (R33 to R37).
-/
namespace Sys2Proof.Machine

/-! ### Fetch -/

/-- Outcome of a fetch. -/
inductive FetchRes where
  | ok
  | bounds     -- FETCH_BOUNDS (R146)
  | poisoned   -- the sequencer consumes the poison (R41, R146)
  | blocked    -- the fetch waits for memory
  deriving DecidableEq, Repr

/-- Fetch of a jig's pattern: the code lies in the workspace (R330, Table 105 step 3). -/
def State.jigFetch (s : State) (p va : Nat) : State × FetchRes :=
  match (s.core p).jig with
  | none => (s, .bounds)
  | some r => match r.code.find? (fun e => decide (e.1 ≤ va) && decide (va < e.1 + e.2.1)) with
    | none => (s, .bounds)
    | some (b, _, a) => match s.spdRead p (some jigCtx) (a + (va - b)) 8 with
      | (s, _, po) => (s, if po then .poisoned else .ok)

/-- Fetch from the 2 KiB of virtual addresses that hold `va`. Tiles fetched before are in the instruction cache: the device does
not guarantee that a fetch sees a later write (R146). -/
def State.fetchTile (s : State) (p c va : Nat) : State × FetchRes :=
  if c = jigCtx then s.jigFetch p va
  else if (s.core p).fetched.contains (va / 2048) then (s, .ok)
  else match s.xlate c va .fetch with
    | (s, .ok (.hbm a) _) => match s.readAs (.fetch p c) a 8 with
      | (s, none) => (s, .blocked)
      | (s, some (_, true, _)) => (s, .poisoned)
      | (s, some (_, false, _)) =>
        (s.setCore p { s.core p with fetched := (s.core p).fetched ++ [va / 2048] }, .ok)
    | (s, .ok _ _) => (s, .bounds)
    | (s, .fault) => (s, .bounds)
    | (s, .poisoned) => (s, .poisoned)
    | (s, .blocked) => (s, .blocked)

/-- Fetch an instruction of `n` bytes at the program counter (R145, R146). -/
def State.fetch (s : State) (p c n : Nat) : State × FetchRes :=
  let pc := (s.pc p).toNat
  if pc % 8 ≠ 0 then (s, .bounds)
  else match s.fetchTile p c pc with
    | (s, .ok) => if n = 16 then s.fetchTile p c ((pc + 8) % 2 ^ 64) else (s, .ok)
    | r => r

/-- Whether the program of core `p` can commit its next instruction: its slot has not halted, no scalar load is outstanding, no
belay wait is open and no yield is in progress. A jig's pattern has not halted and has raised no error; the wait is the displaced context's. -/
def State.mayIssue (s : State) (p : Nat) : Bool :=
  let k := s.core p
  k.load.isNone && !k.yielding &&
  (if k.jigging then k.jig.any (fun r => !r.halted && !r.ctxErr) else k.wait.isNone && !(k.slot (s.activeSlot p)).halted)

/-- Fetch the instruction at the program counter of core `p` and run it (R149, R168). The instruction has no effect while core
`p` runs no program that can commit, or while its fetch waits for memory, beyond what the fetch itself asks for. An illegal encoding raises ILLEGAL_INSN. -/
def State.issue (s : State) (p : Nat) (legal : Bool) (n : Nat) (f : State → Nat → State) : State :=
  match s.running p with
  | none => s
  | some c =>
    if !s.mayIssue p then s else
    match s.fetch p c n with
    | (s, .ok) => if legal then f s c else s.raiseInsn p c cIllegalInsn (s.pc p).toNat 0
    | (s, .bounds) => s.raiseInsn p c cFetchBounds (s.pc p).toNat 0
    | (s, .poisoned) => s.raiseInsn p c cPoisonConsumed (s.pc p).toNat 0
    | (s, .blocked) => s

/-! ### Commit -/

/-- A pending value of a field. -/
def pendNat {n : Nat} (x : Option (BitVec n)) (v : Nat) : Nat := match x with | some b => b.toNat | none => v

/-- SEQ_CTRL takes the values written for the next instruction boundary (R149). -/
def State.seqBoundary (s : State) (p : Nat) : State :=
  let k := s.core p
  let r := R.SEQ_CTRL p
  if k.seqP = (none, none, none) then s else
  let s := s.wr r F.SEQ_CTRL.RUNAHEAD_EN (pendNat k.seqP.1 (s.rd r F.SEQ_CTRL.RUNAHEAD_EN))
  let s := s.wr r F.SEQ_CTRL.RUNAHEAD_DEPTH (pendNat k.seqP.2.1 (s.rd r F.SEQ_CTRL.RUNAHEAD_DEPTH))
  let s := s.wr r F.SEQ_CTRL.SPEC_HBM_EN (pendNat k.seqP.2.2 (s.rd r F.SEQ_CTRL.SPEC_HBM_EN))
  s.setCore p { s.core p with seqP := (none, none, none) }

/-- Commit the instruction at the program counter; the next one lies at `pc` (R149). -/
def State.commitAt (s : State) (p : Nat) (pc : Word) : State := ((s.setPc p pc).seqBoundary p).stamp (uCore p)

/-- Commit a 64-bit instruction. -/
def State.commit (s : State) (p : Nat) : State := s.commitAt p (s.pc p + 8)

/-- Commit a 128-bit instruction. -/
def State.commit16 (s : State) (p : Nat) : State := s.commitAt p (s.pc p + 16)

/-- Commit with a scalar result. -/
def State.commitReg (s : State) (p : Nat) (rd : SReg) (v : Word) : State := (s.setSreg p rd v).commit p

/-! ### Run-ahead -/

/-- Flush the run-ahead buffer (R37). -/
def State.flushAhead (s : State) (p : Nat) : State :=
  match (s.core p).window with
  | none => s
  | some r => s.setCore p { s.core p with ahead := some { r with buf := [] } }

/-- The instruction at the program counter of core `p` commits as run-ahead expected: what was run ahead after it stays. The data
read early stays buffered. -/
def State.retireAhead (s : State) (p : Nat) : State :=
  match (s.core p).window with
  | none => s
  | some w =>
    let pc := s.pc p
    let left := if w.base = some pc then w.path else (w.path.dropWhile (fun a => a != pc)).drop 1
    s.setCore p { s.core p with ahead := some (if left.isEmpty then { buf := w.buf } else { w with path := left, base := none }) }

/-- The BR at the program counter of core `p` resolves against its prediction: what was run ahead past it is discarded (R36, R154). -/
def State.mispredict (s : State) (p : Nat) : State :=
  match (s.core p).window with
  | none => s
  | some w =>
    (s.setCore p { s.core p with ahead := none }).count (R.SEQ_PERF p) F.SEQ_PERF.SQUASHED_INSNS
      ((w.path.dropWhile (fun a => a != s.pc p)).drop 1).length

/-! ### Drains and resident slots -/

/-- Whether a context has no cube, vector, DMA or splice work left on core `p` (R53). -/
def State.drained (s : State) (p c : Nat) : Bool :=
  let k := s.core p
  let x : Owner := Fin.ofNat 17 c
  k.cubeQ.all (fun e => e.2 != x) && k.upds.all (fun e => e.2 != x) &&
  k.dma.all (fun e => e.2.queue.all (fun q => q.2 != x) &&
    (match e.2.active with | none => true | some (_, y) => y != x)) &&
  (s.ctx c).groups.all (fun g => g.2.phys.val != p || (g.2.queue.isEmpty && g.2.cur.isNone))

/-- Core-local address of a slot's save area: its two highest granules (R54). -/
def State.saveArea (s : State) (p i : Nat) : Nat :=
  (s.rd (R.CORE_SPD_ALLOC p i) F.CORE_SPD_ALLOC.BASE + s.rd (R.CORE_SPD_ALLOC p i) F.CORE_SPD_ALLOC.SIZE - 2) * 0x10000

/-- Write a slot's image to its save area, sealed like any other data (R54). A tile that holds a poisoned vector register is POISON (R123). -/
def State.saveSlot (s : State) (p i : Nat) (m : SaveImage) : State :=
  let a := s.saveArea p i
  let b := m.bytes
  let s := (upto 32).foldl (fun s j =>
    s.spdWrite p none (a + 2048 * j) (slice b (2048 * j) 2048) (bits m.vpoison.toNat (2 * j) 2 != 0)) s
  let s := s.spdWrite p none (a + 0x10000) (b.drop 0x10000) false
  let k := s.core p
  s.setCore p (k.setSlot i { k.slot i with saved := true })

/-- A program begins on core `p`: every engine's shape is one row and zero strides (R161). -/
def Core.freshShapes (k : Core) (i : Nat) : Core :=
  if !(k.slot i).fresh then k else
  { k.setSlot i { k.slot i with fresh := false } with
    dma := k.dma.map (fun e => (e.1, { e.2 with rows := 1, sstr := 0, dstr := 0 })) }

/-- Give slot `i` of core `p` the core, with the state of an image (R53, R172). -/
def State.runSlot (s : State) (p i : Nat) (m : SaveImage) : State :=
  let s := s.setCore p { (s.core p).freshShapes i with
    load := none, wait := none, ahead := none, fetched := [], yielding := false }
  let s := s.putImage p m
  ((s.wr (R.CORE_STATUS p) F.CORE_STATUS.ACTIVE_SLOT i).setCoreState p csRunning).stamp (uCore p)

/-- Read the vector registers of a save image: a register whose half tile arrives poisoned is poisoned (R123). The answer's second part
holds the poison bits. -/
def State.imagePoison (s : State) (p : Nat) (c : Option Nat) (a : Nat) : State × Nat :=
  (upto 32).foldl (fun (x : State × Nat) j =>
    let (s, _, po) := x.1.spdRead p c (a + 2048 * j) 2048
    (s, if po then x.2 + 3 * 2 ^ (2 * j) else x.2)) (s, 0)

/-- Resume a slot from its save area (R53). Poison in the image, or a seal of it that fails, poisons only the restored context, which
consumes it (R54, R318): the vector engine where it restores a register, else the core. -/
def State.restoreSlot (s : State) (p i : Nat) (sealFail : Bool) : State :=
  let a := s.saveArea p i
  let c := s.resident p i
  let (s, vp) := s.imagePoison p c a
  let (s, _, po) := s.spdRead p c (a + 0x10000) 0x4800
  let d := Memory.read (s.core p).spd.bytes a 0x14800
  let k := s.core p
  let s := s.setCore p (k.setSlot i { k.slot i with saved := false })
  let s := s.runSlot p i { imageFrom d with vpoison := BitVec.ofNat 64 vp }
  match c with
  | none => s
  | some c =>
    let s := if sealFail then s.storageFail p (uCore p) (some c) a else s
    if sealFail || po || vp ≠ 0 then s.raise c cPoisonConsumed (if vp ≠ 0 then uVec p else uCore p) a 0 else s

/-- Whether a slot of core `p` holds a program that can be resumed: started, saved, not halted, not being reset (R53). -/
def State.runnable (s : State) (p i : Nat) : Bool :=
  match s.resident p i with
  | none => false
  | some c =>
    let x := (s.core p).slot i
    x.started && x.saved && !x.halted && !(s.ctx c).fenced

/-- The running program of core `p` has ended and its work has drained: the core idles. Only a CTL.YIELD switches to the other slot (R53). -/
def State.handOver (s : State) (p : Nat) : State :=
  let i := s.activeSlot p
  match s.resident p i with
  | none => s
  | some c =>
    if s.coreState p = csRunning && ((s.core p).slot i).halted && s.drained p c then s.setCoreState p csIdle else s

end Sys2Proof.Machine
end

