-- ==== Sys2Proof/Machine/Tis.lean ====
section
/-!
DEFINITION. The TIS words of an instruction (R143 to R166): `encodeTis` writes them, `decodeTis` reads them. The image check of
R171 decodes code sections with it. The 64 bits of a first word hold CLASS in [63:60] and OP in [59:52]; a second word holds
bits [127:64] and its bits [127:124] are 0xF (R145).
-/
namespace Sys2Proof.Machine

/-- A one-bit field. -/
def bit (b : Bool) : Nat := if b then 1 else 0

/-- CLASS and OP of a first word (Table 44, R144). -/
def head (cls op : Nat) : Nat := cls * 2 ^ 60 + op * 2 ^ 52

/-- The register fields of the R layout (Table 45). -/
def regFields (rd ra rb rc : Nat) : Nat := rd * 2 ^ 46 + ra * 2 ^ 40 + rb * 2 ^ 34 + rc * 2 ^ 28

/-- MODA, MODB or MODC: ABS in the low bit, FIN in the high bit (R157). -/
def modCode (m : VMod) : Nat := bit m.abs + 2 * bit m.fin

def msizeCode : MSize → Nat
  | .b1 => 0 | .b2 => 1 | .b4 => 2 | .b8 => 3
def msizeOf (n : Nat) : MSize := if n = 0 then .b1 else if n = 1 then .b2 else if n = 2 then .b4 else .b8
/-- Bytes of an access (R151). -/
def msizeBytes : MSize → Nat
  | .b1 => 1 | .b2 => 2 | .b4 => 4 | .b8 => 8
def spaceCode : Space → Nat
  | .spd => 0 | .mem => 1
def spaceOf (n : Nat) : Space := if n = 0 then .spd else .mem
def condCode : Cond → Nat
  | .eq => 0 | .ne => 1 | .lt => 2 | .ge => 3 | .ltu => 4 | .geu => 5
def condOf (n : Nat) : Option Cond :=
  match n with
  | 0 => some .eq | 1 => some .ne | 2 => some .lt | 3 => some .ge | 4 => some .ltu | 5 => some .geu | _ => none
def scopeCode : FScope → Nat
  | .core => 0 | .chip => 1 | .fabric => 2
def scopeOf (n : Nat) : Option FScope :=
  match n with
  | 0 => some .core | 1 => some .chip | 2 => some .fabric | _ => none
def relCode : Rel → Nat
  | .eq => 0 | .ne => 1 | .lt => 2 | .le => 3
def relOf (n : Nat) : Rel := if n = 0 then .eq else if n = 1 then .ne else if n = 2 then .lt else .le
def redCode : RedOp → Nat
  | .sum => 0 | .max => 1 | .min => 2 | .and => 3 | .or => 4 | .xor => 5 | .iadd => 6
def redOf (n : Nat) : Option RedOp :=
  match n with
  | 0 => some .sum | 1 => some .max | 2 => some .min | 3 => some .and | 4 => some .or | 5 => some .xor | 6 => some .iadd
  | _ => none
def kindCode : TelKind → Nat
  | .produced => 0 | .overflow => 1 | .vanish => 2 | .subnormal => 3
def kindOf (n : Nat) : TelKind := if n = 0 then .produced else if n = 1 then .overflow else if n = 2 then .vanish else .subnormal

/-- The first word of an M-layout instruction (R151). -/
def mWord (cls op rd ra size space : Nat) (off : BitVec 32) : Nat :=
  head cls op + rd * 2 ^ 46 + ra * 2 ^ 40 + size * 2 ^ 38 + space * 2 ^ 37 + off.toNat

/-- The OP field of a CVT instruction (R159). -/
def cvtOp (kind : Nat) (d : Cvt) : Nat :=
  kind * 64 + bit d.minmax * 32 + bit d.reg * 16 + bit d.strided * 8 + bit d.s32 * 4 + bit d.pair * 2 + bit d.sord

/-- The word of a CVT instruction (R159). -/
def cvtWord (kind : Nat) (d : Cvt) : Nat :=
  head 6 (cvtOp kind d) + regFields d.rd.val d.ra.val d.rb.val d.rc.val + fmtCode d.srcf * 2 ^ 24 + fmtCode d.dstf * 2 ^ 20 +
  d.ss.toNat * 2 ^ 17 + d.ds.toNat * 2 ^ 14 + (match d.ovf with | .sat => 0 | .nonfinite => 1) * 2 ^ 13 +
  d.tag.toNat * 2 ^ 7 + d.soff.toNat

/-- The M field of VEC.XFM holds three bits: sizes 4 to 7 stand for themselves, and 0 with HAD = 1 stands for 8 (log entry 23). -/
def xfmM (d : VecXfm) : Nat := d.m.toNat % 8

/-- First word of an SPL instruction (Table 55). -/
def splWord (op : Nat) (d : Spl) : Nat :=
  head 7 op + d.group.val * 2 ^ 44 + d.kind.toNat * 2 ^ 40 + d.fmt.toNat * 2 ^ 36 + d.rs.val * 2 ^ 30 + d.rdst.val * 2 ^ 24 +
  d.rl.val * 2 ^ 18 + bit d.waitEn * 2 ^ 17 + d.wcell.toNat * 2 ^ 7 + d.rt.val * 2

/-- Second word of an SPL instruction (Table 55). -/
def splWord2 (d : Spl) : Nat :=
  0xF * 2 ^ 60 + d.soff.toNat * 2 ^ 40 + d.doff.toNat * 2 ^ 20 + d.icell.toNat * 2 ^ 10 + d.amount.toNat

/-- The words of an instruction: the first, and the second of a 128-bit instruction. None for a command that is no instruction. -/
def encodeTis : Instr → Option (Nat × Option Nat)
  | .sclAdd _ rd ra rb => some (head 0 0x00 + regFields rd.val ra.val rb.val 0, none)
  | .sclSub _ rd ra rb => some (head 0 0x01 + regFields rd.val ra.val rb.val 0, none)
  | .sclMul _ rd ra rb => some (head 0 0x02 + regFields rd.val ra.val rb.val 0, none)
  | .sclAnd _ rd ra rb => some (head 0 0x03 + regFields rd.val ra.val rb.val 0, none)
  | .sclOr _ rd ra rb => some (head 0 0x04 + regFields rd.val ra.val rb.val 0, none)
  | .sclXor _ rd ra rb => some (head 0 0x05 + regFields rd.val ra.val rb.val 0, none)
  | .sclShl _ rd ra rb => some (head 0 0x06 + regFields rd.val ra.val rb.val 0, none)
  | .sclShr _ rd ra rb => some (head 0 0x07 + regFields rd.val ra.val rb.val 0, none)
  | .sclSar _ rd ra rb => some (head 0 0x08 + regFields rd.val ra.val rb.val 0, none)
  | .sclSlt _ rd ra rb => some (head 0 0x09 + regFields rd.val ra.val rb.val 0, none)
  | .sclSltu _ rd ra rb => some (head 0 0x0A + regFields rd.val ra.val rb.val 0, none)
  | .sclAddi _ rd ra imm => some (head 0 0x10 + rd.val * 2 ^ 46 + ra.val * 2 ^ 40 + imm.toNat, none)
  | .sclAndi _ rd ra imm => some (head 0 0x11 + rd.val * 2 ^ 46 + ra.val * 2 ^ 40 + imm.toNat, none)
  | .sclOri _ rd ra imm => some (head 0 0x12 + rd.val * 2 ^ 46 + ra.val * 2 ^ 40 + imm.toNat, none)
  | .sclXori _ rd ra imm => some (head 0 0x13 + rd.val * 2 ^ 46 + ra.val * 2 ^ 40 + imm.toNat, none)
  | .sclSlti _ rd ra imm => some (head 0 0x17 + rd.val * 2 ^ 46 + ra.val * 2 ^ 40 + imm.toNat, none)
  | .sclShli _ rd ra count => some (head 0 0x14 + rd.val * 2 ^ 46 + ra.val * 2 ^ 40 + count.toNat, none)
  | .sclShri _ rd ra count => some (head 0 0x15 + rd.val * 2 ^ 46 + ra.val * 2 ^ 40 + count.toNat, none)
  | .sclSari _ rd ra count => some (head 0 0x16 + rd.val * 2 ^ 46 + ra.val * 2 ^ 40 + count.toNat, none)
  | .sclLi _ rd imm => some (head 0 0x18 + rd.val * 2 ^ 46 + imm.toNat, none)
  | .sclLih _ rd ra imm => some (head 0 0x19 + rd.val * 2 ^ 46 + ra.val * 2 ^ 40 + imm.toNat, none)
  | .sclLd _ rd ra size space off => some (mWord 0 0x20 rd.val ra.val (msizeCode size) (spaceCode space) off, none)
  | .sclLds _ rd ra size space off => some (mWord 0 0x21 rd.val ra.val (msizeCode size) (spaceCode space) off, none)
  | .sclSt _ rd ra size space off => some (mWord 0 0x28 rd.val ra.val (msizeCode size) (spaceCode space) off, none)
  | .sclInfo _ rd sel => some (head 0 0x30 + rd.val * 2 ^ 46 + sel.toNat, none)
  | .ctlNop _ => some (head 1 0x00, none)
  | .ctlBr _ c hint ra rb off => some (head 1 0x01 + condCode c * 2 ^ 49 + bit hint * 2 ^ 48 + ra.val * 2 ^ 40 + rb.val * 2 ^ 34 + off.toNat, none)
  | .ctlJmp _ rd off => some (head 1 0x02 + rd.val * 2 ^ 46 + off.toNat, none)
  | .ctlJr _ rd ra => some (head 1 0x03 + rd.val * 2 ^ 46 + ra.val * 2 ^ 40, none)
  | .ctlStep _ => some (head 1 0x08, none)
  | .ctlYield _ => some (head 1 0x09, none)
  | .ctlHalt _ => some (head 1 0x0A, none)
  | .ctlFence _ scope => some (head 1 0x0B + scopeCode scope, none)
  | .ctlSeth _ ra => some (head 1 0x10 + ra.val * 2 ^ 40, none)
  | .ctlReth _ => some (head 1 0x11, none)
  | .blyInc _ cell ra imm => some (head 2 0x00 + ra.val * 2 ^ 40 + cell.toNat * 2 ^ 18 + imm.toNat, none)
  | .blyInca _ ra rb imm => some (head 2 0x01 + ra.val * 2 ^ 40 + rb.val * 2 ^ 34 + imm.toNat, none)
  | .blyWait _ cell rb rc coll => some (head 2 0x02 + rb.val * 2 ^ 34 + rc.val * 2 ^ 28 + cell.toNat * 2 ^ 18 + bit coll * 2 ^ 17, none)
  | .blyRead _ rd cell => some (head 2 0x03 + rd.val * 2 ^ 46 + cell.toNat * 2 ^ 18, none)
  | .dmaCopy _ d => some (head 3 0x00 + d.eng.val * 2 ^ 50 + spaceCode d.ssp * 2 ^ 49 + spaceCode d.dsp * 2 ^ 48 + d.rs.val * 2 ^ 42 + d.rdst.val * 2 ^ 36 + d.rl.val * 2 ^ 30 + d.rt.val * 2 ^ 24 + bit d.waitEn * 2 ^ 23 + d.wcell.toNat * 2 ^ 12 + d.icell.toNat * 2 ^ 2 + bit d.shaped * 2, some (0xF * 2 ^ 60 + d.soff.toNat * 2 ^ 40 + d.doff.toNat * 2 ^ 20 + d.amount.toNat * 2 ^ 4))
  | .dmaShape _ eng rn rss rds => some (head 3 0x01 + eng.val * 2 ^ 50 + rn.val * 2 ^ 42 + rss.val * 2 ^ 36 + rds.val * 2 ^ 30, some (0xF * 2 ^ 60))
  | .cubLds _ d => some (head 4 0x00 + d.mask.toNat * 2 ^ 36 + d.slot.val * 2 ^ 35 + fmtCode d.fmt * 2 ^ 31 + d.ra.val * 2 ^ 25, some (0xF * 2 ^ 60 + d.boff.toNat * 2 ^ 34 + d.bstr.toNat * 2 ^ 18))
  | .cubLdsc _ d => some (head 4 0x01 + d.mask.toNat * 2 ^ 36 + d.slot.val * 2 ^ 35 + d.ring.val * 2 ^ 32 + fmtCode d.fmt * 2 ^ 28 + bit d.s32 * 2 ^ 27 + bit d.ldB * 2 ^ 26 + bit d.ldA * 2 ^ 25 + d.rbB.val * 2 ^ 19 + d.rbA.val * 2 ^ 13, some (0xF * 2 ^ 60 + d.bsoff.toNat * 2 ^ 40 + d.asoff.toNat * 2 ^ 20))
  | .cubMma _ d => some (head 4 0x02 + d.mask.toNat * 2 ^ 36 + d.slot.val * 2 ^ 35 + d.ring.val * 2 ^ 32 + bit d.start * 2 ^ 31 + bit d.sr * 2 ^ 30 + fmtCode d.fmtA * 2 ^ 26 + fmtCode d.fmtB * 2 ^ 22 + bit d.scaA * 2 ^ 21 + bit d.scaB * 2 ^ 20 + bit d.s32 * 2 ^ 19 + d.ra.val * 2 ^ 13, some (0xF * 2 ^ 60 + d.aoff.toNat * 2 ^ 34 + d.mstr.toNat * 2 ^ 18 + d.kstr.toNat * 2 ^ 2))
  | .cubDrain _ d => some (head 4 0x03 + d.mask.toNat * 2 ^ 36 + bit d.clear * 2 ^ 35 + d.ra.val * 2 ^ 29, some (0xF * 2 ^ 60 + d.doff.toNat * 2 ^ 34))
  | .vecAdd _ f rd ra rb ma mb _ => some (head 5 0x00 + regFields rd.val ra.val rb.val 0 + fmtCode f * 2 ^ 24 + modCode ma * 2 ^ 22 + modCode mb * 2 ^ 20, none)
  | .vecSub _ f rd ra rb ma mb _ => some (head 5 0x01 + regFields rd.val ra.val rb.val 0 + fmtCode f * 2 ^ 24 + modCode ma * 2 ^ 22 + modCode mb * 2 ^ 20, none)
  | .vecMul _ f rd ra rb ma mb _ => some (head 5 0x02 + regFields rd.val ra.val rb.val 0 + fmtCode f * 2 ^ 24 + modCode ma * 2 ^ 22 + modCode mb * 2 ^ 20, none)
  | .vecMax _ f rd ra rb ma mb _ => some (head 5 0x04 + regFields rd.val ra.val rb.val 0 + fmtCode f * 2 ^ 24 + modCode ma * 2 ^ 22 + modCode mb * 2 ^ 20, none)
  | .vecMin _ f rd ra rb ma mb _ => some (head 5 0x05 + regFields rd.val ra.val rb.val 0 + fmtCode f * 2 ^ 24 + modCode ma * 2 ^ 22 + modCode mb * 2 ^ 20, none)
  | .vecFma _ f rd ra rb rc ma mb mc _ => some (head 5 0x03 + regFields rd.val ra.val rb.val rc.val + fmtCode f * 2 ^ 24 + modCode ma * 2 ^ 22 + modCode mb * 2 ^ 20 + modCode mc * 2 ^ 18, none)
  | .vecIadd _ rd ra rb _ => some (head 5 0x08 + regFields rd.val ra.val rb.val 0 + 10 * 2 ^ 24, none)
  | .vecIsub _ rd ra rb _ => some (head 5 0x09 + regFields rd.val ra.val rb.val 0 + 10 * 2 ^ 24, none)
  | .vecImul _ rd ra rb _ => some (head 5 0x0A + regFields rd.val ra.val rb.val 0 + 10 * 2 ^ 24, none)
  | .vecAnd _ rd ra rb _ => some (head 5 0x0B + regFields rd.val ra.val rb.val 0 + 10 * 2 ^ 24, none)
  | .vecOr _ rd ra rb _ => some (head 5 0x0C + regFields rd.val ra.val rb.val 0 + 10 * 2 ^ 24, none)
  | .vecXor _ rd ra rb _ => some (head 5 0x0D + regFields rd.val ra.val rb.val 0 + 10 * 2 ^ 24, none)
  | .vecShl _ rd ra rb _ => some (head 5 0x0F + regFields rd.val ra.val rb.val 0 + 10 * 2 ^ 24, none)
  | .vecShr _ rd ra rb _ => some (head 5 0x10 + regFields rd.val ra.val rb.val 0 + 10 * 2 ^ 24, none)
  | .vecSar _ rd ra rb _ => some (head 5 0x11 + regFields rd.val ra.val rb.val 0 + 10 * 2 ^ 24, none)
  | .vecNot _ rd ra _ => some (head 5 0x0E + regFields rd.val ra.val 0 0 + 10 * 2 ^ 24, none)
  | .vecCmp _ f rel rd ra rb _ => some (head 5 0x18 + regFields rd.val ra.val rb.val 0 + fmtCode f * 2 ^ 24 + relCode rel * 2 ^ 16, none)
  | .vecSel _ rd ra rb rc _ => some (head 5 0x19 + regFields rd.val ra.val rb.val rc.val + 10 * 2 ^ 24, none)
  | .vecClass _ f sl rd ra _ => some (head 5 0x1A + regFields rd.val ra.val 0 0 + fmtCode f * 2 ^ 24 + sl.val * 2 ^ 8, none)
  | .vecRcp _ rd ra _ => some (head 5 0x20 + regFields rd.val ra.val 0 0, none)
  | .vecRsq _ rd ra _ => some (head 5 0x21 + regFields rd.val ra.val 0 0, none)
  | .vecExp2 _ rd ra _ => some (head 5 0x22 + regFields rd.val ra.val 0 0, none)
  | .vecLog2 _ rd ra _ => some (head 5 0x23 + regFields rd.val ra.val 0 0, none)
  | .vecRed _ f op k rd ra _ => some (head 5 0x28 + regFields rd.val ra.val 0 0 + fmtCode f * 2 ^ 24 + redCode op * 2 ^ 13 + k.toNat * 2 ^ 9, none)
  | .vecXfm _ d _ => some (head 5 0x30 + regFields d.rd.val d.ra.val d.rb.val d.rc.val + bit d.perm * 2 ^ 27 + bit d.smooth * 2 ^ 26 + bit d.had * 2 ^ 25 + xfmM d * 2 ^ 22 + d.h.toNat * 2 ^ 18, none)
  | .vecLd _ rd ra off => some (mWord 5 0x38 rd.val ra.val 0 0 off, none)
  | .vecLd2 _ rd ra off => some (mWord 5 0x39 rd.val ra.val 0 0 off, none)
  | .vecSt _ rd ra off _ => some (mWord 5 0x3A rd.val ra.val 0 0 off, none)
  | .vecSt2 _ rd ra off _ => some (mWord 5 0x3B rd.val ra.val 0 0 off, none)
  | .cvtF _ d _ => some (cvtWord 0 d, none)
  | .cvtQ _ d _ => some (cvtWord 1 d, none)
  | .cvtQsc _ d _ => some (cvtWord 2 d, none)
  | .cvtDq _ d _ => some (cvtWord 3 d, none)
  | .splRun _ d => some (splWord 0 d, some (splWord2 d))
  | .splBatch _ d => some (splWord 1 d, some (splWord2 d))
  | .splCounts _ d => some (splWord 2 d, some (splWord2 d))
  | .chkState _ rd ra space off => some (mWord 8 0x00 rd.val ra.val 0 (spaceCode space) off, none)
  | .chkVerify _ rd ra rb => some (head 8 0x01 + regFields rd.val ra.val rb.val 0, none)
  | .scaLsget _ rd => some (head 9 0x00 + rd.val * 2 ^ 46, none)
  | .scaLsupd _ ra => some (head 9 0x01 + ra.val * 2 ^ 40, none)
  | .scaHrec _ ra rb => some (head 9 0x08 + ra.val * 2 ^ 40 + rb.val * 2 ^ 34, none)
  | .scaHget _ rd ra => some (head 9 0x09 + rd.val * 2 ^ 46 + ra.val * 2 ^ 40, none)
  | .scaTread _ rd tag f kind => some (head 9 0x10 + rd.val * 2 ^ 46 + tag.toNat * 2 ^ 22 + f.toNat * 2 ^ 18 + kindCode kind * 2 ^ 16, none)
  | _ => none

/-- Bytes of an instruction whose first word is `w` (Table 44): 8 or 16, 0 for a reserved class. -/
def tisBytes (w : Nat) : Nat :=
  let c := bits w 60 4
  if c = 3 ∨ c = 4 ∨ c = 7 then 16 else if c ≤ 9 then 8 else 0

/-- Bytes an instruction occupies (R143). -/
def instrBytes (i : Instr) : Nat :=
  match encodeTis i with
  | some (_, some _) => 16
  | _ => 8

def fr (w lo : Nat) : SReg := Fin.ofNat 32 (bits w lo 5)
def vr (w lo : Nat) : VReg := Fin.ofNat 64 (bits w lo 6)
def bv (n w lo : Nat) : BitVec n := BitVec.ofNat n (bits w lo n)
def fl (w lo : Nat) : Bool := bits w lo 1 == 1
def vmod (w lo : Nat) : VMod := { abs := fl w lo, fin := fl w (lo + 1) }
def noFault : VFault := { lane := 0, err := 0, parity := false }
/-- `f` of the format in `[lo + 3 : lo]`, if the code is not reserved. -/
def withFmt (w lo : Nat) (f : Fmt → Instr) : Option Instr := (fmtOf (bits w lo 4)).map f
/-- RING codes 0 to 4 (R162). -/
def withRing (w : Nat) (f : Fin 5 → Option Instr) : Option Instr :=
  if h : bits w 32 3 < 5 then f ⟨bits w 32 3, h⟩ else none

/-- SCL instructions (Table 46). -/
def decodeScl (p : CoreId) (w : Nat) : Option Instr :=
  let rd := fr w 46
  let ra := fr w 40
  let rb := fr w 34
  match bits w 52 8 with
  | 0x00 => some (.sclAdd p rd ra rb)
  | 0x01 => some (.sclSub p rd ra rb)
  | 0x02 => some (.sclMul p rd ra rb)
  | 0x03 => some (.sclAnd p rd ra rb)
  | 0x04 => some (.sclOr p rd ra rb)
  | 0x05 => some (.sclXor p rd ra rb)
  | 0x06 => some (.sclShl p rd ra rb)
  | 0x07 => some (.sclShr p rd ra rb)
  | 0x08 => some (.sclSar p rd ra rb)
  | 0x09 => some (.sclSlt p rd ra rb)
  | 0x0A => some (.sclSltu p rd ra rb)
  | 0x10 => some (.sclAddi p rd ra (bv 40 w 0))
  | 0x11 => some (.sclAndi p rd ra (bv 40 w 0))
  | 0x12 => some (.sclOri p rd ra (bv 40 w 0))
  | 0x13 => some (.sclXori p rd ra (bv 40 w 0))
  | 0x17 => some (.sclSlti p rd ra (bv 40 w 0))
  | 0x14 => some (.sclShli p rd ra (bv 6 w 0))
  | 0x15 => some (.sclShri p rd ra (bv 6 w 0))
  | 0x16 => some (.sclSari p rd ra (bv 6 w 0))
  | 0x18 => some (.sclLi p rd (bv 40 w 0))
  | 0x19 => some (.sclLih p rd ra (bv 24 w 0))
  | 0x20 => some (.sclLd p rd ra (msizeOf (bits w 38 2)) (spaceOf (bits w 37 1)) (bv 32 w 0))
  | 0x21 => some (.sclLds p rd ra (msizeOf (bits w 38 2)) (spaceOf (bits w 37 1)) (bv 32 w 0))
  | 0x28 => some (.sclSt p rd ra (msizeOf (bits w 38 2)) (spaceOf (bits w 37 1)) (bv 32 w 0))
  | 0x30 => some (.sclInfo p rd (bv 4 w 0))
  | _ => none

/-- CTL instructions (Table 48). -/
def decodeCtl (p : CoreId) (w : Nat) : Option Instr :=
  match bits w 52 8 with
  | 0x00 => some (.ctlNop p)
  | 0x01 => (condOf (bits w 49 3)).map (fun c => .ctlBr p c (fl w 48) (fr w 40) (fr w 34) (bv 34 w 0))
  | 0x02 => some (.ctlJmp p (fr w 46) (bv 40 w 0))
  | 0x03 => some (.ctlJr p (fr w 46) (fr w 40))
  | 0x08 => some (.ctlStep p)
  | 0x09 => some (.ctlYield p)
  | 0x0A => some (.ctlHalt p)
  | 0x0B => (scopeOf (bits w 0 2)).map (fun x => .ctlFence p x)
  | 0x10 => some (.ctlSeth p (fr w 40))
  | 0x11 => some (.ctlReth p)
  | _ => none

/-- BLY instructions (Table 49). -/
def decodeBly (p : CoreId) (w : Nat) : Option Instr :=
  match bits w 52 8 with
  | 0x00 => some (.blyInc p (bv 10 w 18) (fr w 40) (bv 18 w 0))
  | 0x01 => some (.blyInca p (fr w 40) (fr w 34) (bv 18 w 0))
  | 0x02 => some (.blyWait p (bv 10 w 18) (fr w 34) (fr w 28) (fl w 17))
  | 0x03 => some (.blyRead p (fr w 46) (bv 10 w 18))
  | _ => none

/-- DMA instructions (Table 53, R161). -/
def decodeDma (p : CoreId) (w v : Nat) : Option Instr :=
  match bits w 52 8 with
  | 0x00 => some (.dmaCopy p {
      eng := Fin.ofNat 4 (bits w 50 2), ssp := spaceOf (bits w 49 1), dsp := spaceOf (bits w 48 1), rs := fr w 42,
      rdst := fr w 36, rl := fr w 30, rt := fr w 24, waitEn := fl w 23, wcell := bv 10 w 12, icell := bv 10 w 2,
      shaped := fl w 1, soff := bv 20 v 40, doff := bv 20 v 20, amount := bv 16 v 4 })
  | 0x01 => some (.dmaShape p (Fin.ofNat 4 (bits w 50 2)) (fr w 42) (fr w 36) (fr w 30))
  | _ => none

/-- CUB instructions (Table 54). -/
def decodeCub (p : CoreId) (w v : Nat) : Option Instr :=
  let mask := bv 16 w 36
  let slot : Fin 2 := Fin.ofNat 2 (bits w 35 1)
  match bits w 52 8 with
  | 0x00 => withFmt w 31 (fun f =>
      .cubLds p { mask := mask, slot := slot, fmt := f, ra := fr w 25, boff := bv 26 v 34, bstr := bv 16 v 18 })
  | 0x01 => withRing w (fun r => withFmt w 28 (fun f =>
      .cubLdsc p { mask := mask, slot := slot, ring := r, fmt := f, s32 := fl w 27, ldB := fl w 26, ldA := fl w 25,
                   rbB := fr w 19, rbA := fr w 13, bsoff := bv 20 v 40, asoff := bv 20 v 20 }))
  | 0x02 => withRing w (fun r => match fmtOf (bits w 26 4), fmtOf (bits w 22 4) with
      | some a, some b => some (
        .cubMma p { mask := mask, slot := slot, ring := r, start := fl w 31, sr := fl w 30, fmtA := a, fmtB := b,
                    scaA := fl w 21, scaB := fl w 20, s32 := fl w 19, ra := fr w 13, aoff := bv 26 v 34, mstr := bv 16 v 18,
                    kstr := bv 16 v 2 })
      | _, _ => none)
  | 0x03 => some (.cubDrain p { mask := mask, clear := fl w 35, ra := fr w 29, doff := bv 26 v 34 })
  | _ => none

/-- VEC instructions (Tables 50 and 51). -/
def decodeVec (p : CoreId) (w : Nat) : Option Instr :=
  let rd := vr w 46
  let ra := vr w 40
  let rb := vr w 34
  let rc := vr w 28
  let ma := vmod w 22
  let mb := vmod w 20
  match bits w 52 8 with
  | 0x00 => withFmt w 24 (fun f => .vecAdd p f rd ra rb ma mb noFault)
  | 0x01 => withFmt w 24 (fun f => .vecSub p f rd ra rb ma mb noFault)
  | 0x02 => withFmt w 24 (fun f => .vecMul p f rd ra rb ma mb noFault)
  | 0x04 => withFmt w 24 (fun f => .vecMax p f rd ra rb ma mb noFault)
  | 0x05 => withFmt w 24 (fun f => .vecMin p f rd ra rb ma mb noFault)
  | 0x03 => withFmt w 24 (fun f => .vecFma p f rd ra rb rc ma mb (vmod w 18) noFault)
  | 0x08 => some (.vecIadd p rd ra rb noFault)
  | 0x09 => some (.vecIsub p rd ra rb noFault)
  | 0x0A => some (.vecImul p rd ra rb noFault)
  | 0x0B => some (.vecAnd p rd ra rb noFault)
  | 0x0C => some (.vecOr p rd ra rb noFault)
  | 0x0D => some (.vecXor p rd ra rb noFault)
  | 0x0F => some (.vecShl p rd ra rb noFault)
  | 0x10 => some (.vecShr p rd ra rb noFault)
  | 0x11 => some (.vecSar p rd ra rb noFault)
  | 0x0E => some (.vecNot p rd ra noFault)
  | 0x18 => withFmt w 24 (fun f => .vecCmp p f (relOf (bits w 16 2)) rd ra rb noFault)
  | 0x19 => some (.vecSel p rd ra rb rc noFault)
  | 0x1A => withFmt w 24 (fun f => .vecClass p f (Fin.ofNat 2 (bits w 8 1)) rd ra noFault)
  | 0x20 => some (.vecRcp p rd ra noFault)
  | 0x21 => some (.vecRsq p rd ra noFault)
  | 0x22 => some (.vecExp2 p rd ra noFault)
  | 0x23 => some (.vecLog2 p rd ra noFault)
  | 0x28 => (redOf (bits w 13 3)).bind (fun o => withFmt w 24 (fun f => .vecRed p f o (bv 4 w 9) rd ra noFault))
  | 0x30 => some (.vecXfm p {
      rd := rd, ra := ra, rb := rb, rc := rc, perm := fl w 27, smooth := fl w 26, had := fl w 25,
      m := if bits w 22 3 = 0 ∧ fl w 25 then 8 else bv 4 (bits w 22 3) 0, h := bv 4 w 18 } noFault)
  | 0x38 => some (.vecLd p rd (fr w 40) (bv 32 w 0))
  | 0x39 => some (.vecLd2 p rd (fr w 40) (bv 32 w 0))
  | 0x3A => some (.vecSt p rd (fr w 40) (bv 32 w 0) false)
  | 0x3B => some (.vecSt2 p rd (fr w 40) (bv 32 w 0) false)
  | _ => none

/-- CVT instructions (R159). -/
def decodeCvt (p : CoreId) (w : Nat) : Option Instr :=
  match fmtOf (bits w 24 4), fmtOf (bits w 20 4) with
  | some sf, some df =>
    let d : Cvt := {
      rd := vr w 46, ra := vr w 40, rb := vr w 34, rc := vr w 28, minmax := fl w 57, reg := fl w 56, strided := fl w 55,
      s32 := fl w 54, pair := fl w 53, sord := fl w 52, srcf := sf, dstf := df, ss := bv 3 w 17, ds := bv 3 w 14,
      ovf := if fl w 13 then .nonfinite else .sat, tag := bv 6 w 7, soff := bv 7 w 0 }
    some (match bits w 58 2 with
      | 0 => .cvtF p d false
      | 1 => .cvtQ p d false
      | 2 => .cvtQsc p d false
      | _ => .cvtDq p d false)
  | _, _ => none

/-- SPL instructions (Table 55). -/
def decodeSpl (p : CoreId) (w v : Nat) : Option Instr :=
  let d : Spl := {
    group := Fin.ofNat 256 (bits w 44 8), kind := bv 4 w 40, fmt := bv 4 w 36, rs := fr w 30, rdst := fr w 24, rl := fr w 18,
    waitEn := fl w 17, wcell := bv 10 w 7, rt := fr w 1, soff := bv 20 v 40, doff := bv 20 v 20, icell := bv 10 v 10,
    amount := bv 10 v 0 }
  match bits w 52 8 with
  | 0x00 => some (.splRun p d)
  | 0x01 => some (.splBatch p d)
  | 0x02 => some (.splCounts p d)
  | _ => none

/-- CHK instructions (R165). -/
def decodeChk (p : CoreId) (w : Nat) : Option Instr :=
  match bits w 52 8 with
  | 0x00 => some (.chkState p (fr w 46) (fr w 40) (spaceOf (bits w 37 1)) (bv 32 w 0))
  | 0x01 => some (.chkVerify p (fr w 46) (fr w 40) (fr w 34))
  | _ => none

/-- SCA instructions (Table 56). -/
def decodeSca (p : CoreId) (w : Nat) : Option Instr :=
  match bits w 52 8 with
  | 0x00 => some (.scaLsget p (fr w 46))
  | 0x01 => some (.scaLsupd p (fr w 40))
  | 0x08 => some (.scaHrec p (fr w 40) (fr w 34))
  | 0x09 => some (.scaHget p (fr w 46) (fr w 40))
  | 0x10 => some (.scaTread p (fr w 46) (bv 6 w 22) (bv 4 w 18) (kindOf (bits w 16 2)))
  | _ => none

/-- Read the fields of an instruction from its words. -/
def decodeFields (p : CoreId) (w v : Nat) : Option Instr :=
  match bits w 60 4 with
  | 0 => decodeScl p w
  | 1 => decodeCtl p w
  | 2 => decodeBly p w
  | 3 => decodeDma p w v
  | 4 => decodeCub p w v
  | 5 => decodeVec p w
  | 6 => decodeCvt p w
  | 7 => decodeSpl p w v
  | 8 => decodeChk p w
  | 9 => decodeSca p w
  | _ => none

/-- The instruction that core `p` reads from a first word `w` and the word `v` after it. An encoding is legal if its fields
are, and if no bit of its words is left that the fields do not name (R147, R167). -/
def decodeTis (p : CoreId) (w v : Nat) : Option Instr :=
  match decodeFields p w v with
  | none => none
  | some i =>
    if i.wellFormed && encodeTis i == some (w, if tisBytes w = 16 then some v else none) then some i else none

/-- The same instruction with no hardware check failing: what its words say. -/
def quiet (p : CoreId) : Instr → Instr
  | .sclAdd _ rd ra rb => .sclAdd p rd ra rb
  | .sclSub _ rd ra rb => .sclSub p rd ra rb
  | .sclMul _ rd ra rb => .sclMul p rd ra rb
  | .sclAnd _ rd ra rb => .sclAnd p rd ra rb
  | .sclOr _ rd ra rb => .sclOr p rd ra rb
  | .sclXor _ rd ra rb => .sclXor p rd ra rb
  | .sclShl _ rd ra rb => .sclShl p rd ra rb
  | .sclShr _ rd ra rb => .sclShr p rd ra rb
  | .sclSar _ rd ra rb => .sclSar p rd ra rb
  | .sclSlt _ rd ra rb => .sclSlt p rd ra rb
  | .sclSltu _ rd ra rb => .sclSltu p rd ra rb
  | .sclAddi _ rd ra imm => .sclAddi p rd ra imm
  | .sclAndi _ rd ra imm => .sclAndi p rd ra imm
  | .sclOri _ rd ra imm => .sclOri p rd ra imm
  | .sclXori _ rd ra imm => .sclXori p rd ra imm
  | .sclShli _ rd ra count => .sclShli p rd ra count
  | .sclShri _ rd ra count => .sclShri p rd ra count
  | .sclSari _ rd ra count => .sclSari p rd ra count
  | .sclSlti _ rd ra imm => .sclSlti p rd ra imm
  | .sclLi _ rd imm => .sclLi p rd imm
  | .sclLih _ rd ra imm => .sclLih p rd ra imm
  | .sclLd _ rd ra size space off => .sclLd p rd ra size space off
  | .sclLds _ rd ra size space off => .sclLds p rd ra size space off
  | .sclSt _ rd ra size space off => .sclSt p rd ra size space off
  | .sclInfo _ rd sel => .sclInfo p rd sel
  | .ctlNop _ => .ctlNop p
  | .ctlBr _ cond hint ra rb off => .ctlBr p cond hint ra rb off
  | .ctlJmp _ rd off => .ctlJmp p rd off
  | .ctlJr _ rd ra => .ctlJr p rd ra
  | .ctlStep _ => .ctlStep p
  | .ctlYield _ => .ctlYield p
  | .ctlHalt _ => .ctlHalt p
  | .ctlFence _ scope => .ctlFence p scope
  | .ctlSeth _ ra => .ctlSeth p ra
  | .ctlReth _ => .ctlReth p
  | .blyInc _ cell ra imm => .blyInc p cell ra imm
  | .blyInca _ ra rb imm => .blyInca p ra rb imm
  | .blyWait _ cell rb rc coll => .blyWait p cell rb rc coll
  | .blyRead _ rd cell => .blyRead p rd cell
  | .dmaCopy _ d => .dmaCopy p d
  | .dmaShape _ eng rn rss rds => .dmaShape p eng rn rss rds
  | .cubLds _ d => .cubLds p d
  | .cubLdsc _ d => .cubLdsc p d
  | .cubMma _ d => .cubMma p d
  | .cubDrain _ d => .cubDrain p d
  | .vecAdd _ fmt rd ra rb ma mb _ => .vecAdd p fmt rd ra rb ma mb noFault
  | .vecSub _ fmt rd ra rb ma mb _ => .vecSub p fmt rd ra rb ma mb noFault
  | .vecMul _ fmt rd ra rb ma mb _ => .vecMul p fmt rd ra rb ma mb noFault
  | .vecFma _ fmt rd ra rb rc ma mb mc _ => .vecFma p fmt rd ra rb rc ma mb mc noFault
  | .vecMax _ fmt rd ra rb ma mb _ => .vecMax p fmt rd ra rb ma mb noFault
  | .vecMin _ fmt rd ra rb ma mb _ => .vecMin p fmt rd ra rb ma mb noFault
  | .vecIadd _ rd ra rb _ => .vecIadd p rd ra rb noFault
  | .vecIsub _ rd ra rb _ => .vecIsub p rd ra rb noFault
  | .vecImul _ rd ra rb _ => .vecImul p rd ra rb noFault
  | .vecAnd _ rd ra rb _ => .vecAnd p rd ra rb noFault
  | .vecOr _ rd ra rb _ => .vecOr p rd ra rb noFault
  | .vecXor _ rd ra rb _ => .vecXor p rd ra rb noFault
  | .vecNot _ rd ra _ => .vecNot p rd ra noFault
  | .vecShl _ rd ra rb _ => .vecShl p rd ra rb noFault
  | .vecShr _ rd ra rb _ => .vecShr p rd ra rb noFault
  | .vecSar _ rd ra rb _ => .vecSar p rd ra rb noFault
  | .vecCmp _ fmt rel rd ra rb _ => .vecCmp p fmt rel rd ra rb noFault
  | .vecSel _ rd ra rb rc _ => .vecSel p rd ra rb rc noFault
  | .vecClass _ fmt slice rd ra _ => .vecClass p fmt slice rd ra noFault
  | .vecRcp _ rd ra _ => .vecRcp p rd ra noFault
  | .vecRsq _ rd ra _ => .vecRsq p rd ra noFault
  | .vecExp2 _ rd ra _ => .vecExp2 p rd ra noFault
  | .vecLog2 _ rd ra _ => .vecLog2 p rd ra noFault
  | .vecRed _ fmt op k rd ra _ => .vecRed p fmt op k rd ra noFault
  | .vecXfm _ d _ => .vecXfm p d noFault
  | .vecLd _ rd ra off => .vecLd p rd ra off
  | .vecLd2 _ rd ra off => .vecLd2 p rd ra off
  | .vecSt _ rd ra off _ => .vecSt p rd ra off false
  | .vecSt2 _ rd ra off _ => .vecSt2 p rd ra off false
  | .cvtF _ d _ => .cvtF p d false
  | .cvtQ _ d _ => .cvtQ p d false
  | .cvtQsc _ d _ => .cvtQsc p d false
  | .cvtDq _ d _ => .cvtDq p d false
  | .splRun _ d => .splRun p d
  | .splBatch _ d => .splBatch p d
  | .splCounts _ d => .splCounts p d
  | .chkState _ rd ra space off => .chkState p rd ra space off
  | .chkVerify _ rd ra rb => .chkVerify p rd ra rb
  | .scaLsget _ rd => .scaLsget p rd
  | .scaLsupd _ ra => .scaLsupd p ra
  | .scaHrec _ ra rb => .scaHrec p ra rb
  | .scaHget _ rd ra => .scaHget p rd ra
  | .scaTread _ rd tag fmt kind => .scaTread p rd tag fmt kind
  | i => i

end Sys2Proof.Machine
end

