-- ==== Sys2Proof/Machine/Operands.lean ====
section
/-!
DEFINITION. Operand forms of the instructions: sign-extended immediates, M-layout addresses (R151), descriptor bases (R160 to
R164), waits and completion increments, and where an access of the sequencer goes.
-/
namespace Sys2Proof.Machine

/-- A sign-extended immediate. -/
def sext {n : Nat} (x : BitVec n) : Word := x.signExtend 64

/-- The address s[RA] + a signed offset (R151). -/
def State.baseOff (s : State) (p : Nat) (ra : SReg) {n : Nat} (off : BitVec n) : Word := s.sreg p ra + sext off

/-- The target of a branch: `off` 8-byte words from the branch (R153). -/
def State.branchTo (s : State) (p : Nat) {n : Nat} (off : BitVec n) : Word := s.pc p + sext off * 8

/-- The wait of a descriptor: cell and target (R160, R164). -/
def State.waitOf (s : State) (p : Nat) (en : Bool) (cell : BitVec 10) (rt : SReg) : Option (Nat × Word) :=
  if en then some (cell.toNat, s.sreg p rt) else none

/-- The completion increment of a descriptor; an amount of 0 is none (R160, R164). -/
def incOf {n : Nat} (cell : BitVec 10) (amount : BitVec n) : Option (Nat × Nat) :=
  if amount = 0 then none else some (cell.toNat, amount.toNat)

/-- The amount of a belay increment: bits [31:0] of the register, or the immediate where the register field is s0 (R156). -/
def State.blyAmount (s : State) (p : Nat) (r : SReg) (imm : BitVec 18) : Nat :=
  if r = 0 then imm.toNat else bits (s.sreg p r).toNat 0 32

/-- A load's result: zero- or sign-extended (R150). -/
def loadValue (d : List Byte) (n : Nat) (signed : Bool) : Word :=
  let v := leAt d 0 n
  if signed then BitVec.ofInt 64 (sgn (8 * n) v) else BitVec.ofNat 64 v

/-- Raise the context error of an access of the instruction at the program counter that cannot be made (R43, R224). -/
def State.raiseAccess (s : State) (p c a : Nat) (r : DmaAddr) : State :=
  match r with
  | .bounds => s.raiseInsn p c cSpdBounds a 0
  | .fault => s.raiseInsn p c cXlateFault a 0
  | .poisoned => s.raiseInsn p c cPoisonConsumed a 0
  | .blocked => s
  | .at _ => s

/-- A seed takes effect: the register shows it and the counters of the 16 cubes are 0 (R115). -/
def State.applySeed (s : State) (p i : Nat) (seed : BitVec 32) : State :=
  (upto 16).foldl (fun s c => s.wr (R.CUBE_ACC_STATUS p c) F.CUBE_ACC_STATUS.SR_CTR 0)
    (s.wr (R.CUBE_SR_SEED p i) F.CUBE_SR_SEED.SEED seed.toNat)

/-- A misaligned address raises MISALIGNED (R148, R151). -/
def State.raiseMisaligned (s : State) (p c a : Nat) : State := s.raiseInsn p c cMisaligned a 0

/-- Whether an earlier posted store of core `p` to the same tile still waits (R233). -/
def State.storeAhead (s : State) (p : Nat) (t : Target) : Bool :=
  (s.core p).posted.any (fun x => match x.tgt, t with
    | .hbm a, .hbm b => a / 2048 == b / 2048
    | .spd a, .spd b => a / 2048 == b / 2048
    | .remote c a, .remote d b => c == d && a / 2048 == b / 2048
    | .host a, .host b => a / 2048 == b / 2048
    | _, _ => false)

/-- Whether a cube drain issued earlier on core `p`, and not yet done, writes a tile of `n` core-local bytes at `a` (R126). -/
def State.drainAhead (s : State) (p a n : Nat) : Bool :=
  (s.core p).cubeQ.any (fun e => match e.1 with
    | .drain d base => (match s.slotOf p e.2.val with
      | none => false
      | some i => (onesOf d.mask.toNat 16).any (fun c =>
          (tilesOf a n).contains
            ((s.spdBase p i + base + 1024 * c) / 2048)))
    | _ => false)

/-- Whether an access of the sequencer to a target must wait for a cube drain (R126). -/
def State.behindDrain (s : State) (p : Nat) (t : Target) (n : Nat) : Bool :=
  match t with
  | .spd a => s.drainAhead p a n
  | _ => false

end Sys2Proof.Machine
end

