-- ==== Sys2Proof/Machine/Dma.lean ====
section
/-!
DEFINITION. DMA instructions and descriptors (R44 to R47, R160, R161, R424).
-/
namespace Sys2Proof.Machine

/-- Queue a descriptor; a full queue of 32 stalls the sequencer, which does not commit. -/
def State.dmaQueue (s : State) (p e c : Nat) (o : DmaOp) : State :=
  let g := s.dmaEng p e
  if 32 ≤ g.queue.length then s else
  let s := s.setDma p e { g with queue := g.queue ++ [(o, Fin.ofNat 17 c)] }
  let s := if g.queue.isEmpty then s.dmaHead p e else s
  (s.showDma p e).commit16 p

/-- Whether a cell of a descriptor exists. -/
def State.cellOk (s : State) (p : Nat) (used : Bool) (cell : BitVec 10) : Bool :=
  !used || decide (cell.toNat < s.cellCount p (s.runSlotOf p))

/-- DMA.COPY: operands are read and checked at issue (R148, R160). -/
def execDmaCopy (p : CoreId) (d : DmaCopy) (s : State) : Host.Outcome State Fault Refusal :=
  .next (s.issue p (legalDma d) 16 (fun s c =>
    if !s.cellOk p d.waitEn d.wcell || !s.cellOk p (d.amount != 0) d.icell then
      s.raiseInsn p c cIllegalInsn (s.pc p).toNat 0
    else
    let src := s.baseOff p d.rs d.soff
    let dst := s.baseOff p d.rdst d.doff
    let len := (s.sreg p d.rl).toNat
    if src.toNat % 64 ≠ 0 then s.raiseMisaligned p c src.toNat
    else if dst.toNat % 64 ≠ 0 then s.raiseMisaligned p c dst.toNat
    else if len % 64 ≠ 0 ∨ 2 ^ 32 < len then s.raiseMisaligned p c len
    else s.dmaQueue p d.eng.val c
      (.copy d.ssp d.dsp src dst len (s.waitOf p d.waitEn d.wcell d.rt) (incOf d.icell d.amount) d.shaped)))

/-- DMA.SHAPE: strides are multiples of 64 (R161). -/
def execDmaShape (p : CoreId) (eng : DmaId) (rn rss rds : SReg) (s : State) : Host.Outcome State Fault Refusal :=
  .next (s.issue p true 16 (fun s c =>
    let a := s.sreg p rss
    let b := s.sreg p rds
    if a.toNat % 64 ≠ 0 then s.raiseMisaligned p c a.toNat
    else if b.toNat % 64 ≠ 0 then s.raiseMisaligned p c b.toNat
    else s.dmaQueue p eng.val c (.shape (s.sreg p rn) a b)))

/-- Cut `n` bytes into pieces that lie inside one source tile and one destination tile. `fuel` bounds the pieces. -/
def cutRow (ssp dsp : Space) : Nat → Nat → Nat → Nat → List DmaTodo
  | 0, _, _, _ => []
  | f + 1, src, dst, n =>
    if n = 0 then [] else
    let k := min n (min (2048 - src % 2048) (2048 - dst % 2048))
    .piece { ssp := ssp, dsp := dsp, src := src, dst := dst, n := k } ::
      cutRow ssp dsp f ((src + k) % 2 ^ 64) ((dst + k) % 2 ^ 64) (n - k)

/-- The rows of a copy, from row `r` on (R161). -/
def cutRows (ssp dsp : Space) (src dst sstr dstr len : Nat) : Nat → Nat → List DmaTodo
  | 0, _ => []
  | f + 1, r =>
    cutRow ssp dsp (len / 64 + 1) ((src + r * sstr) % 2 ^ 64) ((dst + r * dstr) % 2 ^ 64) len ++
      cutRows ssp dsp src dst sstr dstr len f (r + 1)

/-- Record a completion in DMA_STATUS (R424) and apply the completion increment (R45). DESIGN CHOICE: the descriptor in progress is not in the
queue, and the next one's start wait is timed from the completion on (log entry 79). -/
def State.dmaDone (s : State) (p e c status : Nat) (poison : Bool) (inc : Option (Nat × Nat)) : State :=
  let r := R.DMA_STATUS p e
  let s := (s.wr r F.DMA_STATUS.LAST_STATUS status).count r F.DMA_STATUS.COMPLETED 1
  let s := if poison then s.wr r F.DMA_STATUS.POISON_SEEN 1 else s
  let s := if 2 ≤ status then s.wr r F.DMA_STATUS.FAULT 1 else s
  ((s.dmaHead p e).completeInc c p inc).showDma p e

/-- Start the descriptor at the head of an engine's queue (R44, R45): its pieces are issued as far as they go. -/
def State.dmaStart (s : State) (p e : Nat) : State :=
  let g := s.dmaEng p e
  match g.active, g.queue with
  | none, (o, c) :: rest =>
    if (s.ctx c.val).fenced || !s.dmaReady p c.val o then s else
    match o with
    | .shape rows sstr dstr =>
      (s.setDma p e (if c.val = jigCtx then { g with queue := rest, jig := (rows.toNat, sstr.toNat, dstr.toNat) }
        else { g with queue := rest, rows := rows, sstr := sstr, dstr := dstr })).dmaDone p e c.val 0 false none
    | .copy ssp dsp src dst len _ inc shaped =>
      let (rows, sstr, dstr) := if c.val = jigCtx then g.jig else (g.rows.toNat, g.sstr.toNat, g.dstr.toNat)
      let todo := if shaped then cutRows ssp dsp src.toNat dst.toNat sstr dstr len rows 0
        else cutRow ssp dsp (len / 64 + 1) src.toNat dst.toNat len
      let s := s.setDma p e { g with queue := rest, active := some ({ inc := inc, todo := todo }, c) }
      ((s.dmaHead p e).dmaRun p e).settle.showDma p e
  | _, _ => s

/-- DMA_DESCRIPTOR_START. -/
def execDmaDescriptorStart (p : CoreId) (eng : DmaId) (s : State) : Host.Outcome State Fault Refusal :=
  .next (if s.clocked p then s.dmaStart p eng.val else s)

/-- DMA_WAIT_TIMEOUT: the start wait expires; the descriptor completes with BELAY_TIMEOUT, applies its increment and raises
BELAY_TIMEOUT (R47). -/
def State.dmaExpire (s : State) (p e : Nat) : State :=
  let g := s.dmaEng p e
  match g.active, g.queue with
  | none, (o, c) :: rest =>
    if (s.ctx c.val).fenced || s.dmaReady p c.val o || decide ((s.time - g.since).toNat < g.limit.toNat) then s else
    match o with
    | .copy _ _ _ _ _ _ inc _ =>
      ((s.setDma p e { g with queue := rest }).dmaDone p e c.val 6 false inc).raise c.val cBelayTimeout (uDma p e) 0 0
    | .shape _ _ _ => s
  | _, _ => s

/-- DMA_WAIT_TIMEOUT. -/
def execDmaWaitTimeout (p : CoreId) (eng : DmaId) (s : State) : Host.Outcome State Fault Refusal :=
  .next (s.dmaExpire p eng.val)

/-- The status a descriptor completes with (R424). -/
def dmaStatus (a : DmaActive) : Nat := if a.status ≠ 0 then a.status else if a.wrotePoison then 1 else 0

/-- Complete the descriptor in progress, once nothing of it is left to do or to wait for (R45). A fenced context's descriptor completes with
FENCED, and its increment is refused (R51, Table 115). -/
def State.dmaFinish (s : State) (p e : Nat) : State :=
  match (s.dmaEng p e).active with
  | none => s
  | some _ =>
    let s := (s.dmaRun p e).settle
    match (s.dmaEng p e).active with
    | none => s
    | some (a, c) =>
      if !a.todo.isEmpty || s.dmaWaiting p e ≠ 0 then s.showDma p e else
      ((s.setDma p e { s.dmaEng p e with active := none }).dmaDone p e c.val (dmaStatus a) a.wrotePoison a.inc).handOver p

/-- A context is removed: its descriptor in progress on an engine completes (Table 115, R424). -/
def State.dmaRetire (s : State) (p e c : Nat) : State :=
  match (s.dmaEng p e).active with
  | none => s
  | some (a, x) =>
    if x.val ≠ c then s else
    (s.setDma p e { s.dmaEng p e with active := none }).dmaDone p e c (dmaStatus a.halt) a.wrotePoison a.inc

/-- DMA_COMPLETE. -/
def execDmaComplete (p : CoreId) (eng : DmaId) (s : State) : Host.Outcome State Fault Refusal :=
  .next (if s.clocked p then s.dmaFinish p eng.val else s)

end Sys2Proof.Machine
end

