-- ==== Sys2Proof/Machine/Clamp.lean ====
section
/-!
DEFINITION. The clamp (R384, R401, R402): the core clock of each die, its emergencies, and the set-point handshake with the tray
controller.
-/
namespace Sys2Proof.Machine

/-- The clamp's state for a die. -/
def State.dieClamp (s : State) (d : Nat) : DieClamp := if d = 0 then s.clamp.north else s.clamp.south

/-- Replace the clamp's state for a die. -/
def State.setDieClamp (s : State) (d : Nat) (x : DieClamp) : State :=
  { s with clamp := if d = 0 then { s.clamp with north := x } else { s.clamp with south := x } }

/-- Core clock in force on a die. -/
def State.clock (s : State) (d : Nat) : Nat :=
  s.rd R.CLP_STATUS (if d = 0 then F.CLP_STATUS.CLK_N_MHZ else F.CLP_STATUS.CLK_S_MHZ)

/-- Set the core clock of a die. -/
def State.setClock (s : State) (d v : Nat) : State :=
  s.wr R.CLP_STATUS (if d = 0 then F.CLP_STATUS.CLK_N_MHZ else F.CLP_STATUS.CLK_S_MHZ) v

/-- Lowest core clock. -/
def State.clockFloor (s : State) : Nat := s.rd R.CLP_LIMITS F.CLP_LIMITS.CLK_FLOOR_MHZ

/-- The clock limit in force (CLP_CTRL): 0 or a value above the cap selects the cap, a value below the floor the floor. -/
def State.clockCap (s : State) : Nat :=
  let cap := s.rd R.CHIP_CAP_LIMITS F.CHIP_CAP_LIMITS.CLK_CAP_MHZ
  let l := s.rd R.CLP_CTRL F.CLP_CTRL.CLK_LIMIT_MHZ
  if l = 0 ∨ cap < l then cap else max l s.clockFloor

/-- The power limit in force (CLP_CTRL): 0 or a value above the cap selects the cap. -/
def State.powerCap (s : State) : Nat :=
  let cap := s.rd R.CHIP_CAP_LIMITS F.CHIP_CAP_LIMITS.PWR_CAP_W
  let l := s.rd R.CLP_CTRL F.CLP_CTRL.PWR_LIMIT_W
  if l = 0 ∨ cap < l then cap else l

/-- The highest thermal state among the stacks of a die (R15). -/
def State.stackHeat (s : State) (d : Nat) : Nat :=
  (natsFrom (4 * d) 4).foldl (fun m i => if s.stackPresent i then max m (s.rd (R.PLN_STATUS i) F.PLN_STATUS.THERM_STATE) else m) 0

/-- The clock the rules of Table 136 allow a die: the lowest of them, and never below the floor. -/
def State.clockTarget (s : State) (d : Nat) : Nat :=
  let x := s.dieClamp d
  let cap := s.clockCap
  let stack := if s.stackHeat d = 3 then s.clockFloor
    else if s.stackHeat d = 2 then s.rd R.CHIP_CAP_LIMITS F.CHIP_CAP_LIMITS.CLK_CAP_MHZ * 3 / 4 else cap
  let volt := if x.alarm then s.clockFloor else cap
  max s.clockFloor (min (min (cap - s.clamp.powMhz) (cap - x.heatMhz)) (min (min (cap - x.curMhz) stack) volt))

/-- The VDD_CORE set point for a clock, within the fused range (Table 136). -/
def State.setPoint (s : State) (mhz : Nat) : Nat :=
  max (s.rd R.CLP_LIMITS F.CLP_LIMITS.VMIN_MV) (min (s.rd R.CLP_LIMITS F.CLP_LIMITS.VMAX_MV) (Config.vfCurve mhz))

/-- Post the set points for the wanted clocks in VID_REQ with a new SEQ, and raise an in-band interrupt (R402, R404). -/
def State.postVid (s : State) : State :=
  let s := s.setDieClamp 0 { s.dieClamp 0 with mv := s.setPoint (s.dieClamp 0).want }
  let s := s.setDieClamp 1 { s.dieClamp 1 with mv := s.setPoint (s.dieClamp 1).want }
  { s with clamp := { s.clamp with vidSeq := s.clamp.vidSeq + 1, vidOpen := some s.time, vidLate := false } }.emit .ibi

/-- Show the emergencies (CLP_STATUS) and follow R400's second without one. -/
def State.showEmergency (s : State) : State :=
  let b2n := fun (b : Bool) => if b then 1 else 0
  let hot := s.clamp.north.hot || s.clamp.south.hot
  let stack := decide (2 ≤ s.stackHeat 0) || decide (2 ≤ s.stackHeat 1)
  let opt := s.clamp.optHot != 0
  let cur := s.clamp.north.current || s.clamp.south.current
  let volt := s.clamp.north.alarm || s.clamp.south.alarm
  let em := hot || stack || opt || cur || volt
  let was := s.flag R.CLP_STATUS F.CLP_STATUS.EMERGENCY
  let s := s.wr R.CLP_STATUS F.CLP_STATUS.DIE_HOT (b2n hot)
  let s := s.wr R.CLP_STATUS F.CLP_STATUS.STACK (b2n stack)
  let s := s.wr R.CLP_STATUS F.CLP_STATUS.OPT_HOT (b2n opt)
  let s := s.wr R.CLP_STATUS F.CLP_STATUS.CURRENT (b2n cur)
  let s := s.wr R.CLP_STATUS F.CLP_STATUS.VOLTAGE (b2n volt)
  let s := s.wr R.CLP_STATUS F.CLP_STATUS.POWER_LIMITING (b2n (decide (0 < s.clamp.powMhz)))
  let s := s.wr R.CLP_STATUS F.CLP_STATUS.EMERGENCY (b2n em)
  let s := if em && !was then s.count R.CLP_COUNT F.CLP_COUNT.EMERGENCIES 1 else s
  let since := if em then none else match s.fw.clearSince with
    | some t => some t
    | none => some s.time
  { s with fw := { s.fw with clearSince := since } }

/-- One die's part of `clampApply`: whether a new set point must be posted. A lower clock applies at once; a higher one waits for
the handshake (R402). -/
def State.clampDie (s : State) (d : Nat) : State × Bool :=
  let t := s.clockTarget d
  let x := s.dieClamp d
  if !s.flag (R.DIE_STATUS d) F.DIE_STATUS.CORE_PLL_LOCK then (s.setClock d 0, false)
  else
    let s := if t < s.clock d then s.setClock d t else s
    if t = x.want then (s, false) else (s.setDieClamp d { x with want := t }, true)

/-- End the jig runs of a die whose clock stands below its cap, or that has a stack in THROTTLE or STOPPED (R332). -/
def State.endRuns (s : State) (d : Nat) : State :=
  if s.clock d < s.rd R.CHIP_CAP_LIMITS F.CHIP_CAP_LIMITS.CLK_CAP_MHZ ∨ 2 ≤ s.stackHeat d then
    (natsFrom (52 * d) 52).foldl State.abandonRun s
  else s

/-- Apply the clamp's rules after any input of theirs has changed (R401). -/
def State.clampApply (s : State) : State :=
  let s := s.showEmergency
  let (s, a) := s.clampDie 0
  let (s, b) := s.clampDie 1
  let s := if a || b then s.postVid else s
  (s.endRuns 0).endRuns 1

/-- The core clocks of both dies start (Table 128 step 6): the rails stand at 0.70 V (R387), which serves every part's cap. -/
def State.clampStart (s : State) : State :=
  let start := fun (s : State) (d : Nat) =>
    if s.flag (R.DIE_STATUS d) F.DIE_STATUS.CORE_PLL_LOCK then
      let t := s.clockTarget d
      (s.setDieClamp d { s.dieClamp d with want := t, mv := 700 }).setClock d t
    else s
  let s := start (start s 0) 1
  let s := s.wr R.CLP_STATUS F.CLP_STATUS.VDD_N_MV 700
  (s.wr R.CLP_STATUS F.CLP_STATUS.VDD_S_MV 700).clampApply

/-- CLAMP_POWER_STEP: a 100 µs power step over the power of the last 1 ms (R23, R401). Over the limit the clock falls by 25 MHz. How the
rule releases is not stated: DESIGN CHOICE, at or below the limit each step gives 25 MHz back (log entry 76). -/
def execClampPowerStep (watts : BitVec 11) (s : State) : Host.Outcome State Fault Refusal :=
  .next (
    match s.clamp.powStep with
    | some t => if (s.time - t).toNat < 10000 then s else go s
    | none => go s)
where
  go (s : State) : State :=
    let most := s.rd R.CHIP_CAP_LIMITS F.CHIP_CAP_LIMITS.CLK_CAP_MHZ - s.clockFloor
    let pow := if s.powerCap < watts.toNat then min most (s.clamp.powMhz + 25) else s.clamp.powMhz - 25
    let ticks := s.clamp.limTicks + (if 0 < pow then 10000 else 0)
    let s := { s with clamp := { s.clamp with powMhz := pow, powStep := some s.time, limTicks := ticks % 100000 } }
    let s := s.wr R.CLP_STATUS F.CLP_STATUS.PKG_POWER_W watts.toNat
    (s.count R.CLP_COUNT F.CLP_COUNT.LIMIT_MS (ticks / 100000)).clampApply

/-- CLAMP_CURRENT_LIMIT: a die's VDD_CORE current is measured over 1 µs (R401). Above the limit the clock falls by 100 MHz at once;
at or below it the rule ends. -/
def execClampCurrentLimit (die : DieId) (amps : BitVec 10) (s : State) : Host.Outcome State Fault Refusal :=
  .next (
    let x := s.dieClamp die
    let most := s.rd R.CHIP_CAP_LIMITS F.CHIP_CAP_LIMITS.CLK_CAP_MHZ - s.clockFloor
    let y := if s.rd R.CLP_LIMITS F.CLP_LIMITS.CORE_I_MAX_A < amps.toNat
      then { x with current := true, curMhz := min most (x.curMhz + 100) }
      else { x with current := false, curMhz := 0 }
    (s.setDieClamp die y).clampApply)

/-- The THERM_TRIP_N column of Table 14, in °C. -/
def tripPoint : TripSrc → Nat
  | .die => 115
  | .stack => 115
  | .optics => 90

/-- The code of a part in I3C register STATUS (Table 137). -/
def tripCode : TripSrc → Nat
  | .die => 0
  | .stack => 1
  | .optics => 2

/-- Whether part `i` of a kind has sensors. -/
def State.tripThere (s : State) (src : TripSrc) (i : Nat) : Bool :=
  match src with
  | .die => decide (i < 2)
  | .stack => s.stackPresent i
  | .optics => decide (i < 2) && s.fuses.ridges != 0

/-- The hottest sensor of part `i` reads `temp` °C: at its trip point the comparators of the always-on domain assert THERM_TRIP_N, which
latches with its source (R20, R25). Of several trips the manual does not say which is shown: DESIGN CHOICE, the first one stands
(log entry 77). -/
def State.tripAt (s : State) (src : TripSrc) (i temp : Nat) : State :=
  if !s.pins.aon || s.pins.trip || !s.tripThere src i || decide (temp < tripPoint src) then s
  else { s with pins := { s.pins with trip := true, tripSrc := tripCode src, tripIdx := i } }

/-- CLAMP_DIE_THERMAL: the hottest sensor of a compute die is read (R25, R401). From 100 °C on until it falls below 97 °C the clock
falls by 50 MHz every 100 µs; after that it rises by 50 MHz every 1 ms. At 115 °C THERM_TRIP_N asserts. -/
def execClampDieThermal (die : DieId) (temp : BitVec 8) (s : State) : Host.Outcome State Fault Refusal :=
  .next (
    let x := s.dieClamp die
    let hot := decide (100 ≤ temp.toNat) || (x.hot && decide (97 ≤ temp.toNat))
    let most := s.rd R.CHIP_CAP_LIMITS F.CHIP_CAP_LIMITS.CLK_CAP_MHZ - s.clockFloor
    let age := match x.step with
      | some t => (s.time - t).toNat
      | none => 100000
    let y :=
      if hot && (!x.hot || decide (10000 ≤ age)) then
        { x with hot := true, heatMhz := min most (x.heatMhz + 50), step := some s.time }
      else if hot then x
      else if x.hot then { x with hot := false, step := some s.time }
      else if 0 < x.heatMhz ∧ 100000 ≤ age then { x with heatMhz := x.heatMhz - 50, step := some s.time }
      else x
    ((s.setDieClamp die y).clampApply).tripAt .die die temp.toNat)

/-- The I3C static address of the device (R18). -/
def State.i3cAddr (s : State) : BitVec 7 := 0x30 + s.pins.mgtAddr.setWidth 7

/-- VID_ACK: the tray controller writes VID_ACK at I3C address `addr` with a SEQ and the applied set points; the remote sense reads
`senseN` and `senseS` (R402, R404). A write at another address is not this device's (R18). The clock of a die rises to the one the set
point was posted for once its sense reads at least 99% of it. -/
def execVidAck (addr : BitVec 7) (seq : BitVec 4) (mvN mvS senseN senseS : BitVec 10) (s : State) :
    Host.Outcome State Fault Refusal :=
  .next (
    if addr ≠ s.i3cAddr ∨ seq ≠ s.clamp.vidSeq then s else
    let s := { s with clamp := { s.clamp with vidOpen := none, vidLate := false } }
    let s := s.wr R.CLP_STATUS F.CLP_STATUS.VDD_N_MV mvN.toNat
    let s := s.wr R.CLP_STATUS F.CLP_STATUS.VDD_S_MV mvS.toNat
    let up := fun (s : State) (d sense : Nat) =>
      let x := s.dieClamp d
      if s.flag (R.DIE_STATUS d) F.DIE_STATUS.CORE_PLL_LOCK && decide (99 * x.mv ≤ 100 * sense) && decide (s.clock d < x.want) then s.setClock d x.want else s
    up (up s 0 senseN.toNat) 1 senseS.toNat)

/-- VID_TIMEOUT: a posted request has no acknowledgement 1 ms later, and is posted again every 10 ms (R402). -/
def execVidTimeout (s : State) : Host.Outcome State Fault Refusal :=
  .next (
    match s.clamp.vidOpen with
    | none => s
    | some t =>
      let age := (s.time - t).toNat
      if !s.clamp.vidLate && decide (100000 ≤ age) then
        { s with clamp := { s.clamp with vidLate := true } }.bump R.CLP_COUNT F.CLP_COUNT.VID_TIMEOUTS 1
      else if s.clamp.vidLate && decide (1000000 ≤ age) then s.postVid
      else s)

/-- VOLTAGE_ALARM: VDD_CORE has been 3% off its set point for 10 µs (R402). -/
def execVoltageAlarm (die : DieId) (high : Bool) (s : State) : Host.Outcome State Fault Refusal :=
  .next (
    let x := s.dieClamp die
    if x.alarm then s else
    let s := s.bump R.CLP_COUNT (if high then F.CLP_COUNT.OV_EVENTS else F.CLP_COUNT.UV_EVENTS) 1
    (s.setDieClamp die { x with alarm := true }).clampApply)

/-- VOLTAGE_ALARM_CLEAR: the reading has been back inside its margins for 1 ms (R402). -/
def execVoltageAlarmClear (die : DieId) (s : State) : Host.Outcome State Fault Refusal :=
  .next (
    let x := s.dieClamp die
    if x.alarm then (s.setDieClamp die { x with alarm := false }).clampApply else s)

end Sys2Proof.Machine
end

