-- ==== Sys2Proof/Machine/Num.lean ====
section
/-!
DEFINITION. Number formats: decoding (R79 to R90), the single rounding of a finite value into a format (R94, R95, R85, R86), and
exact dyadic arithmetic.
-/
namespace Sys2Proof.Machine

/-- A decoded value: NaN, an infinity, or (−1)^neg × m × 2^e, a zero keeping its sign. -/
inductive Val where
  | nan
  | inf (neg : Bool)
  | fin (neg : Bool) (m : Nat) (e : Int)
  deriving DecidableEq, Repr

/-- Parameters of a floating format (Table 25): mantissa bits, bias, width, and the code of the largest finite value. -/
structure FloatInfo where
  mb   : Nat
  bias : Nat
  w    : Nat
  maxc : Nat
  deriving DecidableEq, Repr

/-- The parameters of a format, if it is a floating format with a mantissa. -/
def floatInfo : Fmt → Option FloatInfo
  | .fp32 => some ⟨23, 127, 32, 0x7F7FFFFF⟩
  | .bf16 => some ⟨7, 127, 16, 0x7F7F⟩
  | .fp16 => some ⟨10, 15, 16, 0x7BFF⟩
  | .e4m3 => some ⟨3, 7, 8, 0x7E⟩
  | .e5m2 => some ⟨2, 15, 8, 0x7B⟩
  | .e2m3 => some ⟨3, 1, 6, 0x1F⟩
  | .e3m2 => some ⟨2, 3, 6, 0x1F⟩
  | .e2m1 => some ⟨1, 1, 4, 0x7⟩
  | .bell4 => none
  | .int8 => none
  | .int32 => none
  | .e8m0 => none

/-- Bell4 levels by index (Table 27). -/
def bellLevel (i : Nat) : Nat := [0, 2, 5, 8, 12, 17, 23, 32].getD i 0

/-- Decode the magnitude and sign of a floating code that is not special (R79). -/
def decodeFinite (f : FloatInfo) (code : Nat) : Val :=
  let neg := code >>> (f.w - 1) % 2 == 1
  let mag := code % 2 ^ (f.w - 1)
  let E := mag / 2 ^ f.mb
  let M := mag % 2 ^ f.mb
  if E = 0 then .fin neg M (1 - (f.bias : Int) - f.mb)
  else .fin neg (2 ^ f.mb + M) ((E : Int) - f.bias - f.mb)

/-- The canonical NaN of a format (R81); 0 for a format without NaN. -/
def canonNaN : Fmt → Nat
  | .fp32 => 0x7FC00000 | .bf16 => 0x7FC0 | .fp16 => 0x7E00 | .e4m3 => 0x7F | .e5m2 => 0x7E | .e8m0 => 0xFF
  | .e2m3 => 0 | .e3m2 => 0 | .e2m1 => 0 | .bell4 => 0 | .int8 => 0 | .int32 => 0

/-- Whether a format has infinities (Table 25). -/
def hasInf : Fmt → Bool
  | .fp32 | .bf16 | .fp16 | .e5m2 => true
  | .e4m3 | .e2m3 | .e3m2 | .e2m1 | .bell4 | .int8 | .int32 | .e8m0 => false

/-- Decode an element code (R79 to R86, R89). -/
def decodeElem (f : Fmt) (code : Nat) : Val :=
  match f with
  | .bell4 =>
    let l := bellLevel (code % 8)
    .fin (l != 0 && code / 8 % 2 == 1) l (-5)
  | .int8 => let v := sgn 8 code; .fin (decide (v < 0)) v.natAbs 0
  | .int32 => let v := sgn 32 code; .fin (decide (v < 0)) v.natAbs 0
  | .e8m0 => if code % 256 = 255 then .nan else .fin false 1 ((code % 256 : Nat) - 127)
  | f => match floatInfo f with
    | none => .nan
    | some i =>
      let mag := code % 2 ^ (i.w - 1)
      let neg := code >>> (i.w - 1) % 2 == 1
      if hasInf f && i.maxc + 1 < mag then .nan
      else if hasInf f && mag == i.maxc + 1 then .inf neg
      else if f == .e4m3 && mag == 0x7F then .nan
      else decodeFinite i code

/-- Decode an element that carries the block scale `x` (R86, R90). -/
def decodeScaled (f : Fmt) (code x : Nat) : Val :=
  if x = 255 then .nan else
  match decodeElem f code with
  | .fin n m e => .fin n m (e + ((x : Int) - 127) - (if f = .int8 then 6 else 0))
  | v => v

/-- `⌊log2 (m × 2^e)⌋` of a positive `m`. -/
def floorLog (m : Nat) (e : Int) : Int := (Nat.log2 m : Int) + e

/-- `m × 2^e` as a multiple of `2^u`: the whole part, the remainder and the size of one whole, all in units of `2^min(e,u)`. -/
def splitAt (m : Nat) (e u : Int) : Nat × Nat × Nat :=
  if u ≤ e then (m * 2 ^ (e - u).toNat, 0, 1)
  else
    let d := 2 ^ (u - e).toNat
    (m / d, m % d, d)

/-- `m × 2^e` rounded to the nearest multiple of `2^u`, ties to even (R94): the multiple. -/
def roundUnit (m : Nat) (e u : Int) : Nat :=
  let (q, r, d) := splitAt m e u
  if d < 2 * r || (d == 2 * r && q % 2 == 1) then q + 1 else q

/-- The exponent of the last place of a magnitude in a floating format. -/
def ulpExp (f : FloatInfo) (m : Nat) (e : Int) : Int := max (floorLog m e) (1 - (f.bias : Int)) - f.mb

/-- The code of the magnitude `q × 2^u`, `u` the exponent of its last place; codes above `maxc` overflow. -/
def packMag (f : FloatInfo) (q : Nat) (u : Int) : Nat := (u - (1 - (f.bias : Int) - f.mb)).toNat * 2 ^ f.mb + q

/-- The code of the magnitude `m × 2^e` rounded into a floating format as if its exponent were unbounded. -/
def roundMag (f : FloatInfo) (m : Nat) (e : Int) : Nat :=
  if m = 0 then 0 else
  let u := ulpExp f m e
  packMag f (roundUnit m e u) u

/-- Whether `m × 2^e` is at most `c`. -/
def leScaled (m : Nat) (e : Int) (c : Nat) : Bool :=
  if 0 ≤ e then decide (m * 2 ^ e.toNat ≤ c) else decide (m ≤ c * 2 ^ (-e).toNat)

/-- Whether `m × 2^e` is below `c`. -/
def ltScaled (m : Nat) (e : Int) (c : Nat) : Bool :=
  if 0 ≤ e then decide (m * 2 ^ e.toNat < c) else decide (m < c * 2 ^ (-e).toNat)

/-- Bell4 index of a magnitude, 8 for an overflow (R85, Table 27). Bounds are in sixty-fourths. -/
def bellIndex (m : Nat) (e : Int) : Nat :=
  let e := e + 6
  if leScaled m e 2 then 0 else if ltScaled m e 7 then 1 else if leScaled m e 13 then 2 else if ltScaled m e 20 then 3
  else if leScaled m e 29 then 4 else if ltScaled m e 40 then 5 else if leScaled m e 55 then 6
  else if leScaled m e 64 then 7 else 8

/-- A finite value rounded once into a format (R94, R95): the code, or none where it overflows. `e` is already divided by the
block scale; INT8 with a block scale counts in units of 2^−6, which `int6` says. -/
def roundElem (f : Fmt) (int6 : Bool) (neg : Bool) (m : Nat) (e : Int) : Option Nat :=
  match f with
  | .bell4 =>
    let i := bellIndex m e
    if i = 8 then none else some (if i = 0 then 0 else if neg then 8 + i else i)
  | .int8 =>
    let q := roundUnit m (if int6 then e + 6 else e) 0
    if 127 < q then none else some (wrap 8 (if neg then -(q : Int) else q))
  | .int32 =>
    let q := roundUnit m e 0
    if (neg && decide (2 ^ 31 < q)) || (!neg && decide (2 ^ 31 ≤ q)) then none
    else some (wrap 32 (if neg then -(q : Int) else q))
  | .e8m0 => none
  | f => match floatInfo f with
    | none => none
    | some i =>
      let c := roundMag i m e
      if i.maxc < c then none else some (c + (if neg then 2 ^ (i.w - 1) else 0))

/-- The code of the largest finite value of a sign (R86, R95). -/
def maxElem (f : Fmt) (neg : Bool) : Nat :=
  match f with
  | .bell4 => if neg then 15 else 7
  | .int8 => if neg then 0x81 else 0x7F
  | .int32 => if neg then 0x80000000 else 0x7FFFFFFF
  | .e8m0 => 0xFE
  | f => match floatInfo f with
    | none => 0
    | some i => i.maxc + (if neg then 2 ^ (i.w - 1) else 0)

/-- The code of an infinity, in a format that has one. -/
def infElem (f : Fmt) (neg : Bool) : Nat := maxElem f neg + 1

/-- A signed dyadic number: `v × 2^e`. -/
abbrev Dyadic := Int × Int

/-- The dyadic number of a finite value. -/
def dyOf (neg : Bool) (m : Nat) (e : Int) : Dyadic := (if neg then -(m : Int) else m, e)

/-- Exact sum. -/
def dyAdd (x y : Dyadic) : Dyadic :=
  let e := min x.2 y.2
  (x.1 * 2 ^ (x.2 - e).toNat + y.1 * 2 ^ (y.2 - e).toNat, e)

/-- Whether one dyadic number is below another. -/
def dyLt (x y : Dyadic) : Bool := decide ((dyAdd x (-y.1, y.2)).1 < 0)

/-- FP32 parameters. -/
def fp32Info : FloatInfo := ⟨23, 127, 32, 0x7F7FFFFF⟩

/-- The 32-bit code of a dyadic number rounded to nearest even, overflow to infinity; an exact zero takes the sign `zneg`
(R97, R111, R127). -/
def roundFp (f : FloatInfo) (x : Dyadic) (zneg : Bool) : Nat :=
  let s := if x.1 = 0 then zneg else decide (x.1 < 0)
  min (roundMag f x.1.natAbs x.2) (f.maxc + 1) + (if s then 2 ^ (f.w - 1) else 0)

/-- The code of an FP32 value's sum rounded to nearest even, with the special cases of R119 (the same as R127's). -/
def addCodes (f : Fmt) (i : FloatInfo) (a b : Nat) : Nat :=
  match decodeElem f a, decodeElem f b with
  | .nan, _ => canonNaN f
  | _, .nan => canonNaN f
  | .inf s, .inf t => if s = t then infElem f s else canonNaN f
  | .inf s, _ => infElem f s
  | _, .inf t => infElem f t
  | .fin s m e, .fin t n g => roundFp i (dyAdd (dyOf s m e) (dyOf t n g)) (s && t)

/-- FP32 addition of a traverse (R119). -/
def addFp32 (a b : Nat) : Nat := addCodes .fp32 fp32Info a b

end Sys2Proof.Machine
end

