-- ==== Sys2Proof/Machine/Group.lean ====
section
/-!
DEFINITION. Groups of a collective (R264 to R266), its streams and chunks (R269, R274), and the wire forms of chunks and splice
control messages (R275, R277).
-/
namespace Sys2Proof.Machine

/-! ### Members -/

/-- Start, length and stride of the six axes of a descriptor; a length or stride of 0 is read as 1 (R264). -/
def groupAxes (d : Nat) : List (Nat × Nat × Nat) :=
  let ax := fun (lo a b c : Nat) => (bits d lo a, orOne (bits d (lo + a) b), orOne (bits d (lo + a + b) c))
  [ax 0 4 5 4, ax 13 4 5 4, ax 26 4 5 4, ax 39 2 3 2, ax 46 2 3 2, ax 53 2 3 2]

/-- Members of a group (R265). -/
def groupSize (d : Nat) : Nat := ((groupAxes d).map (fun a => a.2.1)).foldl (· * ·) 1

/-- Members of a segment: those that share a rope (R266). -/
def segSize (d : Nat) : Nat := (((groupAxes d).drop 3).map (fun a => a.2.1)).foldl (· * ·) 1

/-- Route-relative coordinate of member `m` (R265). -/
def groupRel (d m : Nat) : List Nat :=
  let r := (groupAxes d).reverse
  (memberRel m (r.map (fun a => a.1)) (r.map (fun a => a.2.1)) (r.map (fun a => a.2.2))).reverse

/-- Chip of member `m` of a group of context `c`. -/
def State.groupChip (s : State) (c d m : Nat) : Nat :=
  match s.routeCoords c (groupRel d m) with
  | some x => chipAt x
  | none => 0

/-- Axis index of a coordinate, if the coordinate is a member's. -/
def axisIndex (a : Nat × Nat × Nat) (x : Nat) : Option Nat :=
  if a.1 ≤ x ∧ (x - a.1) % a.2.2 = 0 ∧ (x - a.1) / a.2.2 < a.2.1 then some ((x - a.1) / a.2.2) else none

/-- Member index of a chip, if it is a member (R265). -/
def State.memberOf (s : State) (c d chip : Nat) : Option Nat :=
  match s.relOf c chip with
  | none => none
  | some rel =>
    ((groupAxes d).zip rel).foldl (fun (m : Option Nat) x => match m, axisIndex x.1 x.2 with
      | some n, some i => some (n * x.1.2.1 + i)
      | _, _ => none) (some 0)

/-- This chip's member index. -/
def State.me (s : State) (c d : Nat) : Nat := (s.memberOf c d s.ownChip).getD 0

/-- Lowest member of the segment of member `m`. -/
def leaderOf (d m : Nat) : Nat := m / segSize d * segSize d

/-- Number of segments. -/
def segCount (d : Nat) : Nat := groupSize d / segSize d

/-- Slot mask of a segment's members: slot a × 16 + b × 4 + c (R239, R277). -/
def State.slotMask (s : State) (c d m : Nat) : Nat :=
  (natsFrom (leaderOf d m) (segSize d)).foldl (fun n k => n ||| 1 <<< (s.groupChip c d k % 64)) 0

/-- ROOT of a descriptor. -/
def groupRoot (d : Nat) : Nat := bits d 64 17

/-! ### Streams and chunks -/

/-- Bytes of a chunk. -/
def chunkBytes : Nat := 65536

/-- Whether a kind reduces (Table 86). -/
def reduces (kind : Nat) : Bool := kind == 0 || kind == 1 || kind == 4

/-- Blocks of the stream a member sends: one for each member in REDUCE_SCATTER and ALL_TO_ALL (R269, R274). -/
def streamBlocks (kind M : Nat) : Nat := if kind = 1 ∨ kind = 5 then M else 1

/-- Chunks of one block. -/
def blockChunks (x : Stream) : Nat := ceilDiv x.block chunkBytes

/-- Chunks of a stream. -/
def streamChunks (x : Stream) (M : Nat) : Nat := streamBlocks x.kind M * blockChunks x

/-- Chunks of a list of streams. -/
def totalChunks (l : List Stream) (M : Nat) : Nat := (l.map (fun x => streamChunks x M)).foldl (· + ·) 0

/-- Where a chunk lies: its stream, block, offset in the block and length. -/
structure ChunkAt where
  st  : Stream
  blk : Nat
  off : Nat
  len : Nat
  deriving DecidableEq, Repr

/-- The place of chunk `n` of joined streams (R274, R289). -/
def locate (M : Nat) : List Stream → Nat → Option ChunkAt
  | [], _ => none
  | x :: l, n =>
    if n < streamChunks x M then
      let b := n / blockChunks x
      let o := n % blockChunks x * chunkBytes
      some { st := x, blk := b, off := o, len := min chunkBytes (x.block - o) }
    else locate M l (n - streamChunks x M)

/-- Source address of a chunk. -/
def srcOf (a : ChunkAt) : Nat := (a.st.src.toNat + a.blk * a.st.block + a.off) % 2 ^ 64

/-- Destination address of a chunk that comes from member `m`: block `m` in ALL_GATHER and ALL_TO_ALL, the start elsewhere. -/
def dstOf (a : ChunkAt) (m : Nat) : Nat :=
  (a.st.dst.toNat + (if a.st.kind = 2 ∨ a.st.kind = 5 then m * a.st.block else 0) + a.off) % 2 ^ 64

/-- Cut bytes at tile boundaries of a virtual address: address and length of each part. -/
def partsOf : Nat → Nat → Nat → List (Nat × Nat)
  | 0, _, _ => []
  | f + 1, a, n =>
    if n = 0 then [] else
    let k := min n (2048 - a % 2048)
    (a, k) :: partsOf f (a + k) (n - k)

/-! ### Wire forms -/

/-- The code of a chunk kind. -/
def ckindCode : CKind → Nat
  | .data => 0
  | .partialSum => 1
  | .carry => 2
  | .result => 3

/-- The chunk kind of a code. -/
def ckindOf (n : Nat) : CKind :=
  match n % 4 with
  | 0 => .data
  | 1 => .partialSum
  | 2 => .carry
  | _ => .result

/-- Header bytes 0 to 55 of a chunk (Table 87). -/
def chunkHeader (c : Chunk) : List Byte :=
  natLe (0xE + ckindCode c.ckind * 2 ^ 4 + c.dst.toNat * 2 ^ 8 + c.src.toNat * 2 ^ 25 + c.key.toNat * 2 ^ 42 +
    c.group.val * 2 ^ 64 + c.kind.toNat * 2 ^ 72 + c.fmt.toNat * 2 ^ 76 + c.seq.toNat * 2 ^ 80 + c.chunk.toNat * 2 ^ 112 +
    c.member.toNat * 2 ^ 136 + (if c.poison then 2 ^ 153 else 0) + (if c.last then 2 ^ 154 else 0) +
    (if c.viaSwitch then 2 ^ 155 else 0) + c.len.toNat * 2 ^ 160) 56

/-- CRC of a chunk over its header bytes 0 to 55 and its payload (R275). -/
def chunkCrc (c : Chunk) (d : List Byte) : Nat := crc64 (crc64 0 (chunkHeader c)) d

/-- Add two runs of FP32 elements with one rounding each (R119, R279). -/
def addVec (a b : List Byte) : List Byte :=
  ((chunksOf 4 (a.length / 4 + 1) a).zip (chunksOf 4 (a.length / 4 + 1) b)).flatMap
    (fun x => natLe (addFp32 (leNat x.1) (leNat x.2)) 4)

/-- The zeroed words of a COUNTS entry: words K to 7 of each 64 bytes (R290). -/
def maskCounts (k : Nat) (d : List Byte) : List Byte :=
  (d.zip (upto d.length)).map (fun x => if x.2 % 64 < 8 * k then x.1 else 0)

end Sys2Proof.Machine
end

