-- ==== Sys2Proof/Machine/Splice.lean ====
section
/-!
DEFINITION. The splice engine: SPL instructions, starts, rendezvous, claims, chunks, delivery, loss of a plane, completion and
deadlines (R264 to R297). Each message or event does what it causes at once: what may be sent against a credit is sent, and what
may be written is written.
-/
namespace Sys2Proof.Machine

/-! ### Access -/

/-- A group and its collective in progress. -/
def State.coll (s : State) (c g : Nat) : Option (Group × Coll) :=
  match SMap.look (s.ctx c).groups g with
  | none => none
  | some x => x.cur.map (fun k => (x, k))

/-- Replace a group. -/
def State.setGroup (s : State) (c g : Nat) (x : Group) : State :=
  s.setCtx c { s.ctx c with groups := SMap.put (s.ctx c).groups g x }

/-- Change the collective in progress of a group. -/
def State.onColl (s : State) (c g : Nat) (f : Coll → Coll) : State :=
  match s.coll c g with
  | none => s
  | some (x, k) => s.setGroup c g { x with cur := some (f k) }

/-- SPL_GSTATE of a group. -/
def gstate (x : Group) (c g : Nat) : Nat := R.SPL_GSTATE x.die c g

/-- Show a group's state code and its queue. -/
def State.showGroup (s : State) (c g st : Nat) : State :=
  match SMap.look (s.ctx c).groups g with
  | none => s
  | some x => ((s.wr (gstate x c g) F.SPL_GSTATE.STATE st).wr (gstate x c g) F.SPL_GSTATE.QUEUED x.queue.length).stamp (uGroup c g)

/-- Key of a switch plane as a receiver. -/
def planeKey (p : Nat) : Nat := 2 ^ 17 + p

/-- The plane that carries a chunk in switch mode (R284). -/
def Coll.planeOf (k : Coll) (chunk : Nat) : Nat :=
  let ps := onesOf k.planes.toNat 24
  ps.getD (chunk % max 1 ps.length) 0

/-- Whether a chunk is summed in traverse mode: the segment's mode, or a chunk of a lost plane that is done again (R285, R288). -/
def Coll.travels (k : Coll) (chunk : Nat) : Bool :=
  k.mode == some true || k.redo.contains chunk

/-- Kind of a collective. -/
def Coll.kind (k : Coll) : Nat := match k.streams with | x :: _ => x.kind | [] => 0

/-- Chunks of a collective's stream. -/
def Coll.total (k : Coll) (d : Nat) : Nat := totalChunks k.streams (groupSize d)

/-! ### Messages -/

/-- A control message of a group. -/
def State.splMsg (s : State) (c g : Nat) (seq : BitVec 32) (dst chunk arg : Nat) (carry : Bool) : SplCtl :=
  { dst := BitVec.ofNat 17 dst, src := BitVec.ofNat 17 s.ownChip, key := BitVec.ofNat 16 (s.key c), group := Fin.ofNat 256 g,
    seq := seq, chunk := BitVec.ofNat 24 chunk, arg := BitVec.ofNat 64 arg, hasCarry := carry }

/-- Send a control message to a chip (R277); none goes to this chip itself. -/
def State.splTell (s : State) (c : Option Nat) (ctype : Nat) (m : SplCtl) : State :=
  match s.path c 0 s.ownChip m.dst.toNat false with
  | .own => s
  | .port w rw => s.emit (.splCtl ctype (some w) rw m)
  | .none => s.fileWitness m.dst.toNat 0 4

/-- Send a control message to a switch plane. -/
def State.splPlane (s : State) (ctype p : Nat) (m : SplCtl) : State := s.emit (.splCtl ctype (some p) none m)

/-- Send RELEASE to planes. -/
def State.splRelease (s : State) (c g : Nat) (seq : BitVec 32) (planes : BitVec 24) : State :=
  (onesOf planes.toNat 24).foldl (fun s p => s.splPlane 6 p (s.splMsg c g seq s.ownChip 0 p false)) s

/-- Count a message dropped as stale (R278, Table 93). -/
def State.splStale (s : State) (d : Nat) : State := s.count (R.SPL_COUNT d) F.SPL_COUNT.STALE 1

/-! ### End of a collective -/

/-- A collective ends on this member with a status (R273): recorded, increment applied, claim released, and SPL_FAILED raised for
every outcome but OK and POISONED_DATA. -/
def State.splEnd (s : State) (c g status : Nat) : State :=
  match s.coll c g with
  | none => s
  | some (x, k) =>
    let st := if status = 0 then (if k.poisoned then 1 else 0) else status
    let s := (s.dropColl c g x k).setGroup c g { x with
      cur := none
      waitSince := s.time
      waitDeadline := s.time + s.collTicks x.die
      waitLimit := s.collTicks x.die
      waitExt := none }
    let s := (s.wr (gstate x c g) F.SPL_GSTATE.LAST_STATUS st).showGroup c g (if x.queue.isEmpty then 1 else 2)
    let s := s.completeInc c x.phys k.inc
    let s := if 2 ≤ st then s.raise c cSplFailed (uSplice x.die) 0 st else s
    s.handOver x.phys

/-! ### Reading the source and writing the destination -/

/-- Outcome of an access of the splice engine. -/
inductive SplAcc where
  | got (d : List Byte) (poison : Bool)
  | wait
  | fault
  | walkPoison
  | held (a : Nat)      -- a write that waits for the urgent copy of its page (R373), at its local address

/-- Read HBM of this chip. -/
def State.splHbm (s : State) (c a n : Nat) : State × SplAcc :=
  match s.readAs (.eng .splice 0 c) a n with
  | (s, none) => (s, .wait)
  | (s, some (d, po, _)) => (s, .got d po)

/-- Read one part of a source chunk (R41, R270). Parts held by another chip or by the host are requested once. -/
def State.splReadPart (s : State) (c g k va n : Nat) : State × SplAcc :=
  match s.coll c g with
  | none => (s, .wait)
  | some (x, col) =>
    let req : OutReq := {
      tag := 0, cls := 1, addr := 0, len := n, core := x.phys, eng := .splice, ctx := c, deadline := 0, first := 0,
      piece := some { ssp := .mem, dsp := .mem, src := k / 64, dst := k % 64, n := n }, amount := BitVec.ofNat 32 g }
    let ask := fun (s : State) (f : State → State) =>
      if col.asked.contains k then (s, SplAcc.wait)
      else (f (s.onColl c g (fun y => { y with asked := y.asked ++ [k] })), SplAcc.wait)
    match SMap.look col.parts k with
    | some (d, po) => (s, .got d po)
    | none => match s.xlate c va .read with
      | (s, .fault) => (s, .fault)
      | (s, .poisoned) => (s, .walkPoison)
      | (s, .blocked) => (s, .wait)
      | (s, .ok (.spd _) _) => (s, .fault)
      | (s, .ok (.hbm a) _) => s.splHbm c a n
      | (s, .ok (.remote chip a) _) =>
        if chip.toNat = s.ownChip then
          (match s.ownTarget c a n with
          | none => (s, .got (List.replicate n 0) true)
          | some (.hbm a) => s.splHbm c a n
          | some (.spd p l) => match s.spdRead p (some c) l n with
            | (s, d, po) => (s, .got d po))
        else if !s.fabricFree x.phys then (s, .wait)
        else ask s (fun s => s.sendReq { req with chip := chip, addr := a })
      | (s, .ok (.host a) _) => ask s (fun s => s.hostReq { req with cls := 4, addr := a })

/-- Read parts in order; every part is asked for even while an earlier one waits. -/
def State.splReadParts (s : State) (c g chunk : Nat) : List ((Nat × Nat) × Nat) → State × SplAcc
  | [] => (s, .got [] false)
  | (x, i) :: l =>
    match s.splReadPart c g (64 * chunk + i) x.1 x.2 with
    | (s, .got d po) => (match s.splReadParts c g chunk l with
      | (s, .got e qo) => (s, .got (d ++ e) (po || qo))
      | r => r)
    | (s, .wait) => (match s.splReadParts c g chunk l with
      | (s, .got _ _) => (s, .wait)
      | r => r)
    | r => r

/-- Read this member's own chunk from the source. -/
def State.splRead (s : State) (c g chunk : Nat) : State × SplAcc :=
  match s.coll c g with
  | none => (s, .wait)
  | some (x, k) => match locate (groupSize x.desc.toNat) k.streams chunk with
    | none => (s, .fault)
    | some a =>
      let l := partsOf 64 (srcOf a) a.len
      s.splReadParts c g chunk (l.zip (upto l.length))

/-- Write one part of a destination (R41, R270, R276); a whole tile is sealed over the bytes. -/
def State.splWritePart (s : State) (c g va : Nat) (d : List Byte) (poison : Bool) : State × SplAcc :=
  match s.coll c g with
  | none => (s, .wait)
  | some (x, _) =>
    let req : OutReq := {
      tag := 0, cls := 2, addr := 0, len := d.length, core := x.phys, eng := .splice, ctx := c, deadline := 0, first := 0,
      data := d, poison := poison, amount := BitVec.ofNat 32 g,
      whole := if d.length = 2048 then some (if poison then poisonMeta d else sealedMeta d) else none }
    match s.xlate c va .write with
    | (s, .fault) => (s, .fault)
    | (s, .poisoned) => (s, .walkPoison)
    | (s, .blocked) => (s, .wait)
    | (s, .ok (.spd _) _) => (s, .fault)
    | (s, .ok (.hbm a) _) => (match s.tryWrite a d poison none with
      | (_, some s) => (s, .got [] false)
      | (s, none) => (s, if s.pagePending a then .held a else .wait))
    | (s, .ok (.remote chip a) _) =>
      if chip.toNat = s.ownChip then
        (match s.ownTarget c a d.length with
        | none => (s, .got [] false)
        | some (.hbm a) => (match s.tryWrite a d poison req.whole with
          | (_, some s) => (s, .got [] false)
          | (s, none) => (s, if s.pagePending a then .held a else .wait))
        | some (.spd p l) => (s.spdWrite p (some c) l d poison, .got [] false))
      else if !s.fabricFree x.phys then (s, .wait)
      else (s.sendReq { req with chip := chip, addr := a }, .got [] false)
    | (s, .ok (.host a) _) => (s.hostReq { req with cls := 5, addr := a, whole := none }, .got [] false)

/-- An access of the engine cannot be made: a translation fault ends the collective with XLATE_FAULT; a poisoned table is poison
the walker consumes (R224, R320). -/
def State.splFail (s : State) (c g : Nat) (walk : Bool) : State :=
  match s.coll c g with
  | none => s
  | some (x, _) => if walk then s.raise c cPoisonConsumed (uCore x.phys) 0 0 else s.onColl c g (fun k => { k with status := 2 })

/-- The writes that put bytes at a virtual address, one for each part inside a tile (R276). -/
def writesOf (va : Nat) (d : List Byte) (poison : Bool) : List SplWrite :=
  ((partsOf 64 va d.length).foldl (fun (r : List SplWrite × List Byte) y =>
    (r.1 ++ [{ va := y.1, data := r.2.take y.2, poison := poison }], r.2.drop y.2)) ([], d)).1

/-- The writes that put a chunk of member `m` at this member's destination (R276, R290). -/
def Coll.writesTo (k : Coll) (M m chunk : Nat) (d : List Byte) (poison : Bool) : List SplWrite :=
  match locate M k.streams chunk with
  | none => []
  | some a => writesOf (dstOf a m) (match k.counts with | some n => maskCounts n d | none => d) poison

/-- Note that a chunk of member `m` has reached this member's destination. -/
def Coll.note (k : Coll) (m chunk : Nat) (poison : Bool) : Coll :=
  { k with
    poisoned := k.poisoned || poison
    done := if k.done.contains (m, chunk) then k.done else k.done ++ [(m, chunk)] }

/-- What a member does with bytes it has received or summed: writes to make at its destination, and chunks to send on. -/
structure SplUse where
  writes : List SplWrite := []
  fwd    : List SplSend := []

/-! ### Who sends to whom -/

/-- Next segment in the delivery order of ALL_REDUCE: last, then 0, 1 … (Table 90). -/
def nextSeg (d k : Nat) : Option Nat :=
  let l := segCount d - 1
  if k = l then (if 0 < l then some 0 else none) else if k + 1 < l then some (k + 1) else none

/-- The segment before `k` in that order. -/
def prevSeg (d k : Nat) : Option Nat :=
  let l := segCount d - 1
  if k = l then none else if k = 0 then some l else some (k - 1)

/-- Distinct numbers in order. -/
def nubNat (l : List Nat) : List Nat := l.foldl (fun r x => if r.contains x then r else r ++ [x]) []

/-- The number of a stream: its sender or receiver, and its chunk kind. -/
def streamId (key : Nat) (ck : CKind) : Nat := 4 * key + ckindCode ck

/-- Add to a count of a stream. -/
def addAt (m : SMap Nat) (i n : Nat) : SMap Nat := SMap.putD m i (SMap.lookD m i 0 + n) 0

/-- Whether a chunk belongs to a plane that is lost (R288). -/
def Coll.isLost (k : Coll) (chunk : Nat) : Bool := k.lost.toNat >>> k.planeOf chunk % 2 == 1

/-- Member that a result chunk of REDUCE or REDUCE_SCATTER is for. -/
def Coll.ownerOf (k : Coll) (D chunk : Nat) : Nat :=
  if k.kind = 4 then groupRoot D else match locate (groupSize D) k.streams chunk with
    | some a => a.blk
    | none => 0

/-- A stream that this member expects: from whom, of what kind, its chunks in all, and those that can come as things stand. `joint`: one
stream of the previous or last segment, which any of several chips may send. -/
structure SplIn where
  key   : Nat
  ck    : CKind
  total : Nat
  now   : Nat
  joint : Bool := false

/-- Streams that come from this member's own segment or from the segment before it in a reduction (R279, R284, R285): a CARRY from the
leader or from the last member of the previous segment, a PARTIAL from the member before, and the outputs of the planes. A plane that has
not been sent the CARRY of a chunk cannot send the chunk's output. -/
def State.sumStreams (s : State) (c D : Nat) (k : Coll) : List SplIn :=
  let me := s.me c D
  let n := segSize D
  let lead := leaderOf D me
  let cs := upto (k.total D)
  let carry : List SplIn := if me = lead ∧ n ≤ me then (nubNat [s.groupChip c D (lead - n), s.groupChip c D (lead - 1)]).map
      (fun y => { key := y, ck := .carry, total := cs.length, now := cs.length, joint := true })
    else []
  let sums := (cs.filter k.travels).length
  let chain : List SplIn := if me = lead then [] else [{ key := s.groupChip c D (me - 1), ck := .partialSum, total := sums, now := sums }]
  let out := fun (p : Nat) (ck : CKind) (f : Nat → Bool) (after : Option CKind) =>
    let t := (cs.filter (fun x => k.planeOf x == p && f x)).length
    ({ key := planeKey p, ck := ck, total := t,
       now := match after with
         | some a => min t (SMap.lookD k.sent (streamId (planeKey p) a) 0)
         | none => t } : SplIn)
  let planes := if k.mode == some false then onesOf (k.planes &&& ~~~k.lost).toNat 24 else []
  let fed := if me = lead ∧ n ≤ me then some CKind.carry else none
  let outs := if me / n + 1 = segCount D then
      planes.map (fun p => out p .result (fun x => k.kind == 0 || k.ownerOf D x == me || (me == lead && k.ownerOf D x / n != me / n)) fed)
    else
      (if me = lead then planes.map (fun p => out p .partialSum (fun _ => true) fed) else []) ++
      (if k.kind = 0 then planes.map (fun p => out p .result (fun _ => true) (if me = lead then some .result else none)) else [])
  carry ++ chain ++ outs

/-- Streams of results from other chips (Table 90). The last member of the last segment holds the result of traverse mode and is sent none
(DEDUCED from the worked example of R286, log entry 28). -/
def State.resultStreams (s : State) (c D : Nat) (k : Coll) : List SplIn :=
  let me := s.me c D
  let n := segSize D
  let lead := leaderOf D me
  let M := groupSize D
  let cs := upto (k.total D)
  let one := fun (m t : Nat) => ({ key := s.groupChip c D m, ck := .result, total := t, now := t } : SplIn)
  let isLast := me / n + 1 = segCount D
  if k.kind = 0 then
    if me = lead then
      if isLast then (if n = 1 then [] else [one (M - 1) (cs.filter k.travels).length])
      else match prevSeg D (me / n) with
        | some j => [one (j * n) cs.length]
        | none => []
    else if me + 1 = M then []
    else [one (me - 1) (if k.mode == some true then cs.length else k.relay.length)]
  else
    let mine := cs.filter (fun x => k.ownerOf D x == me)
    if isLast then (if me + 1 = M then [] else [one (M - 1) (mine.filter k.travels).length])
    else (nubNat [s.groupChip c D (M - n), s.groupChip c D (M - 1)]).map
      (fun y => { key := y, ck := .result, total := mine.length, now := mine.length, joint := true })

/-- The streams this member expects, in the order of the rotation (R278): those of other chips and of planes that carry a chunk. -/
def State.splExpects (s : State) (c D : Nat) (k : Coll) : List SplIn :=
  let me := s.me c D
  let lead := leaderOf D me
  let T := k.total D
  let data := fun (m t : Nat) => ({ key := s.groupChip c D m, ck := .data, total := t, now := t } : SplIn)
  let l := match k.kind with
    | 2 => (upto (groupSize D)).map (fun m => data m T)
    | 5 => (upto (groupSize D)).map (fun m => data m ((k.streams.map blockChunks).foldl (· + ·) 0))
    | 3 => if me = lead then [data (groupRoot D) T] else [data lead T]
    | _ => if k.mode.isNone then [] else s.sumStreams c D k ++ s.resultStreams c D k
  l.filter (fun i => i.key != s.ownChip && i.total != 0)

/-- Chunks of an expected stream that have come; of a joint one, from any of its senders. -/
def Coll.cameOf (k : Coll) (i : SplIn) : Nat :=
  if i.joint then (k.came.filter (fun e => e.1 % 4 == ckindCode i.ck)).foldl (fun n e => n + e.2) 0
  else SMap.lookD k.came (streamId i.key i.ck) 0

/-- Credits a sender holds and has not used. -/
def Coll.unused (k : Coll) (i : SplIn) : Nat :=
  SMap.lookD k.given (streamId i.key i.ck) 0 - SMap.lookD k.came (streamId i.key i.ck) 0

/-- Receive buffers that a stream holds: those in use and those it has been granted. -/
def Coll.holds (k : Coll) (i : SplIn) : Nat := k.unused i + (k.recv.filter (fun r => r.key == i.key && r.ck == i.ck)).length

/-- Whether a stream can use a further buffer. -/
def Coll.wants (k : Coll) (i : SplIn) : Bool := decide (k.unused i + k.cameOf i < i.now)

/-- Free receive buffers of the group's four (R268). -/
def Coll.freeBufs (k : Coll) (l : List SplIn) : Nat := 4 - (l.map k.unused).foldl (· + ·) 0 - k.recv.length

/-- The stream to which the next free buffer goes (R278): the next in the rotation after the one granted last, its stream not ended. DESIGN
CHOICE: a stream is passed over while another that can use a buffer holds fewer, for else a silent sender could come to hold all four and
no chunk could ever arrive (R291, log entry 28). -/
def Coll.pick (k : Coll) (l : List SplIn) : Option SplIn :=
  let at_ := match k.rot with
    | none => 0
    | some r => match l.findIdx? (fun i => streamId i.key i.ck == r) with
      | some j => j + 1
      | none => 0
  let w := (l.drop at_ ++ l.take at_).filter k.wants
  match w with
  | [] => none
  | x :: t => some (t.foldl (fun b i => if k.holds i < k.holds b then i else b) x)

/-- Grant the free buffers: the collective with the grants counted, and the streams granted, in order. `fuel` bounds the buffers. -/
def Coll.grants (k : Coll) (l : List SplIn) : Nat → Coll × List SplIn
  | 0 => (k, [])
  | f + 1 =>
    if k.freeBufs l = 0 then (k, []) else
    match k.pick l with
    | none => (k, [])
    | some i =>
      let r := Coll.grants { k with given := addAt k.given (streamId i.key i.ck) 1, rot := some (streamId i.key i.ck) } l f
      (r.1, i :: r.2)

/-- CHUNK of a CREDIT: every chunk of the stream before it has left its buffer. -/
def Coll.creditFrom (k : Coll) (key : Nat) (ck : CKind) : Nat :=
  match (k.recv.filter (fun r => r.key == key && r.ck == ck)).map SplRecv.chunk with
  | [] => SMap.lookD k.next (streamId key ck) 0
  | x :: l => l.foldl min x

/-- Send a CREDIT for `n` buffers of a stream (R277, R278). DESIGN CHOICE: bits [4:3] of ARG hold the CKIND of the stream, for Table 88 does
not say which of a sender's streams a CREDIT concerns (log entry 28). -/
def State.splGive (s : State) (c g : Nat) (k : Coll) (key : Nat) (ck : CKind) (n : Nat) : State :=
  let arg := n + 8 * ckindCode ck
  let s := s.stamp (uGroup c g)
  if 2 ^ 17 ≤ key then s.splPlane 2 (key - 2 ^ 17) (s.splMsg c g k.seq s.ownChip (k.creditFrom key ck) arg false)
  else if key = s.ownChip then s
  else s.splTell (some c) 2 (s.splMsg c g k.seq key (k.creditFrom key ck) arg false)

/-- Grant the receive buffers that are free, in rotation, one CREDIT to each stream granted (R278); the streams of `freed` whose chunks have
left their buffers, and that can use no further buffer, are told so (R273). -/
def State.splGrantAll (s : State) (c g : Nat) (freed : List (Nat × CKind)) : State :=
  match s.coll c g with
  | none => s
  | some (x, k) =>
    let l := s.splExpects c x.desc.toNat k
    let (k', granted) := k.grants l 4
    let s := s.onColl c g (fun _ => k')
    let count := fun (key : Nat) (ck : CKind) => (granted.filter (fun i => i.key == key && i.ck == ck)).length
    let s := l.foldl (fun s i => if count i.key i.ck = 0 then s else s.splGive c g k' i.key i.ck (count i.key i.ck)) s
    let last := fun (e : Nat × CKind) => count e.1 e.2 == 0 && !(l.any (fun i => i.key == e.1 && i.ck == e.2 && k'.wants i))
    let ends := (freed.filter last).foldl (fun (r : List (Nat × CKind)) e => if r.contains e then r else r ++ [e]) []
    ends.foldl (fun s e => s.splGive c g k' e.1 e.2 (freed.filter (fun f => f == e)).length) s

/-! ### Sending -/

/-- A chunk message of this member. -/
def State.splChunkOf (s : State) (c g : Nat) (x : Group) (k : Coll) (m : SplSend) (d : List Byte) (poison : Bool) : Chunk :=
  let via := decide (2 ^ 17 ≤ m.key)
  let st := match locate (groupSize x.desc.toNat) k.streams m.chunk with | some a => some a.st | none => none
  let h : Chunk := {
    ckind := m.ckind
    dst := BitVec.ofNat 17 (if via then s.groupChip c x.desc.toNat (leaderOf x.desc.toNat (s.me c x.desc.toNat)) else m.key)
    src := BitVec.ofNat 17 s.ownChip, key := BitVec.ofNat 16 (s.key c), group := Fin.ofNat 256 g
    kind := BitVec.ofNat 4 k.kind, fmt := (match st with | some y => y.fmt | none => 0), seq := k.seq
    chunk := BitVec.ofNat 24 m.chunk, member := BitVec.ofNat 17 m.member, poison := poison, last := m.last, viaSwitch := via
    len := BitVec.ofNat 10 (ceilDiv d.length 64 - 1), crc := 0 }
  { h with crc := BitVec.ofNat 64 (chunkCrc h d) }

/-- Put a chunk on its way: a credit of its stream is used, and its acknowledgement is awaited (R273, R274, R278). -/
def State.splEmit (s : State) (c g : Nat) (m : SplSend) (d : List Byte) (poison : Bool) : State :=
  match s.coll c g with
  | none => s
  | some (x, k) =>
    let h := s.splChunkOf c g x k m d poison
    let s := if 2 ^ 17 ≤ m.key then s.emit (.chunk (some (m.key - 2 ^ 17)) none h d)
      else match s.path (some c) (m.chunk * 2048) s.ownChip m.key false with
        | .port w rw => s.emit (.chunk (some w) rw h d)
        | .own => s
        | .none => s.fileWitness m.key 0 4
    let i := streamId m.key m.ckind
    (s.stamp (uGroup c g)).onColl c g (fun k => { k with
      credits := SMap.putD k.credits i (SMap.lookD k.credits i 0 - 1) 0
      sent := addAt k.sent i 1
      unacked := k.unacked ++ [(i, m.chunk)] })

/-- Send the chunks that hold a credit, in order for each stream (R278). -/
def State.splSendAll (s : State) (c g : Nat) : State :=
  match s.coll c g with
  | none => s
  | some (_, k) =>
    let (s, left) := k.send.foldl (fun (r : State × List SplSend) m =>
      match r.1.coll c g with
      | none => r
      | some (_, k) =>
        if r.2.any (fun y => y.key == m.key && y.ckind == m.ckind) || SMap.lookD k.credits (streamId m.key m.ckind) 0 = 0 then
          (r.1, r.2 ++ [m])
        else match m.data with
          | some (d, po) => (r.1.splEmit c g m d po, r.2)
          | none => match r.1.splRead c g m.chunk with
            | (s, .got d po) => (s.splEmit c g m d po, r.2)
            | (s, .fault) => (s.splFail c g false, r.2)
            | (s, .walkPoison) => (s.splFail c g true, r.2)
            | (s, .wait) => (s, r.2 ++ [m])
            | (s, .held _) => (s, r.2 ++ [m])) (s, [])
    s.onColl c g (fun k => { k with send := left })

/-- Whether a chunk can move into one of the four send buffers (R268). DESIGN CHOICE: of a reduction's four, running sums take three at most,
so that a result never waits for them (R291, log entry 28). -/
def Coll.roomFor (k : Coll) (m : SplSend) : Bool :=
  decide ((k.send.filter (fun y => y.data.isSome)).length < (if reduces k.kind && m.ckind != .result then 3 else 4))

/-- Move chunks that wait in receive buffers into send buffers, while there is room. -/
def Coll.moveOn (k : Coll) : Coll :=
  k.recv.foldl (fun k r =>
    let (send, left) := r.fwd.foldl (fun (e : List SplSend × List SplSend) m =>
      if e.2.isEmpty && { k with send := e.1 }.roomFor m then (e.1 ++ [m], e.2) else (e.1, e.2 ++ [m])) (k.send, [])
    { k with send := send, recv := k.recv ++ [{ r with fwd := left }] }) { k with recv := [] }

/-! ### What is done with a sum or a result -/

/-- Whether a chunk is the last of this collective's stream. -/
def Coll.isLast (k : Coll) (d chunk : Nat) : Bool := chunk + 1 == k.total d

/-- A chunk with data for a receiver. -/
def State.splItem (s : State) (c D : Nat) (k : Coll) (key : Nat) (ck : CKind) (chunk : Nat) (d : List Byte) (poison : Bool) : SplSend :=
  { key := key, ckind := ck, chunk := chunk, member := s.me c D, data := some (d, poison), last := k.isLast D chunk }

/-- A result that this member holds or passes on, for ROOT or for the member whose block it is (R286). -/
def State.useOwner (s : State) (c D : Nat) (k : Coll) (chunk : Nat) (d : List Byte) (poison : Bool) : SplUse :=
  let owner := k.ownerOf D chunk
  if owner = s.me c D then { writes := k.writesTo (groupSize D) owner chunk d poison }
  else { fwd := [s.splItem c D k (s.groupChip c D owner) .result chunk d poison] }

/-- A RESULT for the leader of the next segment in the delivery order (Table 90). -/
def State.toNextLeader (s : State) (c D : Nat) (k : Coll) (chunk : Nat) (d : List Byte) (poison : Bool) : List SplSend :=
  match nextSeg D (s.me c D / segSize D) with
  | none => []
  | some j => [s.splItem c D k (s.groupChip c D (j * segSize D)) .result chunk d poison]

/-- A RESULT for the next member of the segment, the last member of the last segment apart, which holds it. -/
def State.toNextMember (s : State) (c D : Nat) (k : Coll) (chunk : Nat) (d : List Byte) (poison : Bool) : List SplSend :=
  let me := s.me c D
  if (me + 1) % segSize D = 0 ∨ me + 2 = groupSize D then []
  else [s.splItem c D k (s.groupChip c D (me + 1)) .result chunk d poison]

/-- A running sum that includes this member's contribution (R285): it goes to the next member, to the next segment's leader, or as the
result to its delivery (R286). -/
def State.useSum (s : State) (c D : Nat) (k : Coll) (chunk : Nat) (d : List Byte) (poison : Bool) : SplUse :=
  let me := s.me c D
  if (me + 1) % segSize D ≠ 0 then { fwd := [s.splItem c D k (s.groupChip c D (me + 1)) .partialSum chunk d poison] }
  else if me + 1 < groupSize D then { fwd := [s.splItem c D k (s.groupChip c D (me + 1)) .carry chunk d poison] }
  else if k.kind ≠ 0 then s.useOwner c D k chunk d poison
  else
    { writes := k.writesTo (groupSize D) me chunk d poison
      fwd := if me = leaderOf D me then s.toNextLeader c D k chunk d poison
        else [s.splItem c D k (s.groupChip c D (leaderOf D me)) .result chunk d poison] }

/-- A RESULT that arrives (Table 90). `plane`: as the output of a plane. -/
def State.useResult (s : State) (c D : Nat) (k : Coll) (plane : Bool) (chunk : Nat) (d : List Byte) (poison : Bool) : SplUse :=
  let me := s.me c D
  let lead := leaderOf D me
  let w := k.writesTo (groupSize D) me chunk d poison
  let via := k.mode == some false && !k.isLost chunk
  if k.kind ≠ 0 then s.useOwner c D k chunk d poison
  else if me ≠ lead then { writes := w, fwd := if plane then [] else s.toNextMember c D k chunk d poison }
  else if plane then { writes := w, fwd := if me / segSize D + 1 = segCount D then s.toNextLeader c D k chunk d poison else [] }
  else if via && me / segSize D + 1 != segCount D then
    { fwd := s.toNextLeader c D k chunk d poison ++ [s.splItem c D k (planeKey (k.planeOf chunk)) .result chunk d poison] }
  else { writes := w, fwd := s.toNextLeader c D k chunk d poison ++ s.toNextMember c D k chunk d poison }

/-- Note the chunks of this member that a use writes at its destination. -/
def Coll.noteUse (k : Coll) (u : SplUse) (m chunk : Nat) (poison : Bool) : Coll := if u.writes.isEmpty then k else k.note m chunk poison

/-! ### What can be done now -/

/-- Form the running sums whose own contribution can be read, each in its receive buffer (R279, R285). -/
def State.splAddAll (s : State) (c g : Nat) : State :=
  match s.coll c g with
  | none => s
  | some (x, k) =>
    k.recv.foldl (fun s r =>
      match r.sum with
      | none => s
      | some (v, vp) =>
        match s.splRead c g r.chunk with
        | (s, .got d po) =>
          let e := addVec v d
          s.onColl c g (fun k =>
            let u := s.useSum c x.desc.toNat k r.chunk e (po || vp)
            { k with recv := k.recv.map (fun y => if y == r then { r with sum := none, fwd := r.fwd ++ u.fwd, writes := r.writes ++ u.writes } else y) }.noteUse
              u (s.me c x.desc.toNat) r.chunk (po || vp))
        | (s, .fault) => s.splFail c g false
        | (s, .walkPoison) => s.splFail c g true
        | (s, .wait) => s
        | (s, .held _) => s) s

/-- Begin running sums with this member's own value while a send buffer has room (R279). -/
def State.splBeginAll (s : State) (c g : Nat) : State :=
  match s.coll c g with
  | none => s
  | some (x, k) =>
    let D := x.desc.toNat
    k.starts.foldl (fun s n =>
      match s.coll c g with
      | none => s
      | some (_, k) =>
        if !k.roomFor (s.splItem c D k 0 .partialSum n [] false) then s else
        match s.splRead c g n with
        | (s, .got d po) => s.onColl c g (fun k =>
            let u := s.useSum c D k n d po
            { k with starts := k.starts.filter (fun y => y != n), send := k.send ++ u.fwd, writes := k.writes ++ u.writes }.noteUse
              u (s.me c D) n po)
        | (s, .fault) => s.splFail c g false
        | (s, .walkPoison) => s.splFail c g true
        | (s, .wait) => s
        | (s, .held _) => s) s

/-- Copy this member's own block to its destination where Table 86 places one (R287). -/
def State.splOwnAll (s : State) (c g : Nat) : State :=
  match s.coll c g with
  | none => s
  | some (x, k) =>
    k.own.foldl (fun s n =>
      match s.splRead c g n with
      | (s, .got d po) => s.onColl c g (fun k =>
          { k with
            own := k.own.filter (fun y => y != n)
            writes := k.writes ++ k.writesTo (groupSize x.desc.toNat) (s.me c x.desc.toNat) n d po }.note (s.me c x.desc.toNat) n po)
      | (s, .fault) => s.splFail c g false
      | (s, .walkPoison) => s.splFail c g true
      | (s, .wait) => s
      | (s, .held _) => s) s

/-- Make the writes of a list that are accepted, in order: those that are left. -/
def State.splWrites (s : State) (c g : Nat) (l : List SplWrite) : State × List SplWrite :=
  l.foldl (fun (r : State × List SplWrite) w =>
    match r.1.splWritePart c g w.va w.data w.poison with
    | (s, .got _ _) => (s, r.2)
    | (s, .fault) => (s.splFail c g false, r.2)
    | (s, .walkPoison) => (s.splFail c g true, r.2)
    | (s, .wait) => (s, r.2 ++ [{ w with held := none }])
    | (s, .held a) => (s, r.2 ++ [{ w with held := some a }])) (s, [])

/-- Make the destination writes that are accepted, those of the receive buffers first. -/
def State.splWriteAll (s : State) (c g : Nat) : State :=
  match s.coll c g with
  | none => s
  | some (_, k) =>
    let (s, recv) := k.recv.foldl (fun (e : State × List SplRecv) r =>
      let (s, left) := e.1.splWrites c g r.writes
      (s, e.2 ++ [{ r with writes := left }])) (s, [])
    let (s, left) := s.splWrites c g k.writes
    s.onColl c g (fun k => { k with recv := recv, writes := left })

/-- Whether nothing is left to do with a receive buffer. -/
def SplRecv.isFree (r : SplRecv) : Bool := r.sum.isNone && r.fwd.isEmpty && r.writes.isEmpty

/-- Free the receive buffers with nothing left to do, and grant what is free (R278). -/
def State.splFree (s : State) (c g : Nat) : State :=
  match s.coll c g with
  | none => s
  | some (_, k) =>
    let freed := (k.recv.filter SplRecv.isFree).map (fun r => (r.key, r.ck))
    (s.onColl c g (fun k => { k with recv := k.recv.filter (fun r => !r.isFree) })).splGrantAll c g freed

/-- One round of sums, moves to the send buffers and sends. -/
def State.splRound (s : State) (c g : Nat) : State :=
  (((s.splAddAll c g).splBeginAll c g).onColl c g Coll.moveOn).splSendAll c g

/-- Do all that a collective can do now. A translation fault ends it (R270, R273). -/
def State.splPump (s : State) (c g : Nat) : State :=
  let s := ((((s.splOwnAll c g).splRound c g).splRound c g).splWriteAll c g).splFree c g
  match s.coll c g with
  | none => s
  | some (_, k) => if k.status = 2 then s.splEnd c g 2 else s

/-! ### Mode of a segment -/

/-- The mode of the segment is known: the member's stream begins (R281, R284, R285). -/
def State.splApplyMode (s : State) (c g : Nat) (trav : Bool) (planes : BitVec 24) : State :=
  match s.coll c g with
  | none => s
  | some (x, k) =>
    let D := x.desc.toNat
    let me := s.me c D
    let all := upto (k.total D)
    let s := s.onColl c g (fun k => { k with
      mode := some trav, planes := planes
      starts := if trav && me == 0 then all else []
      send := if trav then k.send else all.map (fun n =>
        { key := planeKey ((onesOf planes.toNat 24).getD (n % max 1 (popCount planes.toNat 24)) 0), ckind := .data, chunk := n,
          member := me, data := none, last := n + 1 == k.total D }) })
    let s := (s.wr (gstate x c g) F.SPL_GSTATE.TRAVERSE (if trav then 1 else 0)).showGroup c g 5
    (s.splGrantAll c g []).splPump c g

/-- The leader chooses the mode of its segment and tells its members (R281). -/
def State.splChoose (s : State) (c g : Nat) (trav : Bool) (planes : BitVec 24) : State :=
  match s.coll c g with
  | none => s
  | some (x, k) =>
    let D := x.desc.toNat
    let lead := leaderOf D (s.me c D)
    let arg := planes.toNat + (if trav then 2 ^ 24 else 0)
    let s := (natsFrom lead (segSize D)).foldl (fun s m =>
      if m = s.me c D then s else s.splTell (some c) 1 (s.splMsg c g k.seq (s.groupChip c D m) 0 arg false)) s
    s.splApplyMode c g trav planes

/-- The leader falls back to traverse mode (R282, R283). -/
def State.splFallback (s : State) (c g : Nat) : State :=
  match s.coll c g with
  | none => s
  | some (x, k) =>
    let s := s.onColl c g (fun k => { k with granted := 0, retryAt := none, attempt := 0 })
    (s.bump (R.SPL_COUNT x.die) F.SPL_COUNT.FALLBACKS 1).splChoose c g true k.planes

/-- Rope ports of this chip that are up, as a mask. -/
def State.upMask (s : State) : BitVec 24 := BitVec.ofNat 24 (s.upRopes.foldl (fun m p => m ||| 1 <<< p) 0)

/-- Send the next claim attempt to every plane of the set (R282). -/
def State.splClaim (s : State) (c g : Nat) (planes : BitVec 24) : State :=
  match s.coll c g with
  | none => s
  | some (x, k) =>
    let D := x.desc.toNat
    let me := s.me c D
    let s := s.onColl c g (fun k => { k with
      planes := planes, attempt := k.attempt + 1, retryAt := none, granted := 0
      claimAt := if k.attempt = 0 then s.time else k.claimAt })
    let s := s.showGroup c g 4
    (onesOf planes.toNat 24).foldl (fun s p =>
      s.splPlane 3 p (s.splMsg c g k.seq s.ownChip 0 (s.slotMask c D me) (decide (segSize D ≤ me)))) s

/-- A leader has READY from every member: it claims, or takes traverse mode (R281). -/
def State.splDecide (s : State) (c g : Nat) : State :=
  match s.coll c g with
  | none => s
  | some (x, k) =>
    let D := x.desc.toNat
    let planes := k.ready.foldl (fun m r => m &&& r.2) (BitVec.ofNat 24 (bits D 96 24))
    if bits D 88 1 = 1 || !s.flag (R.SPL_CTRL x.die) F.SPL_CTRL.SWITCH_EN || planes == 0 then s.splChoose c g true planes
    else s.splClaim c g planes

/-- READY of a member reaches its leader (R281). -/
def State.splReadyFrom (s : State) (c g m : Nat) (mask : BitVec 24) : State :=
  match s.coll c g with
  | none => s
  | some (x, k) =>
    let D := x.desc.toNat
    let me := s.me c D
    if me ≠ leaderOf D me || leaderOf D m != me || k.mode.isSome || k.attempt != 0 || k.ready.any (fun r => r.1 == m) then s else
    let s := s.onColl c g (fun k => { k with ready := k.ready ++ [(m, mask)] })
    if k.ready.length + 1 = segSize D then s.splDecide c g else s

/-! ### Issue and start -/

/-- Queue an SPL instruction; a full queue of 16 stalls the sequencer, which does not commit (R272). The group's core issues its
collectives. -/
def State.splIssue (s : State) (p c g : Nat) (o : SplOp) : State :=
  match SMap.look (s.ctx c).groups g with
  | none => s.raiseInsn p c cIllegalInsn (s.pc p).toNat 0
  | some x =>
    if 16 ≤ x.queue.length then s else
    let x' := { x with queue := x.queue ++ [o] }
    let x' := if x.queue.isEmpty && x.cur.isNone then
        { x' with waitSince := s.time, waitDeadline := s.time + s.collTicks x.die, waitLimit := s.collTicks x.die, waitExt := none }
      else x'
    let s := s.setGroup c g x'
    (s.showGroup c g (if x.cur.isSome then s.rd (gstate x c g) F.SPL_GSTATE.STATE else 2)).commit16 p

/-- The cells of an SPL instruction exist on this core. -/
def State.splCells (s : State) (p : Nat) (d : Spl) : Bool :=
  (!d.waitEn || decide (d.wcell.toNat < s.cellCount p (s.runSlotOf p))) &&
  (d.amount == 0 || decide (d.icell.toNat < s.cellCount p (s.runSlotOf p)))

/-- An SPL instruction is issued: operands are read and the alignments of both addresses checked (R148, R270). -/
def State.splInsn (s : State) (p : CoreId) (legal : Bool) (d : Spl) (f : State → Nat → Word → Word → Nat → State) : State :=
  s.issue p legal 16 (fun s c =>
    if !s.splCells p d then s.raiseInsn p c cIllegalInsn (s.pc p).toNat 0 else
    let src := s.baseOff p d.rs d.soff
    let dst := s.baseOff p d.rdst d.doff
    if src.toNat % 64 ≠ 0 then s.raiseMisaligned p c src.toNat
    else if dst.toNat % 64 ≠ 0 then s.raiseMisaligned p c dst.toNat
    else f s c src dst (s.sreg p d.rl).toNat)

/-- Bits of an element of a format code. -/
def widthOf (f : BitVec 4) : Nat := match fmtOf f.toNat with | some x => fmtBits x | none => 0

/-- Whether a stream obeys R270: whole 64 B units, at most 1 TiB. -/
def streamOk (kind : Nat) (f : BitVec 4) (n M : Nat) : Bool :=
  let l := n * widthOf f
  l % 512 == 0 && decide (l / 8 * (if kind = 1 ∨ kind = 2 ∨ kind = 5 then M else 1) ≤ 2 ^ 40)

/-- Members of the group that a handle of context `c` names. -/
def State.handleSize (s : State) (c g : Nat) : Nat :=
  match SMap.look (s.ctx c).groups g with
  | some x => groupSize x.desc.toNat
  | none => 1

/-- SPL_RUN (R164, R270, R272). -/
def execSplRun (p : CoreId) (d : Spl) (s : State) : Host.Outcome State Fault Refusal :=
  .next (s.splInsn p (legalRun d) d (fun s c src dst n =>
    if streamOk d.kind.toNat d.fmt n (s.handleSize c d.group) then
      s.splIssue p c d.group
        (.run d.kind.toNat d.fmt src dst n (s.waitOf p d.waitEn d.wcell d.rt) (incOf d.icell d.amount))
    else s.raiseInsn p c cSplArg (s.pc p).toNat 0))

/-- SPL_BATCH (R164, R289). -/
def execSplBatch (p : CoreId) (d : Spl) (s : State) : Host.Outcome State Fault Refusal :=
  .next (s.splInsn p (legalBatch d) d (fun s c src _ n =>
    if 1 ≤ n ∧ n ≤ 64 then
      s.splIssue p c d.group (.batch src.toNat n (s.waitOf p d.waitEn d.wcell d.rt) (incOf d.icell d.amount))
    else s.raiseInsn p c cSplArg (s.pc p).toNat 0))

/-- SPL_COUNTS (R164, R290). -/
def execSplCounts (p : CoreId) (d : Spl) (s : State) : Host.Outcome State Fault Refusal :=
  .next (s.splInsn p (legalCounts d) d (fun s c src dst n =>
    if 1 ≤ n ∧ n ≤ 8 then
      s.splIssue p c d.group (.counts src dst n (s.waitOf p d.waitEn d.wcell d.rt) (incOf d.icell d.amount))
    else s.raiseInsn p c cSplArg (s.pc p).toNat 0))

/-- Wait and increment of a queued SPL instruction. -/
def splWait (o : SplOp) : Option (Nat × Word) :=
  match o with
  | .run _ _ _ _ _ w _ => w
  | .batch _ _ w _ => w
  | .counts _ _ _ w _ => w

/-- Completion increment of a queued SPL instruction. -/
def splInc (o : SplOp) : Option (Nat × Nat) :=
  match o with
  | .run _ _ _ _ _ _ i => i
  | .batch _ _ _ i => i
  | .counts _ _ _ _ i => i

/-- Whether the head of a group's queue may start as far as its belay goes (R272). -/
def State.splReadyHead (s : State) (c : Nat) (x : Group) (o : SplOp) : Bool :=
  match splWait o with
  | none => true
  | some (cell, t) => match s.slotOf x.phys c with
    | none => false
    | some i => decide (t.toNat ≤ (s.cellValue x.phys i cell).toNat)

/-- One entry of a batch list as a stream, none where it breaks R270 (R289). -/
def batchEntry (M : Nat) (d : List Byte) : Option Stream :=
  let src := leAt d 0 8
  let dst := leAt d 8 8
  let n := leAt d 16 8
  let kind := leAt d 24 1
  let f : BitVec 4 := BitVec.ofNat 4 (leAt d 25 1)
  let ok := src % 64 == 0 && dst % 64 == 0 && decide (kind ≤ 5) && decide (leAt d 25 1 < 16) && (fmtOf f.toNat).isSome &&
    (!reduces kind || f == 0) && allZero (slice d 26 6) && streamOk kind f n M
  if ok then some { kind := kind, fmt := f, src := BitVec.ofNat 64 src, dst := BitVec.ofNat 64 dst, block := n * widthOf f / 8 }
  else none

/-- The streams of a list of entries, none where an entry is wrong or the kinds differ. -/
def batchStreams (M : Nat) (l : List (List Byte)) : Option (List Stream) :=
  let r := l.map (batchEntry M)
  if r.all Option.isSome then
    let xs := r.filterMap id
    match xs with
    | [] => some []
    | x :: _ => if xs.all (fun y => y.kind == x.kind) then some xs else none
  else none

/-- The streams of a queued instruction (R269, R289, R290): none where a batch is wrong, with the state after the list is read and
whether the list lies outside the allocation. The engine consumes no poison (R318, R319); DESIGN CHOICE: a list that arrives poisoned
counts as wrong (log entry 93). -/
def State.splStreams (s : State) (c : Nat) (x : Group) (o : SplOp) : State × Option (List Stream) × Bool :=
  let M := groupSize x.desc.toNat
  match o with
  | .run kind f src dst n _ _ => (s, some [{ kind := kind, fmt := f, src := src, dst := dst, block := n * widthOf f / 8 }], false)
  | .counts src dst _ _ _ => (s, some [{ kind := 5, fmt := 0, src := src, dst := dst, block := 64 }], false)
  | .batch a n _ _ => match s.slotOf x.phys c with
    | none => (s, none, true)
    | some i => match s.spdAddr x.phys i a (32 * n) with
      | none => (s, none, true)
      | some l => match s.spdRead x.phys (some c) l (32 * n) with
        | (s, d, po) => (s, if po then none else batchStreams M (chunksOf 32 n d), false)

/-- A member's own traffic of a non-reducing collective (R287). -/
def State.splMove (s : State) (c g : Nat) : State :=
  match s.coll c g with
  | none => s
  | some (x, k) =>
    let D := x.desc.toNat
    let M := groupSize D
    let me := s.me c D
    let all := upto (k.total D)
    let blkOf := fun n => match locate M k.streams n with | some a => a.blk | none => 0
    let lastOf := fun (l : List Nat) n => l.getLast? == some n
    let item := fun (key n : Nat) (last : Bool) =>
      ({ key := key, ckind := .data, chunk := n, member := me, data := none, last := last } : SplSend)
    let toM := fun (m : Nat) (l : List Nat) => l.map (fun n => item (s.groupChip c D m) n (lastOf l n))
    let others := (upto M).filter (fun m => m != me)
    let lead := leaderOf D me
    let leads := ((upto (segCount D)).map (fun j => j * segSize D)).filter (fun m => m != me)
    let mates := (natsFrom lead (segSize D)).filter (fun m => m != me)
    let (own, send) := match k.kind with
      | 2 => (all, others.flatMap (fun m => toM m all))
      | 5 => (all.filter (fun n => blkOf n == me), others.flatMap (fun m => toM m (all.filter (fun n => blkOf n == m))))
      | _ => if me = groupRoot D then
          (all, leads.flatMap (fun m => toM m all) ++ (if me = lead then mates.flatMap (fun m => toM m all) else []))
        else ([], [])
    let s := s.onColl c g (fun k => { k with own := own, send := send })
    ((s.showGroup c g 5).splGrantAll c g []).splPump c g

/-- The collective that a descriptor starts, with the SEQ it takes. -/
def State.newColl (s : State) (x : Group) (o : SplOp) (l : List Stream) : Coll :=
  let counts := match o with
    | .counts _ _ k _ _ => some k
    | _ => none
  { streams := l, inc := splInc o, counts := counts, seq := x.seq + 1, deadline := s.time + s.collTicks x.die }

/-- The group once that collective has started. -/
def State.takeHead (s : State) (x : Group) (o : SplOp) (l : List Stream) : Group :=
  { x with
    seq := x.seq + 1, queue := x.queue.drop 1, early := x.early.filter (fun e => e.2.seq == x.seq + 1)
    cur := some (s.newColl x o l) }

/-- A collective starts with its streams (R272, R281, R293). -/
def State.splBegin (s : State) (c g : Nat) (x : Group) (o : SplOp) (l : List Stream) : State :=
  let D := x.desc.toNat
  let s := s.setGroup c g (s.takeHead x o l)
  let s := s.wr (gstate x c g) F.SPL_GSTATE.SEQ (x.seq + 1).toNat
  let s := s.wr (R.SPL_STATUS x.die) F.SPL_STATUS.ACTIVE (s.rd (R.SPL_STATUS x.die) F.SPL_STATUS.ACTIVE + 1)
  if reduces ((l.head?.map Stream.kind).getD 0) then
    let s := s.showGroup c g 3
    let me := s.me c D
    let lead := leaderOf D me
    if me = lead then s.splReadyFrom c g me s.upMask
    else s.splTell (some c) 0 (s.splMsg c g (x.seq + 1) (s.groupChip c D lead) 0 s.upMask.toNat false)
  else s.splMove c g

/-- A descriptor completes without a collective of its own: N = 0, or a wrong batch (R270, R289). -/
def State.splSkip (s : State) (c g : Nat) (x : Group) (o : SplOp) (status : Nat) : State :=
  let x' := { x with queue := x.queue.drop 1, waitSince := s.time, waitDeadline := s.time + s.collTicks x.die, waitLimit := s.collTicks x.die, waitExt := none }
  let s := (s.setGroup c g x').wr (gstate x c g) F.SPL_GSTATE.LAST_STATUS status
  let s := (s.showGroup c g (if x'.queue.isEmpty then 1 else 2)).completeInc c x.phys (splInc o)
  let s := if 2 ≤ status then s.raise c cSplFailed (uSplice x.die) 0 status else s
  s.handOver x.phys

/-- CREDIT of a receiver: what lies before its CHUNK is acknowledged, and its count may be sent on that stream (R273, R278, log entry 28). A
plane's CREDIT comes in the name of the segment's leader: a leader sends to no leader of its segment but through a plane, and another
member sends its DATA to planes only. -/
def State.splCredit (s : State) (c g : Nat) (m : SplCtl) : State :=
  match s.coll c g with
  | none => s
  | some (x, k) =>
    let D := x.desc.toNat
    let me := s.me c D
    let ck := ckindOf (m.arg.toNat / 8)
    let fromPlane := k.mode == some false && m.src.toNat == s.groupChip c D (leaderOf D me) && (me == leaderOf D me || ck == .data)
    let i := streamId (if fromPlane then planeKey (k.planeOf m.chunk.toNat) else m.src.toNat) ck
    s.onColl c g (fun k => { k with
      credits := addAt k.credits i (m.arg.toNat % 8)
      unacked := k.unacked.filter (fun u => !(u.1 == i && decide (u.2 < m.chunk.toNat))) })

/-- Messages for this collective that came before it started. -/
def State.splEarly (s : State) (c g : Nat) : State :=
  match SMap.look (s.ctx c).groups g with
  | none => s
  | some x =>
    let s := s.setGroup c g { x with early := [] }
    x.early.foldl (fun s e =>
      if e.1 = 0 then
        match s.memberOf c x.desc.toNat e.2.src.toNat with
        | some m => s.splReadyFrom c g m (BitVec.ofNat 24 e.2.arg.toNat)
        | none => s
      else (s.splCredit c g e.2).splPump c g) s

/-- The head of a group's queue starts, if it may (R272). -/
def State.splStart (s : State) (c g : Nat) : State :=
  match SMap.look (s.ctx c).groups g with
  | none => s
  | some x => match x.queue, x.cur with
    | o :: _, none =>
      if (s.ctx c).fenced || !s.splReadyHead c x o then s else
      (match s.splStreams c x o with
      | (s, _, true) => s.raise c cSpdBounds (uSplice x.die) 0 0
      | (s, none, _) =>
        ((s.setGroup c g { x with seq := x.seq + 1 }).wr (gstate x c g) F.SPL_GSTATE.SEQ (x.seq + 1).toNat).splSkip c g { x with seq := x.seq + 1 } o 7
      | (s, some l, _) =>
        if totalChunks l (groupSize x.desc.toNat) = 0 then s.splSkip c g x o 0
        else (s.splBegin c g x o l).splEarly c g)
    | _, _ => s

/-- SPL_COLLECTIVE_START. -/
def execSplCollectiveStart (ctx : CtxId) (g : GroupId) (s : State) : Host.Outcome State Fault Refusal :=
  .next (s.splStart ctx g)

/-! ### Messages received -/

/-- The die whose engine counts a message that names no group of this chip. -/
def strayDie : Nat := 0

/-- Whether a sequence number lies ahead of another, in 32 bits. -/
def seqAhead (a b : BitVec 32) : Bool := a != b && decide ((a - b).toNat < 2 ^ 31)

/-- A message of the collective has arrived: its deadline is set anew (R293). -/
def State.splTouch (s : State) (c g : Nat) : State :=
  match s.coll c g with
  | none => s
  | some (x, _) => (s.onColl c g (fun k => { k with deadline := s.time + s.collTicks x.die, ext := none })).stamp (uGroup c g)

/-- Match a control message with its context, group and collective (R220, R278, Table 93). `keep`: a message for a collective this
member has not started is kept for it. `whenFenced` is what a fenced context's message draws, `whenOver` what one for a collective that
is over draws. -/
def State.splMatchOr (s : State) (ctype : Nat) (m : SplCtl) (keep : Bool) (whenFenced whenOver : State → Nat → State)
    (f : State → Nat → Nat → Group → State) : State :=
  match s.keyed m.key.toNat with
  | [c] =>
    if (s.ctx c).fenced then whenFenced s c else
    (match SMap.look (s.ctx c).groups m.group.val with
    | none => s.splStale strayDie
    | some x =>
      if x.cur.isSome && m.seq == x.seq then
        let s := s.splTouch c m.group.val
        (f s c m.group.val x).splPump c m.group.val
      else if keep && seqAhead m.seq x.seq then s.setGroup c m.group.val { x with early := x.early ++ [(ctype, m)] }
      else whenOver s c)
  | _ => s.splStale strayDie

/-- Match a control message; one for a collective that is over is dropped and counted (R278). -/
def State.splMatch (s : State) (ctype : Nat) (m : SplCtl) (keep : Bool) (whenFenced : State → Nat → State)
    (f : State → Nat → Nat → Group → State) : State :=
  s.splMatchOr ctype m keep whenFenced (fun s c => s.splStale (match SMap.look (s.ctx c).groups m.group.val with
    | some x => x.die.val
    | none => strayDie)) f

/-- FENCED is returned to the sender of a message (Table 93). -/
def State.splFencedTo (s : State) (m : SplCtl) (c : Nat) : State :=
  s.splTell (some c) 7 { m with dst := m.src, src := BitVec.ofNat 17 s.ownChip, arg := 0, hasCarry := false }

/-- SPL_READY (R281). -/
def execSplReady (m : SplCtl) (s : State) : Host.Outcome State Fault Refusal :=
  .next (s.splMatch 0 m true (fun s c => s.splFencedTo m c) (fun s c g x =>
    match s.memberOf c x.desc.toNat m.src.toNat with
    | some k => s.splReadyFrom c g k (BitVec.ofNat 24 m.arg.toNat)
    | none => s))

/-- SPL_MODE (R281). -/
def execSplMode (m : SplCtl) (s : State) : Host.Outcome State Fault Refusal :=
  .next (s.splMatch 1 m false (fun s c => s.splFencedTo m c) (fun s c g _ =>
    match s.coll c g with
    | some (_, k) =>
      if k.mode.isSome || !reduces k.kind then s
      else s.splApplyMode c g (bits m.arg.toNat 24 1 == 1) (BitVec.ofNat 24 m.arg.toNat)
    | none => s))

/-- SPL_CREDIT (R278). -/
def execSplCredit (m : SplCtl) (s : State) : Host.Outcome State Fault Refusal :=
  .next (s.splMatch 2 m true (fun s c => s.splFencedTo m c) (fun s c g _ => s.splCredit c g m))

/-- The plane a GRANT or NO_SLOT names. -/
def planeArg (m : SplCtl) : Nat := m.arg.toNat % 32

/-- Whether the 200 µs since the first claim attempt have passed (R282). -/
def State.claimLate (s : State) (k : Coll) : Bool := decide (20000 ≤ (s.time - k.claimAt).toNat)

/-- The leader gives an unanswered claim attempt up: RELEASE goes to every plane of it, and it falls back (R282). -/
def State.splGiveUp (s : State) (c g : Nat) : State :=
  match s.coll c g with
  | none => s
  | some (_, k) => (s.splRelease c g k.seq k.planes).splFallback c g

/-- A GRANT arrives at the leader (R282): once every plane has granted, the segment runs in switch mode; one that comes when the 200 µs have
passed loses to the fallback. A GRANT after a fallback or a refusal is answered with RELEASE. -/
def State.splGranted (s : State) (c g : Nat) (x : Group) (m : SplCtl) : State :=
  match s.coll c g with
  | none => s
  | some (_, k) =>
    let b : BitVec 24 := BitVec.ofNat 24 (2 ^ planeArg m)
    if k.mode.isSome || k.attempt == 0 || k.retryAt.isSome || k.planes &&& b == 0 then s.splRelease c g m.seq b
    else if s.claimLate k then s.splGiveUp c g
    else if k.granted ||| b = k.planes then
      let s := s.onColl c g (fun k => { k with granted := k.planes, held := true })
      let s := s.wr (R.SPL_STATUS x.die) F.SPL_STATUS.CLAIMS_HELD (s.rd (R.SPL_STATUS x.die) F.SPL_STATUS.CLAIMS_HELD + 1)
      s.splChoose c g false k.planes
    else s.onColl c g (fun k => { k with granted := k.granted ||| b })

/-- SPL_GRANT (R282, R295): one for a fenced context, or for a collective that is over, is answered with RELEASE. -/
def execSplGrant (m : SplCtl) (s : State) : Host.Outcome State Fault Refusal :=
  .next (
    let release := fun (s : State) (c : Nat) => s.splRelease c m.group.val m.seq (BitVec.ofNat 24 (2 ^ planeArg m))
    s.splMatchOr 4 m false release release (fun s c g x => s.splGranted c g x m))

/-- A claim attempt is refused (R282): granted planes are released, and the next attempt is timed or the leader falls back. -/
def State.splRefused (s : State) (c g : Nat) (x : Group) : State :=
  match s.coll c g with
  | none => s
  | some (_, k) =>
    if k.mode.isSome || k.attempt == 0 || k.retryAt.isSome then s else
    let s := (s.splRelease c g k.seq k.granted).count (R.SPL_COUNT x.die) F.SPL_COUNT.NO_SLOTS 1
    let u := s.rd (R.SPL_CTRL x.die) F.SPL_CTRL.BACKOFF_US
    let at_ := s.time + BitVec.ofNat 64 ((if u = 0 then 1 else u) * 100 * 2 ^ (k.attempt - 1))
    if 8 ≤ k.attempt || decide (20000 ≤ (at_ - k.claimAt).toNat) then s.splFallback c g
    else s.onColl c g (fun k => { k with granted := 0, retryAt := some at_ })

/-- SPL_NO_SLOT. -/
def execSplNoSlot (m : SplCtl) (s : State) : Host.Outcome State Fault Refusal :=
  .next (s.splMatch 5 m false (fun s _ => s) (fun s c g x => s.splRefused c g x))

/-- CLAIM_RETRY: the backoff has passed; planes whose port went down leave the set (R282, R283). -/
def execClaimRetry (ctx : CtxId) (g : GroupId) (s : State) : Host.Outcome State Fault Refusal :=
  .next (match s.coll ctx g with
    | none => s
    | some (_, k) => match k.retryAt with
      | none => s
      | some t =>
        if s.time.toNat < t.toNat then s else
        let ps := k.planes &&& s.upMask
        if ps = 0 then s.splFallback ctx g else s.splClaim ctx g ps)

/-- CLAIM_FALLBACK: 200 µs since the first attempt while one is unanswered (R282). -/
def execClaimFallback (ctx : CtxId) (g : GroupId) (s : State) : Host.Outcome State Fault Refusal :=
  .next (match s.coll ctx g with
    | none => s
    | some (_, k) =>
      if k.mode.isSome || k.attempt == 0 || k.retryAt.isSome || !s.claimLate k then s
      else s.splGiveUp ctx g)

/-! ### Chunks -/

/-- Whether a chunk is the output of a switch plane, which comes in the name of the segment's leader (log entry 28): at the leader every one
of that name, elsewhere a RESULT of a plane that is not lost. -/
def State.fromPlane (s : State) (c : Nat) (x : Group) (k : Coll) (h : Chunk) : Bool :=
  let D := x.desc.toNat
  let me := s.me c D
  let lead := leaderOf D me
  k.mode == some false && h.src.toNat == s.groupChip c D lead &&
  (me == lead || (h.ckind == .result && !k.isLost h.chunk.toNat))

/-- The key of the sender of a chunk. -/
def State.splSenderKey (s : State) (c : Nat) (x : Group) (k : Coll) (h : Chunk) : Nat :=
  if s.fromPlane c x k h then planeKey (k.planeOf h.chunk.toNat) else h.src.toNat

/-- What is to be done with a chunk that has passed its checks (R284 to R287): the sum it enters, and what it is used for at once. -/
def State.splUse (s : State) (c : Nat) (x : Group) (k : Coll) (h : Chunk) (d : List Byte) (poison : Bool) :
    Option (List Byte × Bool) × SplUse :=
  let D := x.desc.toNat
  let me := s.me c D
  let lead := leaderOf D me
  let n := h.chunk.toNat
  let plane := s.fromPlane c x k h
  match h.ckind with
  | .data =>
    (none, { writes := k.writesTo (groupSize D) h.member.toNat n d poison
             fwd := if k.kind = 3 ∧ me = lead then
                 ((natsFrom lead (segSize D)).filter (fun m => m != me)).map (fun m =>
                   { s.splItem c D k (s.groupChip c D m) .data n d poison with member := h.member.toNat })
               else [] })
  | .partialSum =>
    if plane then (none, { fwd := [s.splItem c D k (s.groupChip c D (lead + segSize D)) .carry n d poison] })
    else (some (d, poison), {})
  | .carry =>
    if k.travels n then (some (d, poison), {})
    else (none, { fwd := [s.splItem c D k (planeKey (k.planeOf n)) .carry n d poison] })
  | .result => (none, s.useResult c D k plane n d poison)

/-- Take a chunk into a receive buffer and use it. -/
def State.splTake (s : State) (c g : Nat) (x : Group) (h : Chunk) (d : List Byte) (poison : Bool) : State :=
  match s.coll c g with
  | none => s
  | some (_, k) =>
    let n := h.chunk.toNat
    let key := s.splSenderKey c x k h
    let i := streamId key h.ckind
    let (sum, u) := s.splUse c x k h d poison
    let m := if h.ckind = .data then h.member.toNat else s.me c x.desc.toNat
    s.onColl c g (fun k => Coll.noteUse { k with
      came := addAt k.came i 1
      next := SMap.put k.next i (max (n + 1) (SMap.lookD k.next i 0))
      outs := if s.fromPlane c x k h && !k.outs.contains n then k.outs ++ [n] else k.outs
      carry := if s.fromPlane c x k h then SMap.del k.carry n
        else if h.ckind == .carry && !k.travels n then SMap.put k.carry n (d, poison) else k.carry
      redo := if h.ckind == .partialSum && sum.isSome && !k.travels n then k.redo ++ [n] else k.redo
      recv := k.recv ++ [{ key := key, ck := h.ckind, chunk := n, sum := sum, fwd := u.fwd, writes := u.writes }] } u m n poison)

/-- A chunk arrives (R275, R278, Table 93): its CRC is checked, a failing one is poisoned and reported, and it is used. -/
def State.splChunkIn (s : State) (h : Chunk) (d : List Byte) : State :=
  match s.keyed h.key.toNat with
  | [c] =>
    let g := h.group.val
    if (s.ctx c).fenced then
      s.splTell (some c) 7 { dst := h.src, src := BitVec.ofNat 17 s.ownChip, key := h.key, group := h.group, seq := h.seq,
                             chunk := 0, arg := 0, hasCarry := false }
    else match s.coll c g with
    | none => s.splStale (match SMap.look (s.ctx c).groups g with | some x => x.die.val | none => strayDie)
    | some (x, k) =>
      if h.seq ≠ x.seq then s.splStale x.die else
      let bad := h.crc.toNat != chunkCrc h d
      let key := s.splSenderKey c x k h
      let s := if bad then s.bump (R.SPL_COUNT x.die) F.SPL_COUNT.CRC_FAILS 1 else s
      let s := if bad || h.poison then s.fileWitness h.src.toNat (if 2 ^ 17 ≤ key then 0x10 + (key - 2 ^ 17) else 0) 5 else s
      ((s.splTouch c g).splTake c g x h d (bad || h.poison)).splPump c g
  | _ => s.splStale strayDie

/-- SPL_CHUNK. -/
def execSplChunk (h : Chunk) (payload : List Byte) (s : State) : Host.Outcome State Fault Refusal :=
  .next (s.splChunkIn h payload)

/-! ### Fences and lost planes -/

/-- Whether a collective has nothing left to receive, to send, to be acknowledged or to write (R273). -/
def State.splFinished (s : State) (c g : Nat) (x : Group) (k : Coll) : Bool :=
  k.recv.isEmpty && k.send.isEmpty && k.unacked.isEmpty && k.own.isEmpty && k.starts.isEmpty && k.writes.isEmpty &&
  s.out.all (fun q => !(q.eng == .splice && q.ctx == c && q.amount.toNat == g && !q.biv)) &&
  (k.status == 6 ||
    ((!reduces k.kind || k.mode.isSome) && (s.splExpects c x.desc.toNat k).all (fun i => decide (i.total ≤ k.cameOf i))))

/-- SPL_FENCED: the current collective completes with PEER_FENCED, but one that has nothing left to do completes as it stands; one for an
older SEQ is ignored (R296), one for a fenced context is dropped (R295). -/
def execSplFenced (m : SplCtl) (s : State) : Host.Outcome State Fault Refusal :=
  .next (match s.keyed m.key.toNat with
    | [c] =>
      if (s.ctx c).fenced then s else
      (match s.coll c m.group.val with
      | some (x, k) =>
        if m.seq ≠ x.seq then s
        else if s.splFinished c m.group.val x k then s.splEnd c m.group.val k.status.toNat
        else s.splEnd c m.group.val 3
      | none => s)
    | _ => s.splStale strayDie)

/-- Whether a collective runs in place (R271): ALL_REDUCE or REDUCE with equal addresses. -/
def Coll.inPlace (k : Coll) : Bool := k.streams.any (fun x => (x.kind == 0 || x.kind == 4) && x.src == x.dst)

/-- The chunks of a lost plane that a member sums again (R288): at the leader those whose segment output it has not received, elsewhere those
of which the plane has not freed its slot. -/
def State.redoneOf (s : State) (c D p : Nat) (k : Coll) : List Nat :=
  let i := streamId (planeKey p) .data
  let isOpen := fun n => k.unacked.contains (i, n) || k.send.any (fun m => m.key == planeKey p && m.ckind == .data && m.chunk == n)
  let lead := decide (s.me c D = leaderOf D (s.me c D))
  (upto (k.total D)).filter (fun n => k.planeOf n == p && !k.redo.contains n && (if lead then !k.outs.contains n else isOpen n))

/-- A member redoes a lost plane's chunks in traverse mode (R288): what was on its way to the plane is taken back, CARRY chunks become sums
again, and results of the plane's chunks pass from member to member. -/
def State.splRedo (s : State) (c g : Nat) (x : Group) (p : Nat) : State :=
  match s.coll c g with
  | none => s
  | some (_, k) =>
    let D := x.desc.toNat
    let me := s.me c D
    let lead := leaderOf D me
    let again := s.redoneOf c D p k
    let toP := fun (m : SplSend) => m.key == planeKey p
    let results := (k.send ++ k.recv.flatMap SplRecv.fwd).filter (fun m => toP m && m.ckind == .result)
    let sums : List SplRecv := if me ≠ lead then [] else again.filterMap (fun n =>
      (SMap.look k.carry n).map (fun v => { key := s.ownChip, ck := .carry, chunk := n, sum := some v }))
    let mine := fun (n : Nat) => k.planeOf n == p && !k.done.any (fun y => y.2 == n)
    (s.onColl c g (fun k =>
      let k' := { k with
        lost := k.lost ||| BitVec.ofNat 24 (2 ^ p)
        redo := k.redo ++ again
        relay := if k.kind = 0 && me != lead then k.relay ++ (upto (k.total D)).filter mine else k.relay
        send := k.send.filter (fun m => !toP m)
        unacked := k.unacked.filter (fun u => u.1 / 4 != planeKey p)
        starts := if me = 0 then k.starts ++ again else k.starts
        recv := k.recv.map (fun r => { r with fwd := r.fwd.filter (fun m => !toP m) }) ++ sums }
      results.foldl (fun k m => match m.data with
        | some (d, po) =>
          let u := s.useResult c D k false m.chunk d po
          { k with writes := k.writes ++ u.writes, send := k.send ++ s.toNextMember c D k m.chunk d po }.noteUse u me m.chunk po
        | none => k) k')).splGrantAll c g []

/-- A collective is aborted on this member (R288): every destination tile of the chunks not completed is written POISON, and it
completes with PLANE_LOST once those writes are accepted. -/
def State.splAbort (s : State) (c g : Nat) (x : Group) : State :=
  match s.coll c g with
  | none => s
  | some (_, k) =>
    let D := x.desc.toNat
    let me := s.me c D
    let mine := fun n => match locate (groupSize D) k.streams n with
      | some a => if k.kind = 1 then a.blk == me else if k.kind = 4 then me == groupRoot D else true
      | none => false
    let left := (upto (k.total D)).filter (fun n => mine n && !k.done.any (fun y => y.2 == n))
    let s := s.onColl c g (fun k => { k with
      send := [], starts := [], own := [], unacked := [], recv := k.recv.map (fun r => { r with sum := none, fwd := [] }) })
    let s := left.foldl (fun s n =>
      let len := match locate (groupSize D) k.streams n with | some a => a.len | none => 0
      s.onColl c g (fun k => { k with writes := k.writes ++ k.writesTo (groupSize D) me n (List.replicate len 0) true }.note me n true)) s
    let s := (s.onColl c g (fun k => { k with status := 6 })).splPump c g
    match s.coll c g with
    | none => s
    | some (_, k) => if k.allWrites.isEmpty then s.splEnd c g 6 else s

/-- A leader learns of a lost plane (R288): REDO to its members, or ABORT where the collective runs in place. -/
def State.splLoss (s : State) (c g : Nat) (x : Group) (p : Nat) : State :=
  match s.coll c g with
  | none => s
  | some (_, k) =>
    let D := x.desc.toNat
    let me := s.me c D
    if me ≠ leaderOf D me || k.mode != some false || k.planes.toNat >>> p % 2 == 0 || k.lost.toNat >>> p % 2 == 1 then s else
    let mates := (natsFrom me (segSize D)).filter (fun m => m != me)
    let tell := fun (s : State) (t arg : Nat) (l : List Nat) =>
      l.foldl (fun s m => s.splTell (some c) t (s.splMsg c g k.seq (s.groupChip c D m) 0 arg false)) s
    if k.inPlace then
      let leads := ((upto (segCount D)).map (fun j => j * segSize D)).filter (fun m => m != me)
      (tell s 10 0 (mates ++ leads)).splAbort c g x
    else ((tell s 9 p mates).splRedo c g x p).splPump c g

/-- SPL_LOST. -/
def execSplLost (m : SplCtl) (s : State) : Host.Outcome State Fault Refusal :=
  .next (s.splMatch 8 m false (fun s c => s.splFencedTo m c) (fun s c g x => s.splLoss c g x (planeArg m)))

/-- SPL_REDO. -/
def execSplRedo (m : SplCtl) (s : State) : Host.Outcome State Fault Refusal :=
  .next (s.splMatch 9 m false (fun s c => s.splFencedTo m c) (fun s c g x => s.splRedo c g x (planeArg m)))

/-- SPL_ABORT: a leader that is told by another segment's leader forwards it to its own segment. -/
def execSplAbort (m : SplCtl) (s : State) : Host.Outcome State Fault Refusal :=
  .next (s.splMatch 10 m false (fun s c => s.splFencedTo m c) (fun s c g x =>
    let D := x.desc.toNat
    let me := s.me c D
    let s := if me = leaderOf D me then
        ((natsFrom me (segSize D)).filter (fun k => k != me)).foldl
          (fun s k => s.splTell (some c) 10 (s.splMsg c g m.seq (s.groupChip c D k) 0 0 false)) s
      else s
    s.splAbort c g x))

/-- A rope port goes down: members of switch-mode segments that use its plane tell their leader (R288). A leader between two claim attempts
goes on without the plane, and takes traverse mode at once when the set has become empty (R283). -/
def State.splPortDown (s : State) (w : Nat) : State :=
  if 24 ≤ w then s else
  s.ctxs.foldl (fun s kc => kc.2.groups.foldl (fun s gx =>
    match s.coll kc.1 gx.1 with
    | none => s
    | some (x, k) =>
      let D := x.desc.toNat
      let me := s.me kc.1 D
      if k.planes.toNat >>> w % 2 == 0 then s
      else if k.mode.isNone then
        if k.attempt = 0 ∨ k.retryAt.isNone then s else
        let ps := k.planes &&& s.upMask
        let s := s.onColl kc.1 gx.1 (fun k => { k with planes := ps })
        if ps = 0 then s.splFallback kc.1 gx.1 else s
      else if k.mode != some false then s
      else if me = leaderOf D me then s.splLoss kc.1 gx.1 x w
      else s.splTell (some kc.1) 8 (s.splMsg kc.1 gx.1 k.seq (s.groupChip kc.1 D (leaderOf D me)) 0 w false)) s) s

/-! ### Completion and deadlines -/

/-- SPL_COMPLETE (R273). -/
def execSplComplete (ctx : CtxId) (g : GroupId) (s : State) : Host.Outcome State Fault Refusal :=
  .next (
    let s := s.splPump ctx g
    match s.coll ctx g with
    | none => s
    | some (x, k) => if s.splFinished ctx g x k then s.splEnd ctx g k.status.toNat else s)

/-- Record the first stall report in SPL_STALL (R294). -/
def State.splStall (s : State) (d cause c g suspect unit : Nat) : State :=
  let r := R.SPL_STALL d
  if s.flag r F.SPL_STALL.VALID then s else
  let s := (s.wr r F.SPL_STALL.VALID 1).wr r F.SPL_STALL.CAUSE cause
  let s := (s.wr r F.SPL_STALL.CTX c).wr r F.SPL_STALL.GROUP g
  (s.wr r F.SPL_STALL.SUSPECT suspect).wr r F.SPL_STALL.UNIT unit

/-- The suspect and unit of the message that a member awaits (R294): the chip it comes from, with UNIT 0x00; for a plane's output the
segment's leader, with UNIT 0x10 + the plane. DESIGN CHOICE: of several messages awaited it is the first in this order: READY or MODE, the
streams expected in the order of the rotation, and credits for chunks sent or to be sent (log entry 28). -/
def State.splAwaited (s : State) (c : Nat) (x : Group) (k : Coll) : Nat × Nat :=
  let D := x.desc.toNat
  let me := s.me c D
  let lead := leaderOf D me
  let who := fun (key : Nat) => if 2 ^ 17 ≤ key then (s.groupChip c D lead, 0x10 + (key - 2 ^ 17)) else (key, 0)
  if reduces k.kind && k.mode.isNone then
    if me ≠ lead then (s.groupChip c D lead, 0)
    else match (natsFrom lead (segSize D)).find? (fun m => !k.ready.any (fun r => r.1 == m)) with
      | some m => (s.groupChip c D m, 0)
      | none => who (planeKey ((onesOf (k.planes &&& ~~~k.granted).toNat 24).getD 0 0))
  else match (s.splExpects c D k).find? (fun i => decide (k.cameOf i < i.total)) with
    | some i => who i.key
    | none => match k.unacked, k.send with
      | u :: _, _ => who (u.1 / 4)
      | [], m :: _ => who m.key
      | [], [] => (s.ownChip, 0)

/-- COLL_DEADLINE (R293, R294). A start wait whose deadline passes ends with BELAY_TIMEOUT. -/
def State.collLate (s : State) (c g : Nat) : State :=
  match SMap.look (s.ctx c).groups g with
  | none => s
  | some x => match x.cur, x.queue with
    | some k, _ =>
      if s.time.toNat < k.deadline.toNat then s else
      (match k.ext with
      | some (chip, site) =>
        ((s.fileWitness chip.toNat (0x40 + site) 6).splStall x.die 2 c g chip.toNat (0x40 + site)).splEnd c g 5
      | none =>
        let (suspect, unit) := s.splAwaited c x k
        ((s.fileWitness suspect unit 1).splStall x.die 1 c g suspect unit).splEnd c g 4)
    | none, o :: _ =>
      if (splWait o).isNone || s.splReadyHead c x o || decide (s.time.toNat < x.waitDeadline.toNat) then s
      else s.raise c cBelayTimeout (uSplice x.die) 0 0
    | none, [] => s

/-- COLL_DEADLINE. -/
def execCollDeadline (ctx : CtxId) (g : GroupId) (s : State) : Host.Outcome State Fault Refusal := .next (s.collLate ctx g)

/-- A thermal pause of a chip extends the deadlines of collectives it is a member of, and of the waits of R293. -/
def State.extendPauses (s : State) (chip : BitVec 17) (site boundMs : Nat) : State :=
  let dt : Word := BitVec.ofNat 64 (boundMs * 100000)
  let s := s.ctxs.foldl (fun s kc => kc.2.groups.foldl (fun s gx =>
    if (s.memberOf kc.1 gx.2.desc.toNat chip.toNat).isNone then s else
    let s := s.onColl kc.1 gx.1 (fun k => { k with deadline := k.deadline + dt, ext := some (chip, site) })
    match SMap.look (s.ctx kc.1).groups gx.1 with
    | none => s
    | some x => s.setGroup kc.1 gx.1 { x with waitDeadline := x.waitDeadline + dt, waitExt := some (chip, site) }) s) s
  s.cores.foldl (fun s kp => match s.resident kp.1 (s.activeSlot kp.1), (s.core kp.1).wait with
    | some c, some w =>
      if w.coll && !(s.ctx c).fenced && (s.relOf c chip.toNat).isSome then
        s.setCore kp.1 { s.core kp.1 with wait := some { w with deadline := w.deadline + dt } }
      else s
    | _, _ => s) s

end Sys2Proof.Machine
end

