-- ==== Sys2Proof/Machine/Links.lean ====
section
/-!
DEFINITION. Link ports (R238 to R248), forwarding across the massif (R252, R253), replay after a port fails (R254, R255), the
THERMAL_PAUSE flood and the pause table (R257 to R259), and witness reports (R260 to R263).
-/
namespace Sys2Proof.Machine

/-! ### Ports -/

/-- Port states (LNK_STATUS.STATE). -/
def psDown : Nat := 0
def psTraining : Nat := 1
def psPendingId : Nat := 2
def psUp : Nat := 3
def psDegraded : Nat := 4
def psMiscabled : Nat := 5

/-- Whether the port of window `w` is present (R238). -/
def State.portPresent (s : State) (w : Nat) : Bool :=
  if w < 24 then s.fuses.ropes.getLsbD w else decide (w < 32) && s.fuses.ridges.getLsbD (w - 24)

/-- State of a port. -/
def State.portState (s : State) (w : Nat) : Nat := s.rd (R.LNK_STATUS w) F.LNK_STATUS.STATE

/-- Unit code of a port in a witness report (R260). -/
def witUnit (w : Nat) : Nat := if w < 24 then 0x10 + w else 0x30 + (w - 24)

/-- Direction of a ridge port's neighbour: 0 +X, 1 −X, 2 +Y, 3 −Y, 4 +Z, 5 −Z (Table 79, R240). -/
def State.dirOfPort (s : State) (w : Nat) : Nat :=
  if w = 27 ∨ w = 31 then s.rd (R.LNK_CTRL w) F.LNK_CTRL.SPARE_DIR
  else if w < 28 then 2 * (w - 24) else 2 * (w - 28) + 1

/-- The neighbour that R240 and R216 predict for a ridge port. -/
def State.neighbour (s : State) (w : Nat) : Nat :=
  let d := s.dirOfPort w
  let x := coordsOf s.ownChip
  let n := max 1 (s.dims.getD (d / 2) 1)
  chipAt (x.set (d / 2) ((x.getD (d / 2) 0 + (if d % 2 = 0 then 1 else n - 1)) % n))

/-- Show the slot that the rope ports agree on (LNK_TOPO). -/
def State.showTopo (s : State) : State :=
  let slots := s.upRopes.map (fun w => s.rd (R.LNK_STATUS w) F.LNK_STATUS.SLOT)
  match slots with
  | [] => s.wr R.LNK_TOPO F.LNK_TOPO.SLOT_VALID 0
  | a :: l => (s.wr R.LNK_TOPO F.LNK_TOPO.SLOT a).wr R.LNK_TOPO F.LNK_TOPO.SLOT_VALID (if l.all (fun b => b == a) then 1 else 0)

/-- Whether a port passes its identity check (R247). A switch plane reports its slot in `peer` [5:0] and its plane in [10:6]; a ridge
neighbour reports its chip index. -/
def State.idOk (s : State) (w : Nat) (peer : BitVec 17) : Bool :=
  if w < 24 then
    bits peer.toNat 6 5 == w && s.upRopes.all (fun v => v == w || s.rd (R.LNK_STATUS v) F.LNK_STATUS.SLOT == bits peer.toNat 0 6)
  else peer.toNat == s.neighbour w

/-- The state in which a port with these lanes runs: full, on one working half (R244), or not at all. -/
def laneState (lanes : BitVec 8) : Nat :=
  if lanes = 0xFF then psUp
  else if lanes.toNat % 16 = 15 ∨ lanes.toNat / 16 = 15 then psDegraded else psDown

/-- The port of this chip that a report of a key takes to the sink (R262): none where there is no way, or the sink is this chip. -/
def State.witnessWay (s : State) (sink : Nat) (key : WitKey) : Option (Nat × Option RouteWord) :=
  if sink = s.ownChip then none
  else if sink / 64 = s.ownChip / 64 then (s.upRopes[key.suspect.toNat % max 1 s.upRopes.length]?).map (fun v => (v, none))
  else match s.path none 0 s.ownChip sink false with
    | .port v rw => some (v, rw)
    | .own => none
    | .none => none

/-- The windows of this chip's own filing whose next stage lies behind a port are discarded when it goes down (R263). -/
def State.dropWindows (s : State) (w : Nat) : State :=
  if !s.flag R.LNK_WITNESS F.LNK_WITNESS.SINK_VALID then s else
  let sink := s.rd R.LNK_WITNESS F.LNK_WITNESS.SINK
  { s with wits := s.wits.filter (fun y => !(y.own && (s.witnessWay sink y.key).any (fun e => e.1 == w))) }

/-- Requests of other chips that a port holds and that it has not seen acknowledged (R254). -/
def Port.stuck (x : Port) : List (BitVec 256) := x.flits.flatMap Flit.ends

/-- A port leaves service: what its retry buffer held is lost, requests that a forwarding chip holds there return to their sources as
UNROUTABLE (R254), and the witness windows that would leave through it are discarded (R263). It trains no more, and its saved settings
stay. -/
def State.portLeave (s : State) (w st : Nat) : State :=
  let was := s.portUp w
  let x := s.port w
  let s := if was then s.dropWindows w else s
  let s := s.wr (R.LNK_STATUS w) F.LNK_STATUS.STATE st
  let s := s.setPort w { settings := x.settings, saveDue := x.saveDue }
  let s := if was then s.splPortDown w else s
  let s := x.stuck.foldl (fun s m => s.respond none 0xB (hdrOf m) 7 [] none false) s
  s.showTopo

/-- Whether a port may train: present, enabled, its optical engine not too hot (Table 14). -/
def State.mayTrain (s : State) (w : Nat) : Bool :=
  s.portPresent w && s.flag (R.LNK_CTRL w) F.LNK_CTRL.ENABLE && !(decide (24 ≤ w) && s.clamp.optDown.getLsbD ((w - 24) / 4))

/-- A port that is out of service starts to train (R245): on the fast path only where its settings are saved (R246). -/
def State.startTraining (s : State) (w : Nat) (fast : Bool) : State :=
  let x := s.port w
  (s.setPort w { x with train := some { start := s.time, fast := fast && x.settings.isSome } }).wr (R.LNK_STATUS w) F.LNK_STATUS.STATE psTraining

/-- Bound of a training in ticks: 72 ms fast, 1.822 s cold (Table 82), longer by the restarts of the hut core (R248). -/
def Training.bound (t : Training) : Nat := (if t.fast then 7200000 else 182200000) + t.extra

/-- A port is declared down (R243): counted, and for a ridge port reported under LINK_DOWN (Table 84). It then trains again, cold (R245). -/
def State.portDown (s : State) (w : Nat) : State :=
  if !s.portUp w then s else
  let s := s.bump (R.LNK_ERR w) F.LNK_ERR.DOWNS 1
  let s := if 24 ≤ w then s.fileWitness (s.rd (R.LNK_STATUS w) F.LNK_STATUS.PEER) (witUnit w) 2 else s
  let s := s.portLeave w psDown
  if s.mayTrain w then s.startTraining w false else s

/-- Flits that an acknowledgement of sequence number `ack` frees: up to that one, where it is one of the retry buffer (R243). -/
def Port.acked (x : Port) (ack : BitVec 12) : Nat :=
  let n := (ack - x.base).toNat + 1
  if n ≤ x.held then n else 0

/-- Take an acknowledgement on a port: the flits up to it leave the retry buffer, and those that waited for room follow. -/
def State.takeAck (s : State) (w : Nat) (ack : BitVec 12) : State :=
  let x := s.port w
  let n := x.acked ack
  if n = 0 then s
  else s.setPort w { x with base := x.base + BitVec.ofNat 12 n, flits := x.flits.drop n, since := s.time, replays := 0 }

/-- Take the receive-buffer credits that a flit returns: 8 bits for each virtual channel (Table 81). -/
def State.takeCredit (s : State) (w : Nat) (credit : Nat) : State :=
  let x := s.port w
  s.setPort w { x with used := (upto 4).foldl (fun u v => SMap.putD u v (SMap.lookD u v 0 - bits credit (8 * v) 8) 0) x.used }

/-- The sender replays, in order, what follows the last good flit (R243). A flit whose eighth replay has failed takes the port down. -/
def State.takeNak (s : State) (w : Nat) (seq : BitVec 12) : State :=
  if !s.portUp w then s else
  let s := s.takeAck w seq
  let x := s.port w
  if x.flits.isEmpty then s
  else if 8 ≤ x.replays then s.portDown w
  else ((s.setPort w { x with replays := x.replays + 1 }).bump (R.LNK_ERR w) F.LNK_ERR.REPLAYS 1).emit (.replayFrom w x.base x.held)

/-- Fields of a flit (Table 81). -/
def flitSeq (f : List Byte) : BitVec 12 := BitVec.ofNat 12 (leAt f 0 2)
def flitType (f : List Byte) : Nat := bits (leAt f 0 2) 12 4
def flitAck (f : List Byte) : BitVec 12 := BitVec.ofNat 12 (leAt f 2 2)
def flitCredit (f : List Byte) : Nat := leAt f 4 4
def flitVc (f : List Byte) : Nat := leAt f 8 2

/-- Whether the CRC of a flit matches its other bytes (Table 81). -/
def flitOk (f : List Byte) : Bool := crc32c (f.take 252) == leAt f 252 4

/-- FLIT_RECEIVE: a flit arrives on a port after FEC decoding (R242, R243). One whose CRC fails, or that FEC could not correct, is answered
with a NAK that carries the last good sequence number; so is a DATA flit out of order. A DATA flit in order is accepted and acknowledged,
and its receive buffer is credited. A NAK flit asks for a replay. IDLE, TRAIN and NAK flits take no sequence number: DESIGN CHOICE, the
manual does not say that they do (log entry 55). -/
def execFlitReceive (w : PortId) (flit : List Byte) (corrected : BitVec 8) (uncorr : Bool) (s : State) : Host.Outcome State Fault Refusal :=
  .next (
    if !s.portUp w then s else
    let s := s.bump (R.LNK_ERR w) F.LNK_ERR.FEC_CORR corrected.toNat
    let s := if uncorr then s.bump (R.LNK_ERR w) F.LNK_ERR.FEC_UNCORR 1 else s
    let x := s.port w
    if uncorr || !flitOk flit then s.emit (.nak w (x.rx - 1))
    else match flitType flit with
    | 0 => (s.takeAck w (flitAck flit)).takeCredit w (flitCredit flit)
    | 1 =>
      if flitSeq flit != x.rx then s.emit (.nak w (x.rx - 1))
      else (((s.setPort w { x with rx := x.rx + 1 }).takeAck w (flitAck flit)).takeCredit w (flitCredit flit)).emit
        (.ack w x.rx (BitVec.ofNat 32 (2 ^ (8 * flitVc flit))))
    | 2 => (s.takeCredit w (flitCredit flit)).takeNak w (flitAck flit)
    | _ => s)

/-- NAK_RECEIVE: the other end asks for a replay of what follows the last good flit (R243). -/
def execNakReceive (w : PortId) (seq : BitVec 12) (s : State) : Host.Outcome State Fault Refusal := .next (s.takeNak w seq)

/-- LINK_ACK_TIMEOUT: no ACK has arrived for 1 ms while flits are outstanding (R243). -/
def execLinkAckTimeout (w : PortId) (s : State) : Host.Outcome State Fault Refusal :=
  .next (
    let x := s.port w
    if s.portUp w && !x.flits.isEmpty && decide (100000 ≤ (s.time - x.since).toNat) then s.portDown w else s)

/-- LANE_LOCK_LOSS: only the lanes in `lanes` still hold lock (R243, R244). -/
def execLaneLockLoss (w : PortId) (lanes : BitVec 8) (s : State) : Host.Outcome State Fault Refusal :=
  .next (
    if !s.portUp w then s else
    let left := BitVec.ofNat 8 (s.rd (R.LNK_STATUS w) F.LNK_STATUS.LANES) &&& lanes
    let s := s.wr (R.LNK_STATUS w) F.LNK_STATUS.LANES left.toNat
    if laneState left = psDown then s.portDown w else s.wr (R.LNK_STATUS w) F.LNK_STATUS.STATE (laneState left))

/-- A port retrains (R245, R248), on the fast path where LNK_CTRL.FAST says so: one that trains already goes on with that training. -/
def State.retrainPort (s : State) (w : Nat) : State :=
  if !s.mayTrain w || (s.port w).train.isSome then s
  else (s.portLeave w psDown).startTraining w (s.flag (R.LNK_CTRL w) F.LNK_CTRL.FAST)

/-- LNK_CTRL_RETRAIN: the host driver writes LNK_CTRL.RETRAIN = 1 (R245). -/
def execLnkCtrlRetrain (w : PortId) (s : State) : Host.Outcome State Fault Refusal := .next (s.retrainPort w)

/-- A port reaches step 4 of Table 82 with its lanes locked, and its identity is checked (R247). A port that passes is UP, with sequence
numbers from 0, and its settings are stored (R246): those a cold training has found, or those the fast path has verified. -/
def State.identify (s : State) (w : Nat) (lanes : BitVec 8) (peer : BitVec 17) : State :=
  let s := s.wr (R.LNK_STATUS w) F.LNK_STATUS.LANES lanes.toNat
  let s := if w < 24 then
      (s.wr (R.LNK_STATUS w) F.LNK_STATUS.SLOT (bits peer.toNat 0 6)).wr (R.LNK_STATUS w) F.LNK_STATUS.PLANE (bits peer.toNat 6 5)
    else s.wr (R.LNK_STATUS w) F.LNK_STATUS.PEER peer.toNat
  if s.idOk w peer then
    let x := s.port w
    let fast := x.train.any Training.fast
    let s := s.setPort w { settings := if fast then x.settings else some s.free, saveDue := true }
    let s := if fast then s else s.draw
    let s := (s.wr (R.LNK_STATUS w) F.LNK_STATUS.STATE (laneState lanes)).wr (R.LNK_STATUS w) F.LNK_STATUS.SAVED_VALID 1
    s.showTopo
  else
    let s := s.setPort w { s.port w with train := none }
    (s.wr (R.LNK_STATUS w) F.LNK_STATUS.STATE psMiscabled).fileWitness s.ownChip (witUnit w) 3

/-- SETTINGS_FLASH_COPY: the base-camp core copies the saved lane settings to the active flash image (R246). -/
def execSettingsFlashCopy (s : State) : Host.Outcome State Fault Refusal :=
  .next (
    let due := (upto 32).filter (fun w => (s.port w).saveDue)
    if due.isEmpty then s else
    let links := due.foldl (fun m w => match (s.port w).settings with
      | some v => SMap.put m w v
      | none => m) s.flash.links
    let s := due.foldl (fun s w => s.setPort w { s.port w with saveDue := false }) s
    ({ s with flash := { s.flash with links := links } } : State).emit (.flash 1))

/-- OPT_THERMAL: an optical engine's hottest sensor is read (Table 14, R401). From 80 °C until it falls below 77 °C the laser bias is
derated; from 85 °C on the engine's ridge ports are taken down; at 90 °C THERM_TRIP_N asserts. When the ports may come back is not
stated: DESIGN CHOICE, from the first reading below 85 °C on they can be trained again, and until then they stay DOWN (log entry 78). -/
def execOptThermal (eng : Fin 2) (temp : BitVec 8) (s : State) : Host.Outcome State Fault Refusal :=
  .next (
    if s.fuses.ridges = 0 then s else
    let e : BitVec 2 := 1 <<< eng.val
    let hot := decide (80 ≤ temp.toNat) || (s.clamp.optHot &&& e != 0 && decide (77 ≤ temp.toNat))
    let down := decide (85 ≤ temp.toNat)
    let s := { s with clamp := { s.clamp with
      optHot := if hot then s.clamp.optHot ||| e else s.clamp.optHot &&& ~~~e
      optDown := if down then s.clamp.optDown ||| e else s.clamp.optDown &&& ~~~e } }
    let s := (s.clampApply).tripAt .optics eng temp.toNat
    if down then (natsFrom (24 + 4 * eng.val) 4).foldl (fun s w =>
      if s.portPresent w && (s.portState w != psDown || (s.port w).train.isSome) then s.portLeave w psDown else s) s
    else s)

/-! ### Forwarding and replay -/

/-- The signed hops a route word has left. -/
def hopsLeft (rw : RouteWord) : List Int :=
  [if rw.negX then -(rw.hopsX.toNat : Int) else rw.hopsX.toNat,
   if rw.negY then -(rw.hopsY.toNat : Int) else rw.hopsY.toNat,
   if rw.negZ then -(rw.hopsZ.toNat : Int) else rw.hopsZ.toNat]

/-- A route word with one hop fewer on an axis. -/
def oneHopLess (rw : RouteWord) (ax : Nat) : RouteWord :=
  if ax = 0 then { rw with hopsX := rw.hopsX - 1 }
  else if ax = 1 then { rw with hopsY := rw.hopsY - 1 } else { rw with hopsZ := rw.hopsZ - 1 }

/-- A forwarding chip finds no way on: a request is answered UNROUTABLE, and NO_ROUTE is filed (R253). -/
def State.noWay (s : State) (m : BitVec 256) : State :=
  let h := hdrOf m
  let s := s.fileWitness h.dst.toNat 0 4
  if 1 ≤ classOf m ∧ classOf m ≤ 3 then s.respond none 0xB h 7 [] none false else s

/-- What picks the plane or parallel port of a message (R249): its ADDR, or 2 KiB for each chunk number of a chunk (R274). A splice control
message names no address. -/
def pickAddr (m : BitVec 256) : Nat :=
  if classOf m = 14 then (m.extractLsb' 112 24).toNat * 2048 else if 12 ≤ classOf m then 0 else (hdrOf m).addr.toNat

/-- The usable plane that a forwarded WITNESS takes: SUSPECT mod n, SUSPECT being its bits [58:42] (R261, R262). -/
def State.witnessPlane (s : State) (m : BitVec 256) : Option Nat :=
  s.upRopes[(m.extractLsb' 42 17).toNat % max 1 s.upRopes.length]?

/-- Forward a message into this chip's own rope, or deliver it here (R252). -/
def State.intoRope (s : State) (m : BitVec 256) : State :=
  let h := hdrOf m
  if h.dst.toNat = s.ownChip then s.emit (.deliver m)
  else match (if classOf m = 13 then s.witnessPlane m else pickPort (pickAddr m) h.src.toNat h.dst.toNat s.upRopes) with
    | some v => s.emit (.forward v none m)
    | none => s.noWay m

/-- RIDGE_FORWARD: a message arrives over a ridge port (R252): one hop is taken off its current axis; with hops left it goes on in the
next direction, else into the rope or to this chip. A request that it passes on stays in its port's flits until they are acknowledged
(R254). -/
def execRidgeForward (w : PortId) (rw : RouteWord) (msg : BitVec 256) (s : State) : Host.Outcome State Fault Refusal :=
  .next (
    if w.val < 24 || !s.portUp w then s else
    match firstAxis (hopsLeft rw) with
    | none => s.intoRope msg
    | some ax =>
      let rw := oneHopLess rw ax
      match firstAxis (hopsLeft rw) with
      | none => s.intoRope msg
      | some ax =>
        match pickPort (pickAddr msg) (hdrOf msg).src.toNat (hdrOf msg).dst.toNat (s.ridgesOf (dirOf ax ((hopsLeft rw).getD ax 0))) with
        | some v => s.emit (.forward v (some rw) msg)
        | none => s.noWay msg)

/-- REQUEST_REPLAY: a source resends a request whose port has gone down (R254, R255), the oldest of those first. A BLY_INC that was first
sent more than 5 ms ago completes with REMOTE_ERROR instead. -/
def execRequestReplay (tag : BitVec 16) (s : State) : Host.Outcome State Fault Refusal :=
  .next (
    match s.out.find? s.stranded with
    | none => s
    | some q =>
      if q.tag ≠ tag then s
      else if s.mayReplay q then (s.resend q).settle
      else (s.dropReq q.tag).answer q 7 [] false none)

/-! ### Notices -/

/-- Whether a chip lies in the route that the 40 bits of a BOX name (R219, R257). -/
def State.inBox (s : State) (box : BitVec 40) (chip : Nat) : Bool :=
  let b := box.toNat
  let o := [bits b 0 4, bits b 4 4, bits b 8 3, bits b 25 2, bits b 27 2, bits b 29 2]
  let e := [bits b 11 5, bits b 16 5, bits b 21 4, bits b 31 3, bits b 34 3, bits b 37 3]
  let d := s.dims
  let x := coordsOf chip
  (upto 6).all (fun i =>
    if i < 3 then
      let n := max 1 (d.getD i 1)
      decide (x.getD i 0 < n) && decide ((x.getD i 0 + n - o.getD i 0 % n) % n < e.getD i 0)
    else decide (o.getD i 0 ≤ x.getD i 0) && decide (x.getD i 0 < o.getD i 0 + e.getD i 0))

/-- Whether a ridge port carries traffic (R240): not a spare whose SPARE_EN is 0, nor a port of an axis of massif size 1. -/
def State.carries (s : State) (w : Nat) : Bool :=
  s.portUp w && ((w != 27 && w != 31) || s.flag (R.LNK_CTRL w) F.LNK_CTRL.SPARE_EN) && s.dims.getD (s.dirOfPort w / 2) 1 != 1

/-- Send a notice into this chip's own rope and on each ridge port that carries traffic, but one, whose neighbour lies in the BOX (R258). Into the rope it
takes the lowest usable plane. -/
def State.flood (s : State) (endp : Bool) (n : Notice) (but : Nat) : State :=
  let s := match s.upRopes with
    | w :: _ => s.emit (.notice endp w n)
    | [] => s
  (natsFrom 24 8).foldl (fun s w =>
    if s.carries w && w != but && s.inBox n.box (s.rd (R.LNK_STATUS w) F.LNK_STATUS.PEER) then s.emit (.notice endp w n) else s) s

/-- Pause entries in force (LNK_PAUSE.ENTRIES). -/
def State.showPauses (s : State) : State := s.wr R.LNK_PAUSE F.LNK_PAUSE.ENTRIES s.pauses.length

/-- Drop the pause entries whose bound has passed. -/
def State.agePauses (s : State) : State :=
  ({ s with pauses := s.pauses.filter (fun e => decide (s.time.toNat < e.expiry.toNat)) }).showPauses

/-- A notice is received (R258): `none` when it has been received before. A first receipt is remembered and counted, and one over a
ridge port is forwarded. -/
def State.hear (s : State) (w : Nat) (endp : Bool) (n : Notice) : Option State :=
  let id := (n.src, n.seq, endp)
  if s.seen.contains id then none else
  let seen := s.seen ++ [id]
  let s := { s with seen := seen.drop (seen.length - 256) }
  let s := s.count R.LNK_PAUSE F.LNK_PAUSE.RECEIVED 1
  some (if 24 ≤ w then s.flood endp n w else s)

/-- NOTICE_THERMAL_PAUSE: a THERMAL_PAUSE is received and creates or refreshes its entry of the pause table (R259). -/
def execNoticeThermalPause (w : PortId) (n : Notice) (s : State) : Host.Outcome State Fault Refusal :=
  .next (
    if !s.portUp w then s else
    match s.hear w false n with
    | none => s
    | some s =>
      let s := s.agePauses
      let expiry := s.time + BitVec.ofNat 64 (n.bound.toNat * 100000)
      match s.pauses.find? (fun e => e.src == n.src && e.site == n.site) with
      | some e =>
        let e' : Pause := { e with
          expiry := if e.expiry.toNat < expiry.toNat then expiry else e.expiry
          seq := if e.seq.toNat < n.seq.toNat then n.seq else e.seq }
        let s := { s with pauses := s.pauses.map (fun y => if y == e then e' else y) }
        s.extendPauses n.src n.site.toNat n.bound.toNat
      | none =>
        if 1024 ≤ s.pauses.length then s.bump R.LNK_PAUSE F.LNK_PAUSE.OVERFLOWS 1
        else
          let e : Pause := { src := n.src, site := n.site, seq := n.seq, expiry := expiry }
          let s := { s with pauses := s.pauses ++ [e] }
          s.showPauses.extendPauses n.src n.site.toNat n.bound.toNat)

/-- NOTICE_PAUSE_END: a PAUSE_END with the SEQ of its entry removes it (R259). -/
def execNoticePauseEnd (w : PortId) (n : Notice) (s : State) : Host.Outcome State Fault Refusal :=
  .next (
    if !s.portUp w then s else
    match s.hear w true n with
    | none => s
    | some s =>
      { s with pauses := s.pauses.filter (fun e => !(e.src == n.src && e.site == n.site && e.seq == n.seq)) }.agePauses)

/-- PAUSE_ENTRY_EXPIRE: the bound of a pause entry has passed (R259). -/
def execPauseEntryExpire (src : BitVec 17) (site : BitVec 3) (s : State) : Host.Outcome State Fault Refusal :=
  .next (
    let left := s.pauses.filter (fun e => !(e.src == src && e.site == site && decide (e.expiry.toNat ≤ s.time.toNat)))
    let s := { s with pauses := left }
    s.showPauses)

/-! ### Witness reports -/

/-- The WITNESS event (R368). DELIVERED counts those that this chip delivers as a sink, not those of its own filing that have no sink
(LNK_WITNESS). -/
def State.witEvent (s : State) (w : WitWin) : State :=
  let s := s.event 0x8002 (natLe w.key.suspect.toNat 4 ++ natLe w.key.unit.toNat 1 ++ natLe w.key.fclass.toNat 1 ++ natLe 0 2 ++
    natLe w.count 4 ++ natLe w.src.toNat 4 ++ natLe w.firstTs.toNat 8 ++ natLe s.time.toNat 8)
  if w.own then s else s.count R.LNK_WITNESS F.LNK_WITNESS.DELIVERED 1

/-- Add a report to this chip's window as sink (R262), opening one if none is open. -/
def State.sinkWitness (s : State) (key : WitKey) (src : BitVec 17) (firstTs : Word) (count : Nat) : State :=
  if s.wits.any (fun w => !w.own && w.key == key) then
    { s with wits := s.wits.map (fun w => if !w.own && w.key == key then { w with count := min (w.count + count) 0xFFFFFF } else w) }
  else
    { s with wits := s.wits ++ [{ key := key, src := src, firstTs := firstTs, count := count, opened := s.time, own := false }] }

/-- Send a report to the sink (R262): by R251, its rope hop over plane SUSPECT mod n. With no way NO_ROUTE is filed (R253). -/
def State.sendWitness (s : State) (sink : Nat) (w : WitWin) : State :=
  let m : Witness := {
    dst := BitVec.ofNat 17 sink, src := w.src, key := w.key, count := BitVec.ofNat 24 w.count, firstTs := w.firstTs }
  match s.witnessWay sink w.key with
  | some (v, rw) => s.emit (.witness v rw m)
  | none => s.fileWitness sink 0 4

/-- WITNESS_RECEIVE: a report arrives at the sink and is coalesced (R262). -/
def execWitnessReceive (m : Witness) (s : State) : Host.Outcome State Fault Refusal :=
  .next (if m.dst.toNat ≠ s.ownChip then s else s.sinkWitness m.key m.src m.firstTs m.count.toNat)

/-- WITNESS_WINDOW_CLOSE: a 10 ms window of a key closes and passes one report on, or delivers it as an event (R262, R368). -/
def execWitnessWindowClose (key : WitKey) (s : State) : Host.Outcome State Fault Refusal :=
  .next (
    match s.wits.find? (fun w => w.key == key && decide (1000000 ≤ (s.time - w.opened).toNat)) with
    | none => s
    | some w =>
      let s := { s with wits := s.wits.filter (fun y => y != w) }
      let sink := s.rd R.LNK_WITNESS F.LNK_WITNESS.SINK
      if !w.own || !s.flag R.LNK_WITNESS F.LNK_WITNESS.SINK_VALID then s.witEvent w
      else if sink = s.ownChip then s.sinkWitness w.key w.src w.firstTs w.count
      else s.sendWitness sink w)

end Sys2Proof.Machine
end

