-- ==== Sys2Proof/Machine/Plinth.lean ====
section
/-!
DEFINITION. The plinth dies: requests that reach a stack (R196 to R201), write combining (R199, R200), retraining through the hold
shelf (R204 to R206), channel repair (R207 to R212), thermal states and THERMAL_PAUSE (R213, R214).
-/
namespace Sys2Proof.Machine

/-! ### Requests -/

/-- A payload that no rule defines: free bytes. -/
def State.freePayload (s : State) : State × List Byte :=
  ({ s with free := s.free + 32 }, (natsFrom s.free 32).map Config.freeByte)

/-- Serve a read at its plinth (R196, R197, R206, R214). `ce` sectors are corrected on its way; a SPEC read that is dropped counts nothing
but the drop. A read that is refused or waits has read nothing yet. -/
def State.plinthRead (s : State) (a n : Nat) (spec : Bool) (ce : Nat) : State :=
  let i := a / 2048
  let site := s.siteOf i
  let k := s.plinth site
  if s.stopped site then s.emit (.refused a)
  else if s.tileHeld i then
    if spec then s.setPlinth site { k with specs := k.specs ++ [{ core := none, addr := a, n := n, since := s.time }] }
    else (s.parkRead .port a n ce).getD (s.emit (.refused a))
  else if spec then
    match s.specHbm a n with
    | (s, none) => s.emit (.specDrop a)
    | (s, some d) => (s.correctedAt a ce).emit (.plinthData a d (s.hbm.info i) false)
  else match (s.correctedAt a ce).hbmRead a n with
    | none => s.emit (.refused a)
    | some (s, d, po) => s.emit (.plinthData a d (s.hbm.info i) po)

/-- HBM_READ: a read reaches a plinth. `ce` sectors are corrected on its way; `ue` tells that the sector at `addr` has an uncorrectable
fault. -/
def execHbmRead (addr : BitVec 40) (len : BitVec 12) (spec : Bool) (ce : BitVec 8) (ue : Bool) (s : State) :
    Host.Outcome State Fault Refusal :=
  .next (
    if (s.place addr.toNat).isNone then s else
    let x := addr.toNat / 64
    let s := if ue && !s.ue.contains x then { s with ue := s.ue ++ [x] } else s
    s.plinthRead addr.toNat len.toNat spec ce.toNat)

/-- A write from outside the model's own engines reaches a plinth: it waits for lines the host holds (R300) and for an urgent copy
(R373); a refused one is for its source to retry (R206, R214). -/
def State.plinthWrite (s : State) (a : Nat) (d : List Byte) (poison : Bool) (whole : Option TileMeta) : State :=
  let lines := s.heldLines a d.length
  let x : BiWait := { lines := lines, addr := a, data := d, poison := poison, whole := whole, ack := none }
  if !lines.isEmpty then
    let s := s.backInvalidate lines
    { s with biWait := s.biWait ++ [x] }
  else if s.pagePending a then
    let s := s.holdPage a
    { s with biWait := s.biWait ++ [{ x with held := true }] }
  else match s.plainWrite a d poison whole with
    | (_, some s) => s
    | (s, none) => s.emit (.refused a)

/-- HBM_WRITE_WHOLE: a whole tile is stored with the writer's seal and state (R198). -/
def execHbmWriteWhole (addr : BitVec 40) (data : List Byte) (sl : BitVec 32) (st : TState) (s : State) :
    Host.Outcome State Fault Refusal :=
  .next (
    if (s.place addr.toNat).isNone || addr.toNat % 2048 != 0 || data.length != 2048 || st == .unwritten then s
    else s.plinthWrite addr.toNat data false (some { sl := sl, st := st }))

/-- HBM_WRITE_PARTIAL: a write of part of a tile enters the tile's write-combining entry (R199). -/
def execHbmWritePartial (addr : BitVec 40) (data : List Byte) (poison : Bool) (s : State) : Host.Outcome State Fault Refusal :=
  .next (
    if (s.place addr.toNat).isNone || data.isEmpty || decide (2048 < addr.toNat % 2048 + data.length) then s
    else s.plinthWrite addr.toNat data poison none)

/-- Whether a channel of a stack holds a request: the merge of a tile with a piece on it has begun and not completed (R350). -/
def State.chanHolds (s : State) (site ch : Nat) : Bool :=
  (s.plinth site).merging.any (fun t => match s.tilePlace t with
    | some (i, cs) => i == site && cs.contains ch
    | none => false)

/-- A request for a tile reaches its channels: those that held none are timed from now on (R350). -/
def State.chanStart (s : State) (tile : Nat) : State :=
  match s.tilePlace tile with
  | none => s
  | some (site, cs) => cs.foldl (fun t c => if s.chanHolds site c then t else t.stamp (uChannel site c)) s

/-- WCB_MERGE_AGE: an entry of the write-combining buffer is 16 µs old, and its merge begins (R200). -/
def execWcbMergeAge (site : SiteId) (tile : BitVec 29) (s : State) : Host.Outcome State Fault Refusal :=
  .next (
    let k := s.plinth site
    if s.siteOf tile.toNat ≠ site.val ∨ k.merging.contains tile.toNat ∨ s.tileBlocked tile.toNat then s else
    match k.wcb.find? (fun e => e.tile == tile.toNat) with
    | none => s
    | some e =>
      if (s.time - e.born).toNat < 1600 then s
      else (s.chanStart tile.toNat).setPlinth site { k with merging := k.merging ++ [tile.toNat] })

/-- WCB_MERGE_DONE: the merge of a tile completes (R200). `ue` tells that a sector of the old tile has an uncorrectable fault. -/
def execWcbMergeDone (site : SiteId) (tile : BitVec 29) (ue : Bool) (s : State) : Host.Outcome State Fault Refusal :=
  .next (
    let k := s.plinth site
    if s.siteOf tile.toNat ≠ site.val ∨ !k.merging.contains tile.toNat ∨ s.tileBlocked tile.toNat then s else
    let x := 32 * tile.toNat
    let s := if ue && !s.ue.contains x then { s with ue := s.ue ++ [x] } else s
    (s.wcbMerge tile.toNat).retryAll)

/-- SPEC_REQUEST_DROP: the oldest SPEC request that has waited 8 µs at a plinth is dropped (R201); the run-ahead of a core learns of it at
its next read. -/
def execSpecRequestDrop (site : SiteId) (s : State) : Host.Outcome State Fault Refusal :=
  .next (
    let k := s.plinth site
    match k.specs with
    | [] => s
    | x :: l =>
      if (s.time - x.since).toNat < 800 then s
      else
        let s := (s.setPlinth site { k with specs := l }).count (R.PLN_COUNT site) F.PLN_COUNT.SPEC_DROPS 1
        match x.core with
        | none => s.emit (.specDrop x.addr)
        | some p => match (s.core p).ahead with
          | none => s
          | some w => s.setCore p { s.core p with ahead := some { w with dropped := true } })

/-! ### Retraining -/

/-- RETRAIN_PERIODIC: 600 s have passed since a channel was last trained (R204). -/
def execRetrainPeriodic (site : SiteId) (ch : ChanId) (s : State) : Host.Outcome State Fault Refusal :=
  .next (
    let k := s.plinth site
    let t := match (k.chan ch).trained with
      | some (t, _) => t
      | none => k.trained
    if s.stackPresent site && decide (60000000000 ≤ (s.time - t).toNat) then s.queueRetrain site ch else s)

/-- PLN_CMD_RETRAIN: the host driver writes PLN_CMD with RETRAIN = 1 (R204). -/
def execPlnCmdRetrain (site : SiteId) (ch : ChanId) (s : State) : Host.Outcome State Fault Refusal :=
  .next (if s.stackPresent site then (s.wr (R.PLN_CMD site) F.PLN_CMD.CH ch).queueRetrain site ch else s)

/-- Whether the hut core of a die runs (MGT_FWPROC). -/
def State.hutRuns (s : State) (d : Nat) : Bool :=
  s.rd R.MGT_FWPROC (if d = 0 then F.MGT_FWPROC.HUT_N_STATE else F.MGT_FWPROC.HUT_S_STATE) == 0

/-- RETRAIN_START: the hut core takes the next queued channel and the plinth holds it (Table 69 steps 1 and 2). -/
def execRetrainStart (site : SiteId) (s : State) : Host.Outcome State Fault Refusal :=
  .next (
    let k := s.plinth site
    match k.queue, k.hold with
    | c :: l, none =>
      if s.stopped site || !s.hutRuns (site / 4) then s else
      let s := s.setPlinth site { k with queue := l, hold := some (c, s.time) }
      (s.wr (R.PLN_STATUS site) F.PLN_STATUS.RETRAINING 1).wr (R.PLN_STATUS site) F.PLN_STATUS.RETRAIN_CH c
    | _, _ => s)

/-- The plinth releases the channel it holds and replays its parked traffic (Table 69 steps 4 and 5); while the stack is STOPPED the
replay waits (R214). -/
def State.releaseHold (s : State) (site : Nat) : State :=
  let s := s.setPlinth site { s.plinth site with hold := none }
  let s := s.wr (R.PLN_STATUS site) F.PLN_STATUS.RETRAINING 0
  if s.stopped site then s else (s.replayShelf site).retryAll

/-- RETRAIN_CONFIRM: training of the held channel has completed in time (Table 69 step 4, R205). -/
def execRetrainConfirm (site : SiteId) (s : State) : Host.Outcome State Fault Refusal :=
  .next (
    let k := s.plinth site
    match k.hold with
    | none => s
    | some (c, t) =>
      if 3900 ≤ (s.time - t).toNat || !s.hutRuns (site / 4) then s else
      let s := s.wr (R.PLN_CHAN_ERR site c) F.PLN_CHAN_ERR.LAST_TRAIN 1
      let s := s.setChan site c { k.chan c with
        trained := some (s.time, s.rd (R.PLN_STATUS site) F.PLN_STATUS.TEMP)
        fails := 0 }
      s.releaseHold site)

/-- RETRAIN_HOLD_TIMEOUT: training has not been confirmed 39 µs after the hold began (R205). A second consecutive failure requests a
repair of the channel (R209). -/
def execRetrainHoldTimeout (site : SiteId) (s : State) : Host.Outcome State Fault Refusal :=
  .next (
    let k := s.plinth site
    match k.hold with
    | none => s
    | some (c, t) =>
      if (s.time - t).toNat < 3900 then s else
      let fails := (k.chan c).fails + 1
      let s := s.wr (R.PLN_CHAN_ERR site c) F.PLN_CHAN_ERR.LAST_TRAIN 2
      let s := s.setChan site c { k.chan c with fails := if 2 ≤ fails then 0 else fails }
      let s := (s.queueRetrain site c).releaseHold site
      if 2 ≤ fails then s.requestRepair site c else s)

/-! ### Repair -/

/-- PLN_CMD_REPAIR: the host driver writes PLN_CMD with REPAIR = 1 (R209). -/
def execPlnCmdRepair (site : SiteId) (ch : ChanId) (s : State) : Host.Outcome State Fault Refusal :=
  .next (if s.stackPresent site then (s.wr (R.PLN_CMD site) F.PLN_CMD.CH ch).requestRepair site ch else s)

/-- The partition that owns a stack, and the stack's index in it (R193). -/
def State.stackIndex (s : State) (site : Nat) : Option (Nat × Nat) :=
  (upto 4).findSome? (fun p =>
    let l := s.sitesOf p
    if l.contains site then some (p, l.idxOf site) else none)

/-- The tile of a stack with stack-local index `u` (R195). -/
def State.tileAt (s : State) (site u : Nat) : Option Nat :=
  match s.stackIndex site with
  | none => none
  | some (p, k) =>
    let S := (s.sitesOf p).length
    let t := u / 4
    let q := S * t + (k + S - t % S) % S
    if q * 8192 < s.rd (R.MEM_PART p) F.MEM_PART.SIZE <<< 30 then
      some (((s.rd (R.MEM_PART p) F.MEM_PART.BASE <<< 30) + q * 8192) / 2048 + u % 4)
    else none

/-- Every tile that granule `w` of channel `f` belongs to, or whose seal or state it holds (R191, R195, R211). -/
def State.granuleTiles (s : State) (site f w : Nat) : List Nat :=
  let o := 256 * w
  if o < 0xB8000000 then
    match s.stackIndex site with
    | none => []
    | some (p, k) => [((s.rd (R.MEM_PART p) F.MEM_PART.BASE <<< 30) + hbmUnmap (s.sitesOf p).length k f o) / 2048]
  else if o < 0xB8600000 then
    (upto 64).filterMap (fun i => s.tileAt site (((o - 0xB8000000) / 64 + i / 16) * 512 + f * 16 + i % 16))
  else if o < 0xB8800000 then
    (upto 1024).filterMap (fun i => s.tileAt site (((o - 0xB8600000) / 64 + i / 256) * 8192 + f * 256 + i % 256))
  else []

/-- The sectors of granule `w` of channel `f` that are known to have an uncorrectable fault. -/
def State.granuleUe (s : State) (site f w : Nat) : List Nat :=
  if 0xB8000000 ≤ 256 * w then [] else
  match s.stackIndex site with
  | none => []
  | some (p, k) =>
    let x := ((s.rd (R.MEM_PART p) F.MEM_PART.BASE <<< 30) + hbmUnmap (s.sitesOf p).length k f (256 * w)) / 64
    (natsFrom x 4).filter s.ue.contains

/-- REPAIR_MIGRATE_GRANULE: the granule at WATERMARK is moved (Table 70 steps 3 to 5, R210 to R212). `ue` tells that it holds an
uncorrectable sector beyond those known; it is written to its new place as read, with fresh ECC. -/
def execRepairMigrateGranule (site : SiteId) (ue : Bool) (s : State) : Host.Outcome State Fault Refusal :=
  .next (
    let r := R.PLN_STATUS site
    if s.rd r F.PLN_STATUS.REPAIR_STATE ≠ 1 ∨ (s.plinth site).hold.isSome ∨ 2 ≤ s.rd r F.PLN_STATUS.THERM_STATE then s else
    let f := s.rd r F.PLN_STATUS.REPAIR_CH
    let w := s.rd (R.PLN_REPAIR site) F.PLN_REPAIR.WATERMARK
    let known := s.granuleUe site f w
    let s := if ue || !known.isEmpty then
        let l := s.granuleTiles site f w
        let s := { s with ue := s.ue.filter (fun x => !known.contains x) }
        let s := s.bump (R.PLN_CHAN_ERR site f) F.PLN_CHAN_ERR.UE 1
        let s := s.file clsHbmUe 0 (uChannel site f) none (if 256 * w < 0xB8000000 then 2048 * l.headD 0 else 0) 0
        l.foldl State.poisonTile s
      else s
    let s := s.wr (R.PLN_REPAIR site) F.PLN_REPAIR.WATERMARK (w + 1)
    if w + 1 < 12189696 then s else
    let s := s.wr r F.PLN_STATUS.REPAIR_STATE 2
    let s := (s.wr (R.PLN_CHAN_ERR site f) F.PLN_CHAN_ERR.IN_SERVICE 0).saveRepair site
    let (s, d) := s.freePayload
    s.event 0x8003 d)

/-- REPAIR_STATE_SAVE: the hut core records the repair in the saved training settings during a migration (R212). -/
def execRepairStateSave (site : SiteId) (s : State) : Host.Outcome State Fault Refusal :=
  .next (if s.rd (R.PLN_STATUS site) F.PLN_STATUS.REPAIR_STATE = 1 && s.hutRuns (site / 4) then (s.saveRepair site).emit (.flash 1) else s)

/-! ### Thermal states -/

/-- The thermal state that a reading gives a stack in state `cur` (Table 71). -/
def thermNext (cur temp : Nat) : Nat :=
  if 110 ≤ temp then 3
  else if cur = 3 then (if temp < 105 then 2 else 3)
  else if 100 ≤ temp then 2
  else if cur = 2 ∧ 97 ≤ temp then 2
  else if 95 ≤ temp then 1
  else if 1 ≤ cur ∧ 92 ≤ temp then 1
  else 0

/-- Request retraining of every channel whose temperature has drifted (R204). -/
def State.driftRetrain (s : State) (site temp : Nat) : State :=
  let lim := s.rd (R.PLN_RETRAIN_CTRL site) F.PLN_RETRAIN_CTRL.DRIFT_K
  let k := s.plinth site
  let s := if k.temp.isNone then s.setPlinth site { k with temp := some temp } else s
  if lim = 0 then s else
  (upto 32).foldl (fun s c =>
    let k := s.plinth site
    let t := match (k.chan c).trained with
      | some (_, t) => t
      | none => k.temp.getD temp
    if lim ≤ (temp - t) + (t - temp) then s.queueRetrain site c else s) s

/-- Send PAUSE_END for each notice of the pause that ends (R214). -/
def State.endPause (s : State) (site : Nat) : State :=
  let k := s.plinth site
  let s := k.notices.foldl (fun s e =>
    s.flood true { src := BitVec.ofNat 17 s.ownChip, site := BitVec.ofNat 3 site, bound := 0, box := e.2, seq := e.1 } 99) s
  s.setPlinth site { s.plinth site with notices := [], stoppedAt := none }

/-- STACK_THERMAL_EVAL: the plinth evaluates its sensors, the hottest of which reads `temp` °C (R213, R214). A change of state is
reported as a THERMAL event. At 115 °C THERM_TRIP_N asserts, whatever pause is in progress (R25). -/
def execStackThermalEval (site : SiteId) (temp : BitVec 8) (s : State) : Host.Outcome State Fault Refusal :=
  .next (
    if !s.stackPresent site then s else
    let r := R.PLN_STATUS site
    let cur := s.rd r F.PLN_STATUS.THERM_STATE
    let new := thermNext cur temp.toNat
    let s := s.wr r F.PLN_STATUS.TEMP temp.toNat
    let s := (s.driftRetrain site temp.toNat).tripAt .stack site temp.toNat
    if new = cur then s else
    let s := s.wr r F.PLN_STATUS.THERM_STATE new
    let (s, d) := s.freePayload
    let s := s.event 0x8004 d
    let s := if new = 3 then
        let s := s.setPlinth site { s.plinth site with stoppedAt := some s.time }
        s.file clsThermalStop 0 (uPlinth site) none 0 0
      else s
    let s := s.clampApply.pauseRuns
    if cur = 3 then
      let s := s.endPause site
      if (s.plinth site).hold.isSome then s.retryAll else (s.replayShelf site).retryAll
    else s)

/-- The distinct routes of the live contexts, as bits [39:0] of JNR_CTX_ROUTE, up to 16 (R258). -/
def State.liveRoutes (s : State) : List (BitVec 40) :=
  (s.ctxs.filter (fun kc => kc.2.live)).foldl (fun l kc =>
    let b := BitVec.ofNat 40 (s.word (R.JNR_CTX_ROUTE kc.1)).toNat
    if l.contains b then l else l ++ [b]) []

/-- THERMAL_PAUSE_SEND: the device announces the pause of a stack that has entered STOPPED, one notice for each distinct route (R214,
R257, R258). -/
def execThermalPauseSend (site : SiteId) (s : State) : Host.Outcome State Fault Refusal :=
  .next (
    let k := s.plinth site
    if !s.stopped site || !k.notices.isEmpty || k.stoppedAt.isNone then s else
    let b := s.rd (R.PLN_THERM_CTRL site) F.PLN_THERM_CTRL.PAUSE_BOUND_MS
    let bound := if b = 0 then 100 else b
    let s := s.liveRoutes.foldl (fun s box =>
      let seq := s.noticeSeq
      let s := { s with noticeSeq := seq + 1 }
      let s := s.flood false { src := BitVec.ofNat 17 s.ownChip, site := BitVec.ofNat 3 site, bound := BitVec.ofNat 16 bound,
                               box := box, seq := seq } 99
      let k := s.plinth site
      (s.setPlinth site { k with notices := k.notices ++ [(seq, box)] }).count R.LNK_PAUSE F.LNK_PAUSE.SENT 1) s
    s.extendPauses (BitVec.ofNat 17 s.ownChip) site bound)

end Sys2Proof.Machine
end

