-- ==== Sys2Proof/Machine/Fabric.lean ====
section
/-!
DEFINITION. The fabric commands (R218 to R237): requests that arrive from other chips, responses to this chip's requests, timeouts, page
walks and invalidations.
-/
namespace Sys2Proof.Machine

/-- RD_REQ: a read request arrives (R220, R221). -/
def execRdReq (h : FabHdr) (s : State) : Host.Outcome State Fault Refusal :=
  .next (if h.dst.toNat ≠ s.ownChip then s else s.arrive 1 h [] false)

/-- WR_REQ: a write request arrives (R220, R221, R228). -/
def execWrReq (h : FabHdr) (data : List Byte) (s : State) : Host.Outcome State Fault Refusal :=
  .next (if h.dst.toNat ≠ s.ownChip then s else s.arrive 2 h data false)

/-- BLY_INC_REQ: a belay increment arrives (R220, R221, R255). -/
def execBlyIncReq (h : FabHdr) (replay : Bool) (s : State) : Host.Outcome State Fault Refusal :=
  .next (if h.dst.toNat ≠ s.ownChip then s else s.arrive 3 h [] replay)

/-- A response from another chip arrives, and what it lets this chip's engines send follows. Where the bivouac engine sent the request,
the stream may have ended, and the writes it held are retried (R378). -/
def State.response (s : State) (cls : Nat) (h : FabHdr) (d : List Byte) : State :=
  if h.dst.toNat ≠ s.ownChip then s else
  let ours := s.out.any (fun q => q.tag == h.tag && q.biv)
  let s := s.deliver cls h d
  if ours then s.retryAll else
  let s := s.cores.foldl (fun s kc => kc.2.dma.foldl (fun s e => s.dmaRun kc.1 e.1) s) s
  s.settle

/-- RD_RSP: read data returns (R229). -/
def execRdRsp (h : FabHdr) (data : List Byte) (s : State) : Host.Outcome State Fault Refusal := .next (s.response 8 h data)

/-- WR_ACK: a write has been accepted at its target (R228). -/
def execWrAck (h : FabHdr) (s : State) : Host.Outcome State Fault Refusal := .next (s.response 9 h [])

/-- INC_ACK: an increment has been applied at its target (R228). -/
def execIncAck (h : FabHdr) (s : State) : Host.Outcome State Fault Refusal := .next (s.response 10 h [])

/-- ERR_RSP: a request has been refused (R230). -/
def execErrRsp (h : FabHdr) (s : State) : Host.Outcome State Fault Refusal := .next (s.response 11 h [])

/-- The latest expiry of the pause entries in force for a chip (R232, R259). -/
def State.pausedUntil (s : State) (chip : BitVec 17) : Option Word :=
  (s.pauses.filter (fun e => e.src == chip && decide (s.time.toNat < e.expiry.toNat))).foldl (fun m e =>
    match m with
    | none => some e.expiry
    | some t => some (if t.toNat < e.expiry.toNat then e.expiry else t)) none

/-- REMOTE_TIMEOUT: the deadline of an outstanding request passes (R232): a pause of its target in force extends it, else it completes
with REMOTE_TIMEOUT and a witness report is filed. A bivouac stream fails with it, and the writes it held are retried (R378). -/
def execRemoteTimeout (tag : BitVec 16) (s : State) : Host.Outcome State Fault Refusal :=
  .next (
    match s.out.find? (fun q => q.tag == tag && decide (q.cls ≤ 3)) with
    | none => s
    | some q =>
      if s.time.toNat < q.deadline.toNat then s else
      match s.pausedUntil q.chip with
      | some t => { s with out := s.out.map (fun y => if y.tag == tag then { y with deadline := t } else y) }
      | none =>
        let s := s.bump R.JNR_ERR F.JNR_ERR.TIMEOUTS 1
        let s := (s.fileWitness q.chip.toNat 0 1).dropReq tag
        let s := s.answer q 6 [] false none
        if q.biv then s.retryAll else s.settle)

/-- PAGE_WALK_COMPLETE: a walk for the context that core `p` runs ends (R222 to R224). A translation changes nothing; a fault or a
poisoned table is charged to the context, except for a speculative access, which is dropped (R35). -/
def execPageWalkComplete (p : CoreId) (va : BitVec 64) (acc : Access) (s : State) : Host.Outcome State Fault Refusal :=
  .next (
    match s.running p with
    | none => s
    | some c => match s.xlate c va.toNat acc with
      | (s, .ok _ _) => s
      | (s, .blocked) => s
      | (s, .poisoned) => if acc = .spec then s else s.raiseInsn p c cPoisonConsumed va.toNat 0
      | (s, .fault) =>
        if acc = .spec then s
        else s.raiseInsn p c (if acc = .fetch then cFetchBounds else cXlateFault) va.toNat 0)

/-- INVAL (R225): cached translations of a context go, and INVAL_BUSY stands until the accesses translated before have completed. -/
def State.invalidate (s : State) (c : Nat) : State :=
  let tags := (s.out.filter (fun q => q.ctx == c && !q.biv)).map OutReq.tag
  let s := s.wr (R.JNR_CTX_CMD c) F.JNR_CTX_CMD.INVAL_BUSY 1
  let s := (s.ctx c).cores.foldl (fun s e =>
    let k := s.core e.phys
    if s.activeSlot e.phys = e.slot.val then s.setCore e.phys { k with
      fetched := []
      load := k.load.map (fun l => { l with old := true })
      posted := k.posted.map (fun x => { x with old := true }) }
    else s) s
  s.setCtx c { s.ctx c with inval := tags }

/-- JNR_CTX_CMD_INVAL: the host driver writes JNR_CTX_CMD.INVAL = 1 (R225). -/
def execJnrCtxCmdInval (ctx : CtxId) (s : State) : Host.Outcome State Fault Refusal := .next (s.invalidate ctx)

/-- INVAL_DONE: every access translated before the last INVAL write has completed (R225): requests that have left this chip's engines, and
loads and stores of the sequencers to this chip's own memory. -/
def execInvalDone (ctx : CtxId) (s : State) : Host.Outcome State Fault Refusal :=
  .next (
    let c := ctx.val
    let x := s.ctx c
    let waits := x.cores.any (fun e => (s.core e.phys).posted.any (fun y => y.old && y.tag.isNone) ||
      (s.core e.phys).load.any (fun l => l.old && l.tag.isNone))
    if s.flag (R.JNR_CTX_CMD c) F.JNR_CTX_CMD.INVAL_BUSY && x.inval.isEmpty && !waits then
      s.wr (R.JNR_CTX_CMD c) F.JNR_CTX_CMD.INVAL_BUSY 0
    else s)

end Sys2Proof.Machine
end

