-- ==== Sys2Proof/Machine/Scl.lean ====
section
/-!
DEFINITION. SCL instructions (R150, R151), the return of a scalar load (R35, R230, R320), and run-ahead (R33 to R37).
-/
namespace Sys2Proof.Machine

/-- A scalar instruction that only writes RD. -/
def State.scalar (s : State) (p : CoreId) (legal : Bool) (rd : SReg) (v : State → Word) : State :=
  s.issue p legal 8 (fun s _ => s.commitReg p rd (v s))

/-- SCL.ADD: RD ← RA + RB (Table 46). -/
def execSclAdd (p : CoreId) (rd ra rb : SReg) (s : State) : Host.Outcome State Fault Refusal :=
  .next (s.scalar p true rd (fun s => s.sreg p ra + s.sreg p rb))

/-- SCL.SUB: RD ← RA − RB. -/
def execSclSub (p : CoreId) (rd ra rb : SReg) (s : State) : Host.Outcome State Fault Refusal :=
  .next (s.scalar p true rd (fun s => s.sreg p ra - s.sreg p rb))

/-- SCL.MUL: the low 64 bits of RA × RB. -/
def execSclMul (p : CoreId) (rd ra rb : SReg) (s : State) : Host.Outcome State Fault Refusal :=
  .next (s.scalar p true rd (fun s => s.sreg p ra * s.sreg p rb))

/-- SCL.AND. -/
def execSclAnd (p : CoreId) (rd ra rb : SReg) (s : State) : Host.Outcome State Fault Refusal :=
  .next (s.scalar p true rd (fun s => s.sreg p ra &&& s.sreg p rb))

/-- SCL.OR. -/
def execSclOr (p : CoreId) (rd ra rb : SReg) (s : State) : Host.Outcome State Fault Refusal :=
  .next (s.scalar p true rd (fun s => s.sreg p ra ||| s.sreg p rb))

/-- SCL.XOR. -/
def execSclXor (p : CoreId) (rd ra rb : SReg) (s : State) : Host.Outcome State Fault Refusal :=
  .next (s.scalar p true rd (fun s => s.sreg p ra ^^^ s.sreg p rb))

/-- A shift count: bits [5:0] (R150). -/
def shiftCount (v : Word) : Nat := v.toNat % 64

/-- SCL.SHL. -/
def execSclShl (p : CoreId) (rd ra rb : SReg) (s : State) : Host.Outcome State Fault Refusal :=
  .next (s.scalar p true rd (fun s => s.sreg p ra <<< shiftCount (s.sreg p rb)))

/-- SCL.SHR. -/
def execSclShr (p : CoreId) (rd ra rb : SReg) (s : State) : Host.Outcome State Fault Refusal :=
  .next (s.scalar p true rd (fun s => s.sreg p ra >>> shiftCount (s.sreg p rb)))

/-- SCL.SAR. -/
def execSclSar (p : CoreId) (rd ra rb : SReg) (s : State) : Host.Outcome State Fault Refusal :=
  .next (s.scalar p true rd (fun s => (s.sreg p ra).sshiftRight (shiftCount (s.sreg p rb))))

/-- 1 or 0 (R150). -/
def truth (b : Bool) : Word := if b then 1 else 0

/-- SCL.SLT: signed. -/
def execSclSlt (p : CoreId) (rd ra rb : SReg) (s : State) : Host.Outcome State Fault Refusal :=
  .next (s.scalar p true rd (fun s => truth ((s.sreg p ra).slt (s.sreg p rb))))

/-- SCL.SLTU: unsigned. -/
def execSclSltu (p : CoreId) (rd ra rb : SReg) (s : State) : Host.Outcome State Fault Refusal :=
  .next (s.scalar p true rd (fun s => truth ((s.sreg p ra).ult (s.sreg p rb))))

/-- SCL.ADDI. -/
def execSclAddi (p : CoreId) (rd ra : SReg) (imm : BitVec 40) (s : State) : Host.Outcome State Fault Refusal :=
  .next (s.scalar p true rd (fun s => s.sreg p ra + sext imm))

/-- SCL.ANDI. -/
def execSclAndi (p : CoreId) (rd ra : SReg) (imm : BitVec 40) (s : State) : Host.Outcome State Fault Refusal :=
  .next (s.scalar p true rd (fun s => s.sreg p ra &&& sext imm))

/-- SCL.ORI. -/
def execSclOri (p : CoreId) (rd ra : SReg) (imm : BitVec 40) (s : State) : Host.Outcome State Fault Refusal :=
  .next (s.scalar p true rd (fun s => s.sreg p ra ||| sext imm))

/-- SCL.XORI. -/
def execSclXori (p : CoreId) (rd ra : SReg) (imm : BitVec 40) (s : State) : Host.Outcome State Fault Refusal :=
  .next (s.scalar p true rd (fun s => s.sreg p ra ^^^ sext imm))

/-- SCL.SHLI. -/
def execSclShli (p : CoreId) (rd ra : SReg) (count : BitVec 6) (s : State) : Host.Outcome State Fault Refusal :=
  .next (s.scalar p true rd (fun s => s.sreg p ra <<< count.toNat))

/-- SCL.SHRI. -/
def execSclShri (p : CoreId) (rd ra : SReg) (count : BitVec 6) (s : State) : Host.Outcome State Fault Refusal :=
  .next (s.scalar p true rd (fun s => s.sreg p ra >>> count.toNat))

/-- SCL.SARI. -/
def execSclSari (p : CoreId) (rd ra : SReg) (count : BitVec 6) (s : State) : Host.Outcome State Fault Refusal :=
  .next (s.scalar p true rd (fun s => (s.sreg p ra).sshiftRight count.toNat))

/-- SCL.SLTI: signed. -/
def execSclSlti (p : CoreId) (rd ra : SReg) (imm : BitVec 40) (s : State) : Host.Outcome State Fault Refusal :=
  .next (s.scalar p true rd (fun s => truth ((s.sreg p ra).slt (sext imm))))

/-- SCL.LI: RD ← sign-extended IMM40. -/
def execSclLi (p : CoreId) (rd : SReg) (imm : BitVec 40) (s : State) : Host.Outcome State Fault Refusal :=
  .next (s.scalar p true rd (fun _ => sext imm))

/-- SCL.LIH: IMM40 [23:0] above the low 40 bits of RA. -/
def execSclLih (p : CoreId) (rd ra : SReg) (imm : BitVec 24) (s : State) : Host.Outcome State Fault Refusal :=
  .next (s.scalar p true rd (fun s => (s.sreg p ra &&& 0xFFFFFFFFFF) ||| (imm.zeroExtend 64 <<< 40)))

/-- The value SCL.INFO returns (Table 47). A jig's pattern has no context, slot or partition: free values (log entry 94). -/
def State.infoValue (s : State) (p c : Nat) (sel : Nat) : Word :=
  if c = jigCtx && (sel == 0 || sel == 2 || sel == 3) then Config.freeWord s.free else
  match sel with
  | 0 => BitVec.ofNat 64 c
  | 1 => BitVec.ofNat 64 ((s.logicalOf p).getD 0)
  | 2 => BitVec.ofNat 64 (s.activeSlot p)
  | 3 => BitVec.ofNat 64 (s.ctx c).part.val
  | 4 => BitVec.ofNat 64 s.ownChip
  | _ => s.time

/-- SCL.INFO. -/
def execSclInfo (p : CoreId) (rd : SReg) (sel : BitVec 4) (s : State) : Host.Outcome State Fault Refusal :=
  .next (s.issue p (Instr.sclInfo p rd sel).wellFormed 8 (fun s c => s.commitReg p rd (s.infoValue p c sel.toNat)))

/-- A request of the sequencer of core `p` for context `c`. -/
def seqReq (cls : Nat) (chip : BitVec 17) (addr len p c : Nat) : OutReq :=
  { tag := 0, cls := cls, chip := chip, addr := addr, len := len, core := p, eng := .seq, ctx := c, deadline := 0, first := 0 }

/-- Issue a scalar load (R151): it returns and commits with SEQ_LOAD_RETURN. A load of another chip or of the host window sends
its request here. -/
def State.issueLoad (s : State) (p : CoreId) (rd ra : SReg) (size : MSize) (space : Space) (off : BitVec 32) (signed : Bool) :
    State :=
  s.issue p true 8 (fun s c =>
    let a := (s.baseOff p ra off).toNat
    let n := msizeBytes size
    if a % n ≠ 0 then s.raiseMisaligned p c a else
    let wait := fun (s : State) (t : Target) (tag : Option (BitVec 16)) =>
      s.setCore p { s.core p with load := some { rd := rd, size := n, signed := signed, tgt := t, tag := tag, since := s.time } }
    match s.dmaAddr p c space a n .read with
    | (s, .at (.remote chip x)) =>
      if !s.fabricFree p then s else
      let tag := s.nextTag
      ((wait s (.remote chip x) (some tag)).sendReq (seqReq 1 chip x n p c)).settle
    | (s, .at (.host x)) =>
      let tag := s.nextTag
      (wait s (.host x) (some tag)).hostReq (seqReq 4 0 x n p c)
    | (s, .at t) => wait s t none
    | (s, r) => s.raiseAccess p c a r)

/-- SCL.LD: zero-extended. -/
def execSclLd (p : CoreId) (rd ra : SReg) (size : MSize) (space : Space) (off : BitVec 32) (s : State) :
    Host.Outcome State Fault Refusal := .next (s.issueLoad p rd ra size space off false)

/-- SCL.LDS: sign-extended. -/
def execSclLds (p : CoreId) (rd ra : SReg) (size : MSize) (space : Space) (off : BitVec 32) (s : State) :
    Host.Outcome State Fault Refusal := .next (s.issueLoad p rd ra size space off true)

/-- SCL.ST: the low SIZE bytes of RD, a merge write in scratchpad, posted elsewhere (R40, R151, R234). -/
def execSclSt (p : CoreId) (rd ra : SReg) (size : MSize) (space : Space) (off : BitVec 32) (s : State) :
    Host.Outcome State Fault Refusal :=
  .next (s.issue p true 8 (fun s c =>
    let a := (s.baseOff p ra off).toNat
    let n := msizeBytes size
    if a % n ≠ 0 then s.raiseMisaligned p c a else
    match s.dmaAddr p c space a n .write with
    | (s, .at (.remote chip x)) =>
      if !s.fabricFree p then s
      else (s.store p c (.remote chip x) (natLe (s.sreg p rd).toNat n)).settle.commit p
    | (s, .at t) => if s.behindDrain p t n then s else (s.store p c t (natLe (s.sreg p rd).toNat n)).commit p
    | (s, r) => s.raiseAccess p c a r))

/-- Commit a returned load, or consume its poison (R41, R320). A CHK.STATE of another chip's tile reports the state the whole-tile
read carries (R165). -/
def State.finishLoad (s : State) (p c : Nat) (l : LoadWait) (d : List Byte) (poison : Bool) : State :=
  let s := s.setCore p { s.core p with load := none }
  let s := if poison && !l.chk then s else s.retireAhead p
  if l.chk then s.commitReg p l.rd (if poison then 2 else 1)
  else if poison then s.raiseInsn p c cPoisonConsumed (match l.tgt with | .spd a => a | .hbm a => a | .remote _ a => a | .host a => a) 0
  else s.commitReg p l.rd (loadValue d l.size l.signed)

/-- Data that run-ahead has read early for a load from HBM (R37). -/
def Core.buffered (k : Core) (t : Target) (n : Nat) : Option (List Byte) :=
  match k.ahead with
  | none => none
  | some r => (r.buf.find? (fun b => b.1 == t && b.2.1.length == n)).map (fun b => b.2.1)

/-- Whether run-ahead has read a scratchpad load early and a write has reached the tile since (R37). -/
def Core.mustReissue (k : Core) (t : Target) (n : Nat) : Bool :=
  match k.ahead with
  | none => false
  | some r => r.buf.any (fun b => b.1 == t && b.2.1.length == n && b.2.2)

/-- A load takes the data that run-ahead has read for it out of the buffer (R37). -/
def State.takeBuffered (s : State) (p : Nat) (t : Target) (n : Nat) : State :=
  match (s.core p).ahead with
  | none => s
  | some r => s.setCore p { s.core p with
      ahead := some { r with buf := r.buf.eraseP (fun b => b.1 == t && b.2.1.length == n) } }

/-- The data of a scalar load arrives: it commits, or its poison or error is raised (R35, R230, R320). A scratchpad load that
run-ahead read early is reissued where its tile was written since; an HBM load that run-ahead read early returns the old or the
new value, which the device does not guarantee (R37). -/
def State.loadReturn (s : State) (p : Nat) : State :=
  match s.running p, (s.core p).load with
  | some c, some l =>
    if (s.storeAhead p l.tgt && l.tag.isNone) || s.behindDrain p l.tgt l.size then s else
    match l.tgt with
    | .spd a =>
      let s := if (s.core p).mustReissue l.tgt l.size then s.count (R.SEQ_PERF p) F.SEQ_PERF.SPEC_DROPPED 1 else s
      match s.spdRead p (some c) a l.size with
      | (s, d, po) => (s.takeBuffered p l.tgt l.size).finishLoad p c l d po
    | .hbm a =>
      match (s.core p).buffered l.tgt l.size, Config.freeBool s.free with
      | some d, true => (s.draw.takeBuffered p l.tgt l.size).finishLoad p c l d false
      | o, _ =>
        match s.readAs (.eng .seq p c) a l.size with
        | (s, none) => s
        | (t, some (d, po, _)) => ((if o.isSome then t.draw else t).takeBuffered p l.tgt l.size).finishLoad p c l d po
    | _ => match l.data with
      | none => s
      | some (d, po) =>
        if l.err then
          let s := s.setCore p { s.core p with load := none }
          s.raiseInsn p c cRemoteError (match l.tgt with | .remote _ a => a | .host a => a | .spd a => a | .hbm a => a) 0
        else s.finishLoad p c l d po
  | _, _ => s

/-- SEQ_LOAD_RETURN. -/
def execSeqLoadReturn (p : CoreId) (s : State) : Host.Outcome State Fault Refusal := .next (s.loadReturn p)

/-- The window of core `p`: the one that is open, or a fresh one that starts past the stalled instruction with a shadow copy of the scalar
registers (R32, R33). The result of an outstanding load is not known. -/
def State.aheadWin (s : State) (p : Nat) : RunAhead :=
  let k := s.core p
  let buf := match k.ahead with
    | none => []
    | some w => w.buf
  let fresh : RunAhead := {
    sregs := k.sregs, unknown := (k.load.map (fun l => l.rd.val)).toList, base := some (s.pc p), pc := s.pc p + 8, buf := buf }
  match k.ahead with
  | none => fresh
  | some w => if (s.aheadLeft p).isEmpty && w.base != some (s.pc p) then fresh else w

/-- Whether the sequencer of core `p` may run ahead (R33): its program waits on a belay or on a load, and the window has room. -/
def State.mayRunAhead (s : State) (p : Nat) : Bool :=
  let k := s.core p
  let r := R.SEQ_CTRL p
  s.flag r F.SEQ_CTRL.RUNAHEAD_EN && !k.jigging && (k.wait.isSome || k.load.isSome) &&
  decide ((s.aheadLeft p).length < min 64 (s.rd r F.SEQ_CTRL.RUNAHEAD_DEPTH + 1))

/-- The instruction that run-ahead meets at `pc`; none where the window ends: a misaligned PC, a page that is not executable, a poisoned
word or one whose checks fail, an illegal encoding (R146, R154). -/
def State.aheadInstr (s : State) (p : CoreId) (c : Nat) (pc : Word) : Option Instr :=
  if pc.toNat % 8 ≠ 0 then none else
  match (s.xlate c pc.toNat .fetch).2 with
  | .ok (.hbm a) _ => match (s.specHbm a 8).2 with
    | none => none
    | some d => match decodeTis p (leNat d) 0 with
      | none => none
      | some i => if i.wellFormed then some i else none
  | _ => none

/-- The SCL arithmetic that run-ahead executes (R33): destination, sources and result over register values `v`. -/
def aheadScl (v : SReg → Word) : Instr → Option (SReg × List SReg × Word)
  | .sclAdd _ rd ra rb => some (rd, [ra, rb], v ra + v rb)
  | .sclSub _ rd ra rb => some (rd, [ra, rb], v ra - v rb)
  | .sclMul _ rd ra rb => some (rd, [ra, rb], v ra * v rb)
  | .sclAnd _ rd ra rb => some (rd, [ra, rb], v ra &&& v rb)
  | .sclOr _ rd ra rb => some (rd, [ra, rb], v ra ||| v rb)
  | .sclXor _ rd ra rb => some (rd, [ra, rb], v ra ^^^ v rb)
  | .sclShl _ rd ra rb => some (rd, [ra, rb], v ra <<< shiftCount (v rb))
  | .sclShr _ rd ra rb => some (rd, [ra, rb], v ra >>> shiftCount (v rb))
  | .sclSar _ rd ra rb => some (rd, [ra, rb], (v ra).sshiftRight (shiftCount (v rb)))
  | .sclSlt _ rd ra rb => some (rd, [ra, rb], truth ((v ra).slt (v rb)))
  | .sclSltu _ rd ra rb => some (rd, [ra, rb], truth ((v ra).ult (v rb)))
  | .sclAddi _ rd ra imm => some (rd, [ra], v ra + sext imm)
  | .sclAndi _ rd ra imm => some (rd, [ra], v ra &&& sext imm)
  | .sclOri _ rd ra imm => some (rd, [ra], v ra ||| sext imm)
  | .sclXori _ rd ra imm => some (rd, [ra], v ra ^^^ sext imm)
  | .sclShli _ rd ra n => some (rd, [ra], v ra <<< n.toNat)
  | .sclShri _ rd ra n => some (rd, [ra], v ra >>> n.toNat)
  | .sclSari _ rd ra n => some (rd, [ra], (v ra).sshiftRight n.toNat)
  | .sclSlti _ rd ra imm => some (rd, [ra], truth ((v ra).slt (sext imm)))
  | .sclLi _ rd imm => some (rd, [], sext imm)
  | .sclLih _ rd ra imm => some (rd, [ra], (v ra &&& 0xFFFFFFFFFF) ||| (imm.zeroExtend 64 <<< 40))
  | _ => none

/-- A shadow register; s0 reads as zero. -/
def RunAhead.reg (w : RunAhead) (r : SReg) : Word := if r = 0 then 0 else SMap.lookD w.sregs r.val 0

/-- Whether a shadow register holds a value. -/
def RunAhead.known (w : RunAhead) (r : SReg) : Bool := r == 0 || !w.unknown.contains r.val

/-- Write a shadow register; `none`: its value is not known. -/
def RunAhead.setReg (w : RunAhead) (r : SReg) (v : Option Word) : RunAhead :=
  if r = 0 then w else match v with
  | some v => { w with sregs := SMap.putD w.sregs r.val v 0, unknown := w.unknown.filter (fun x => x != r.val) }
  | none => { w with unknown := r.val :: w.unknown.filter (fun x => x != r.val) }

/-- An instruction has run ahead: the window and RUNAHEAD_INSNS take it, and run-ahead goes on at `next`. -/
def State.aheadTake (s : State) (p : Nat) (w : RunAhead) (next : Word) : State :=
  (s.setCore p { s.core p with ahead := some { w with path := w.path ++ [w.pc], pc := next } }).count
    (R.SEQ_PERF p) F.SEQ_PERF.RUNAHEAD_INSNS 1

/-- A speculative read of the scratchpad: none where the tile is poisoned or its seal fails (R35). -/
def State.specSpd (s : State) (p a n : Nat) : Option (List Byte) :=
  let t := (s.core p).spd
  let m := t.info (a / 2048)
  if m.st = .poison || (m.st = .sealed && sealOf (t.data (a / 2048)) != m.sl) then none else some (Memory.read t.bytes a n)

/-- What becomes of a load met in run-ahead (R34, R35). -/
inductive SpecRes where
  | forbidden                                            -- R34 does not allow the read: run-ahead stops at the load
  | waits (s : State)                                    -- a held channel or a STOPPED stack (R201, R206)
  | done (s : State) (r : Option (Target × List Byte))   -- where it read and the data; none: dropped

/-- A speculative read of a tile that must wait: the plinth of a held channel keeps the request, unless it has dropped it by now (R201). -/
def State.specWait (s : State) (p x n : Nat) : SpecRes :=
  match (s.core p).ahead with
  | some w => if w.dropped then .done s none else
    let site := s.siteOf (x / 2048)
    let k := s.plinth site
    if s.stopped site || k.specs.any (fun e => e.core == some p) then .waits s
    else .waits (s.setPlinth site { k with specs := k.specs ++ [{ core := some p, addr := x, n := n, since := s.time }] })
  | none => .waits s

/-- What a load met in run-ahead reads (R34, R35). The only state it changes is PLN_COUNT.SPEC_DROPS, and the request that waits at a
plinth. -/
def State.specLoad (s : State) (p c : Nat) (space : Space) (a n : Nat) : SpecRes :=
  match space with
  | .spd =>
    if a % n ≠ 0 then .done s none else
    (match s.spdAddr p (s.activeSlot p) a n with
    | none => .done s none
    | some x => .done s ((s.specSpd p x n).map (fun d => (.spd x, d))))
  | .mem =>
    match (s.xlate c a .read).2 with
    | .ok (.hbm x) true =>
      if !s.flag (R.SEQ_CTRL p) F.SEQ_CTRL.SPEC_HBM_EN then .forbidden
      else if a % n ≠ 0 then .done s none
      else if s.tileBlocked (x / 2048) then s.specWait p x n else
      let (s, d) := s.specHbm x n
      .done s (d.map (fun d => (.hbm x, d)))
    | .ok _ _ => .forbidden
    | _ => .done s none

/-- A load runs ahead: its speculative read is kept in the buffer and in the shadow registers, dropped (R35), or waits at its plinth. -/
def State.aheadLoad (s : State) (p c : Nat) (w : RunAhead) (rd ra : SReg) (size : MSize) (space : Space) (off : BitVec 32)
    (signed : Bool) : Option State :=
  let n := msizeBytes size
  if !w.known ra then none else
  let s := s.setCore p { s.core p with ahead := some w }
  match s.specLoad p c space (w.reg ra + sext off).toNat n with
  | .forbidden => none
  | .waits s => some s
  | .done s r =>
    let w := { w with dropped := false }
    let s := s.count (R.SEQ_PERF p) F.SEQ_PERF.SPEC_READS 1
    let next := w.pc + 8
    match r with
    | none => some ((s.aheadTake p (w.setReg rd none) next).count (R.SEQ_PERF p) F.SEQ_PERF.SPEC_DROPPED 1)
    | some (t, d) =>
      some (s.aheadTake p { w.setReg rd (some (loadValue d n signed)) with buf := w.buf ++ [(t, d, false)] } next)

/-- Run the next instruction ahead (R33, R34, R154): the state, and whether it was a load. `none` where run-ahead cannot go on: the window
is full or ends at the instruction. -/
def State.aheadOnce (s : State) (p : CoreId) (c : Nat) : Option (State × Bool) :=
  if !s.mayRunAhead p then none else
  let w := s.aheadWin p
  match s.aheadInstr p c w.pc with
  | none => none
  | some (.ctlBr _ _ hint _ _ off) => some (s.aheadTake p w (if hint then w.pc + sext off * 8 else w.pc + 8), false)
  | some (.ctlJmp _ rd off) => some (s.aheadTake p (w.setReg rd (some (w.pc + 8))) (w.pc + sext off * 8), false)
  | some (.ctlJr _ rd ra) =>
    if !w.known ra then none else some (s.aheadTake p (w.setReg rd (some (w.pc + 8))) (w.reg ra), false)
  | some (.sclLd _ rd ra size space off) => (s.aheadLoad p c w rd ra size space off false).map (fun t => (t, true))
  | some (.sclLds _ rd ra size space off) => (s.aheadLoad p c w rd ra size space off true).map (fun t => (t, true))
  | some i => match aheadScl w.reg i with
    | none => none
    | some (rd, srcs, v) =>
      some (s.aheadTake p (w.setReg rd (if srcs.all w.known then some v else none)) (w.pc + 8), false)

/-- Run ahead up to the next load, and say whether there is one to be made. `fuel` bounds the instructions. -/
def State.aheadFree (s : State) (p : CoreId) (c : Nat) : Nat → State × Bool
  | 0 => (s, false)
  | f + 1 => match s.aheadOnce p c with
    | none => (s, false)
    | some (_, true) => (s, true)
    | some (t, false) => t.aheadFree p c f

/-- Run ahead to the next load and make its speculative read. -/
def State.specRead (s : State) (p : CoreId) (c : Nat) : State :=
  match s.aheadFree p c 65 with
  | (s, false) => s
  | (s, true) => match s.aheadOnce p c with
    | none => s
    | some (t, _) => t

/-- SPEC_READ_RETURN: the sequencer runs ahead to its next load, whose data returns or is dropped (R33 to R35, R154). -/
def execSpecReadReturn (p : CoreId) (s : State) : Host.Outcome State Fault Refusal :=
  .next (match s.running p with
    | none => s
    | some c => s.specRead p c)

/-- RUNAHEAD_SQUASH: a branch has resolved against its prediction (R36). -/
def execRunaheadSquash (p : CoreId) (s : State) : Host.Outcome State Fault Refusal := .next (s.squash p)

end Sys2Proof.Machine
end

