-- ==== Sys2Proof/Machine/Bly.lean ====
section
/-!
DEFINITION. BLY instructions and belay waits (R48 to R51, R156, R293).
-/
namespace Sys2Proof.Machine

/-- A cell number that the slot does not have: the load check refuses it (R156, R171), so a fetched word that names one was not
decoded by the check and is an illegal encoding (log entry 25). -/
def State.withCell (s : State) (p c : Nat) (cell : Nat) (f : State → State) : State :=
  if s.cellCount p (s.runSlotOf p) ≤ cell then s.raiseInsn p c cIllegalInsn (s.pc p).toNat 0 else f s

/-- BLY.INC (R48, R156). Every earlier store is accepted before the increment is applied (R233), and an amount of 0 adds
nothing. -/
def execBlyInc (p : CoreId) (cell : BitVec 10) (ra : SReg) (imm : BitVec 18) (s : State) : Host.Outcome State Fault Refusal :=
  .next (s.issue p (Instr.blyInc p cell ra imm).wellFormed 8 (fun s c => s.withCell p c cell.toNat (fun s =>
    let s := s.drainPosted p
    if !(s.core p).posted.isEmpty then s else
    let n := s.blyAmount p ra imm
    if n = 0 then s.commit p else
    let t := s.blyAdd c p (s.activeSlot p) cell.toNat n
    if (t.ctx c).fenced then t.wr (R.SEQ_FAULT_PC p) F.SEQ_FAULT_PC.PC (s.pc p).toNat else t.commit p)))

/-- The chip and local address that a BLY_INC of a translated target travels to (R156, R221). -/
def State.incTarget (s : State) (t : Target) : BitVec 17 × Nat :=
  let own := BitVec.ofNat 17 s.ownChip
  match t with
  | .remote chip a => (chip, a)
  | .hbm a => (own, a)
  | .host a => (own, 0xE000000000 + (a - s.hostAddr 0))
  | .spd a => (own, a)

/-- BLY.INCA: a BLY_INC to any belay reachable by address (R156). -/
def execBlyInca (p : CoreId) (ra rb : SReg) (imm : BitVec 18) (s : State) : Host.Outcome State Fault Refusal :=
  .next (s.issue p (Instr.blyInca p ra rb imm).wellFormed 8 (fun s c =>
    let a := (s.sreg p ra).toNat
    if a % 8 ≠ 0 then s.raiseMisaligned p c a else
    match s.dmaAddr p c .mem a 8 .write with
    | (s, .at t) =>
      let s := s.drainPosted p
      if !(s.core p).posted.isEmpty || !s.fabricFree p then s else
      let n := s.blyAmount p rb imm
      if n = 0 then s.commit p else
      let (chip, x) := s.incTarget t
      let q : OutReq := { tag := 0, cls := 3, chip := chip, addr := x, len := 8, core := p, eng := .seq, ctx := c, deadline := 0,
                          first := 0, amount := BitVec.ofNat 32 n, pc := s.pc p }
      ((s.commit p).sendReq q).settle
    | (s, r) => s.raiseAccess p c a r))

/-- The timeout of a BLY.WAIT in ticks (R50, R156): s[RC] [31:0], 0 selecting BLY_TIMEOUT, whose 0 selects 5 s. -/
def State.waitTicks (s : State) (p : Nat) (v : Nat) : Nat :=
  if v ≠ 0 then v else
  let t := s.rd (R.BLY_TIMEOUT p) F.BLY_TIMEOUT.TICKS
  if t = 0 then 0x1DCD6500 else t

/-- BLY.WAIT (R50, R293): commits at once where the cell has reached the target, else the sequencer waits. -/
def execBlyWait (p : CoreId) (cell : BitVec 10) (rb rc : SReg) (coll : Bool) (s : State) : Host.Outcome State Fault Refusal :=
  .next (s.issue p true 8 (fun s c => s.withCell p c cell.toNat (fun s =>
    let target := s.sreg p rb
    if target.toNat ≤ (s.cellValue p (s.activeSlot p) cell.toNat).toNat then s.commit p else
    let limit := s.collTicks (p.val / 52)
    let ticks : Word := if coll then limit
      else BitVec.ofNat 64 (s.waitTicks p (bits (s.sreg p rc).toNat 0 32))
    s.setCore p { s.core p with
      wait := some { cell := cell.toNat, target := target, deadline := s.time + ticks, since := s.time, coll := coll,
                     limit := if coll then limit else 0 } })))

/-- BLY.READ. -/
def execBlyRead (p : CoreId) (rd : SReg) (cell : BitVec 10) (s : State) : Host.Outcome State Fault Refusal :=
  .next (s.issue p true 8 (fun s c => s.withCell p c cell.toNat (fun s =>
    s.commitReg p rd (s.cellValue p (s.activeSlot p) cell.toNat))))

/-- The context whose program waits on core `p`, RUNNING or in WAIT_IDLE. -/
def State.waiting (s : State) (p : Nat) : Option (Nat × BlyWait) :=
  match (s.core p).wait, s.resident p (s.activeSlot p) with
  | some w, some c =>
    if (s.coreState p = csRunning ∨ s.coreState p = csWaitIdle) ∧ s.clocked p ∧ !(s.ctx c).fenced then some (c, w) else none
  | _, _ => none

/-- Whether a wait's cell has reached its target. -/
def State.satisfied (s : State) (p : Nat) (w : BlyWait) : Bool :=
  decide (w.target.toNat ≤ (s.cellValue p (s.activeSlot p) w.cell).toNat)

/-- End the wait of core `p`, restarting its clock (R49). A jig run on it is abandoned (R332). -/
def State.endWait (s : State) (p : Nat) : State :=
  let s := s.abandonRun p
  (s.setCore p { s.core p with wait := none }).setCoreState p csRunning

/-- BELAY_WAIT_RESUME: a satisfied wait commits (R49, R50). -/
def execBelayWaitResume (p : CoreId) (s : State) : Host.Outcome State Fault Refusal :=
  .next (match s.waiting p with
    | none => s
    | some (_, w) => if s.satisfied p w then ((s.endWait p).retireAhead p).commit p else s)

/-- WAIT_IDLE_ENTRY: after more than 4 µs of waiting, with no run-ahead work left (R49): what needs no read is run ahead at once, and a
speculative read still to be made keeps the core awake. -/
def execWaitIdleEntry (p : CoreId) (s : State) : Host.Outcome State Fault Refusal :=
  .next (match s.waiting p with
    | none => s
    | some (c, w) =>
      if !s.satisfied p w && w.idleAt.isNone && decide (400 < (s.time - w.since).toNat) then
        match s.aheadFree p c 65 with
        | (s, true) => s
        | (s, false) => (s.setCore p { s.core p with wait := some { w with idleAt := some s.time } }).setCoreState p csWaitIdle
      else s)

/-- BELAY_TIMEOUT: the wait's deadline passes unsatisfied (R50, R293). -/
def execBelayTimeout (p : CoreId) (s : State) : Host.Outcome State Fault Refusal :=
  .next (match s.waiting p with
    | none => s
    | some (c, w) =>
      if !s.satisfied p w && decide (w.deadline.toNat ≤ s.time.toNat) then
        (s.endWait p).raiseInsn p c cBelayTimeout (8 * s.cellAt p (s.activeSlot p) w.cell) 0
      else s)

end Sys2Proof.Machine
end

