-- ==== Sys2Proof/Machine/Ctl.lean ====
section
/-!
DEFINITION. CTL instructions (R152 to R155), the step boundary (R115, R149), the yield (R53, R54) and the fence (R234).
-/
namespace Sys2Proof.Machine

/-- CTL.NOP. -/
def execCtlNop (p : CoreId) (s : State) : Host.Outcome State Fault Refusal := .next (s.issue p true 8 (fun s _ => s.commit p))

/-- Whether a branch condition holds (R152). -/
def condHolds (c : Cond) (a b : Word) : Bool :=
  match c with
  | .eq => a == b
  | .ne => a != b
  | .lt => a.slt b
  | .ge => !a.slt b
  | .ltu => a.ult b
  | .geu => !a.ult b

/-- CTL.BR: a hint that disagrees with the outcome costs a squash (R154). -/
def execCtlBr (p : CoreId) (cond : Cond) (hint : Bool) (ra rb : SReg) (off : BitVec 34) (s : State) :
    Host.Outcome State Fault Refusal :=
  .next (s.issue p true 8 (fun s _ =>
    let taken := condHolds cond (s.sreg p ra) (s.sreg p rb)
    let s := if hint = taken then s.retireAhead p else s.mispredict p
    s.commitAt p (if taken then s.branchTo p off else s.pc p + 8)))

/-- CTL.JMP: RD ← PC + 8, PC ← PC + 8 × OFF40. -/
def execCtlJmp (p : CoreId) (rd : SReg) (off : BitVec 40) (s : State) : Host.Outcome State Fault Refusal :=
  .next (s.issue p true 8 (fun s _ => ((s.retireAhead p).setSreg p rd (s.pc p + 8)).commitAt p (s.branchTo p off)))

/-- CTL.JR: RD ← PC + 8, PC ← s[RA]. DESIGN CHOICE: with RD = RA it goes to the value that s[RA] had before (log entry 83). -/
def execCtlJr (p : CoreId) (rd ra : SReg) (s : State) : Host.Outcome State Fault Refusal :=
  .next (s.issue p true 8 (fun s _ => ((s.retireAhead p).setSreg p rd (s.pc p + 8)).commitAt p (s.sreg p ra)))

/-- The pending seed of a slot. -/
def Core.seedP (k : Core) (i : Nat) : Option (BitVec 32) := if i = 0 then k.seedP0 else k.seedP1

/-- Forget the pending seed of a slot. -/
def Core.dropSeed (k : Core) (i : Nat) : Core := if i = 0 then { k with seedP0 := none } else { k with seedP1 := none }

/-- The pending seed of the running slot takes effect at a step boundary, after the CUB instructions issued before it (R115); not at one of a
jig's pattern (R333). -/
def State.stepSeed (s : State) (p c : Nat) : State :=
  if c = jigCtx then s else
  let i := s.activeSlot p
  let k := s.core p
  match k.seedP i with
  | none => s
  | some v =>
    let s := s.setCore p (k.dropSeed i)
    if k.cubeQ.isEmpty && k.upds.isEmpty then s.applySeed p i v
    else s.setCore p { s.core p with cubeQ := (s.core p).cubeQ ++ [(.reseed (Fin.ofNat 2 i) v, Fin.ofNat 17 c)] }

/-- CTL.STEP: the step boundary (R37, R115, R149). -/
def execCtlStep (p : CoreId) (s : State) : Host.Outcome State Fault Refusal :=
  .next (s.issue p true 8 (fun s c => ((s.stepSeed p c).flushAhead p).commit p))

/-- CTL.YIELD: fetch stops and run-ahead is squashed (R53 step 1). It commits with YIELD_SWITCH, once the slot has drained. -/
def execCtlYield (p : CoreId) (s : State) : Host.Outcome State Fault Refusal :=
  .next (s.issue p true 8 (fun s _ =>
    let s := s.squash p
    s.setCore p { s.core p with yielding := true }))

/-- The drained yield switches to the other slot, or completes as a no-operation (R53 steps 3 and 4). A seal failure of the
restored image poisons only the restored context (R54). -/
def State.yieldSwitch (s : State) (p : Nat) (sealFail : Bool) : State :=
  match s.running p with
  | none => s
  | some c =>
    if !(s.core p).yielding || !s.drained p c then s else
    let s := (s.setCore p { s.core p with yielding := false }).commit p
    if c = jigCtx then s else
    let i := s.activeSlot p
    let j := 1 - i
    if !s.runnable p j then s else
    (s.saveSlot p i (s.imageOf p)).restoreSlot p j sealFail

/-- YIELD_SWITCH. -/
def execYieldSwitch (p : CoreId) (sealFail : Bool) (s : State) : Host.Outcome State Fault Refusal :=
  .next (s.yieldSwitch p sealFail)

/-- CTL.HALT ends the program on this core, or the jig's pattern; its queued work goes on (R152, R305, R330). -/
def execCtlHalt (p : CoreId) (s : State) : Host.Outcome State Fault Refusal :=
  .next (s.issue p true 8 (fun s c =>
    let i := s.activeSlot p
    let s := s.commit p
    if c = jigCtx then s.onJig p (fun r => { r with halted := true }) else
    let k := s.core p
    (s.setCore p (k.setSlot i { k.slot i with halted := true })).handOver p))

/-- Whether a posted store lies within a fence's scope (R234). -/
def State.inScope (s : State) (scope : FScope) (x : Posted) : Bool :=
  match scope, x.tgt with
  | .core, .spd _ => true
  | .core, _ => false
  | .chip, .host _ => false
  | .chip, .remote chip _ => chip.toNat == s.ownChip
  | .chip, _ => true
  | .fabric, _ => true

/-- CTL.FENCE commits once the stores of its scope are accepted; earlier loads have returned, since they commit in order
(R149, R234). -/
def execCtlFence (p : CoreId) (scope : FScope) (s : State) : Host.Outcome State Fault Refusal :=
  .next (s.issue p true 8 (fun s _ =>
    let s := s.drainPosted p
    if (s.core p).posted.any (s.inScope scope) then s else s.commit p))

/-- CTL.SETH (R155). -/
def execCtlSeth (p : CoreId) (ra : SReg) (s : State) : Host.Outcome State Fault Refusal :=
  .next (s.issue p true 8 (fun s _ =>
    (s.wr (R.SEQ_HANDLER p) F.SEQ_HANDLER.ADDR ((s.sreg p ra).toNat / 8)).commit p))

/-- CTL.RETH: back to the instruction that missed; HANDLER_STATE where no handler runs (R155). -/
def execCtlReth (p : CoreId) (s : State) : Host.Outcome State Fault Refusal :=
  .next (s.issue p true 8 (fun s c =>
    if s.flag (R.SEQ_HANDLER p) F.SEQ_HANDLER.ACTIVE then
      (s.wr (R.SEQ_HANDLER p) F.SEQ_HANDLER.ACTIVE 0).commitAt p (s.word (R.SEQ_HRET p))
    else s.raiseInsn p c cHandlerState (s.pc p).toNat 0))

end Sys2Proof.Machine
end

