-- ==== Sys2Proof/Machine/Hosts.lean ====
section
/-!
DEFINITION. Host attachment: the CXL link (R298), host accesses to HBM and the snoop filter (R299, R300), host-window answers (R301),
submission queues and completions (R302 to R307), MSI-X (R308), and the event ring's head (R316).
-/
namespace Sys2Proof.Machine

/-! ### CXL -/

/-- CXL_LINK_TRAINING: the CXL link ends its training (R298, Table 94): at ×4 it runs degraded, and below 64 GT/s it stays down. -/
def execCxlLinkTraining (res : CxlEnd) (s : State) : Host.Outcome State Fault Refusal :=
  .next (
    if !s.pins.pwrGood || s.pins.hold then s else
    match res with
    | .full => (s.wr R.CXL_LINK F.CXL_LINK.STATE 1).wr R.CXL_LINK F.CXL_LINK.RATE_FAIL 0
    | .x4 => (s.wr R.CXL_LINK F.CXL_LINK.STATE 2).wr R.CXL_LINK F.CXL_LINK.RATE_FAIL 0
    | .slow => (s.wr R.CXL_LINK F.CXL_LINK.STATE 0).wr R.CXL_LINK F.CXL_LINK.RATE_FAIL 1)

/-- Count a host access at or above the end of the last partition (R299). -/
def State.hdmBounds (s : State) : State := s.bump R.CXL_LINK F.CXL_LINK.HDM_BOUNDS 1

/-- HOST_MEM_READ: a host CXL.mem read of the 64 B line at HDM offset `off` (R299). A line of a held channel waits in the hold shelf
(R206); a stopped stack refuses it (R214). Until READY it returns all ones, poisoned (R389). -/
def execHostMemRead (off : BitVec 48) (s : State) : Host.Outcome State Fault Refusal :=
  .next (
    let a := off.toNat / 64 * 64
    if !s.flag R.MGT_BOOT F.MGT_BOOT.READY then s.emit (.memData a (List.replicate 64 0xFF) true) else
    if s.hbmEnd ≤ a then s.hdmBounds.emit (.memData a (List.replicate 64 0xFF) false) else
    if s.stopped (s.siteOf (a / 2048)) then s.emit (.refused a)
    else if s.tileHeld (a / 2048) then (s.parkRead .host a 64 0).getD (s.emit (.refused a))
    else match s.hbmRead a 64 with
      | none => s.emit (.refused a)
      | some (s, d, po) => s.emit (.memData a d po))

/-- HOST_MEM_WRITE: a host CXL.mem write of one 64 B line is a partial write (R299, R199), poisoned where it carries poison. A write
that its plinth cannot take yet waits. Until READY it is dropped and counted (R389). -/
def execHostMemWrite (off : BitVec 48) (data : List Byte) (poison : Bool) (s : State) : Host.Outcome State Fault Refusal :=
  .next (
    let a := off.toNat / 64 * 64
    let d := slice data 0 64
    if s.hbmEnd ≤ a || !s.flag R.MGT_BOOT F.MGT_BOOT.READY then s.hdmBounds else
    match s.plainWrite a d poison none with
    | (_, some s) => s
    | (s, none) =>
      let x : BiWait := { lines := [], addr := a, data := d, poison := poison, whole := none, ack := none, host := true }
      { s with biWait := s.biWait ++ [x] })

/-- Entries of the snoop filter (R300). -/
def filterSize : Nat := 262144

/-- Grant a line to the host: it becomes the most recently granted entry. -/
def State.grantLine (s : State) (l : Nat) : State := { s with snoop := s.snoop.filter (fun x => x != l) ++ [l] }.emit (.lineGrant l)

/-- Whether a host request for a line must wait: the filter is full of other lines, or the line is being back-invalidated. -/
def State.lineWaits (s : State) (l : Nat) : Bool :=
  s.biSent.contains l || (!s.snoop.contains l && decide (filterSize ≤ s.snoop.length))

/-- Grant the lines that waited and need wait no more, in their order. -/
def State.grantWaiting (s : State) : State :=
  s.lineReqs.foldl (fun s l => if s.lineWaits l then { s with lineReqs := s.lineReqs ++ [l] } else s.grantLine l) { s with lineReqs := [] }

/-- HOST_LINE_REQUEST: the host asks for ownership of a line (R300). With the filter full, the least recently granted entry is
back-invalidated first. -/
def execHostLineRequest (line : BitVec 34) (s : State) : Host.Outcome State Fault Refusal :=
  .next (
    let l := line.toNat
    if s.hbmEnd ≤ 64 * l then s.hdmBounds
    else if !s.lineWaits l then s.grantLine l
    else
      let s := if s.biSent.contains l then s else s.backInvalidate ((s.snoop.find? (fun x => !s.biSent.contains x)).toList)
      { s with lineReqs := s.lineReqs ++ [l] })

/-- A waiting write has one line fewer to wait for. -/
def BiWait.give (l : Nat) (x : BiWait) : BiWait := { x with lines := x.lines.filter (fun y => y != l) }

/-- BIRSP_RECEIVE: the host has given up a line (R300): the writes that waited for it are accepted, and then the host's own request. -/
def execBirspReceive (line : BitVec 34) (s : State) : Host.Outcome State Fault Refusal :=
  .next (
    let l := line.toNat
    if !s.biSent.contains l then s else
    let s := { s with
      biSent := s.biSent.filter (fun x => x != l)
      snoop := s.snoop.filter (fun x => x != l)
      biWait := s.biWait.map (BiWait.give l) }
    s.retryAll.grantWaiting)

/-- HOST_WINDOW_RESPONSE: the host answers the oldest host-window access of an engine (R301). An error or poison reaches the engine as
an ERR_RSP does (R230); the status ACCESS_DENIED stands for it. Where it ends a bivouac stream, the writes it held go on (R378). -/
def execHostWindowResponse (p : CoreId) (eng : Engine) (ans : HostAnswer) (data : List Byte) (s : State) :
    Host.Outcome State Fault Refusal :=
  .next (
    match s.out.find? (fun q => q.core == p.val && q.eng == eng && decide (4 ≤ q.cls)) with
    | none => s
    | some q =>
      let go := fun (s : State) (err : Nat) (d : List Byte) =>
        let s := (s.dropReq q.tag).answer q err d false none
        if q.biv then s.retryAll else
        let s := s.cores.foldl (fun s kc => kc.2.dma.foldl (fun s e => s.dmaRun kc.1 e.1) s) s
        s.settle
      match ans with
      | .data => if q.cls = 4 then go s 0 (slice data 0 q.len) else s
      | .go => if q.cls = 5 then go s 0 [] else s
      | .error => go s 2 []
      | .poison => if q.cls = 4 then go s 2 [] else s)

/-! ### Submission queues -/

/-- State of a queue (CXL_Q_STATUS.STATE). -/
def qsUnbound : Nat := 0
def qsActive : Nat := 1
def qsError : Nat := 2
def qsFenced : Nat := 3

/-- State of queue `q`. -/
def State.queueState (s : State) (q : Nat) : Nat := s.rd (R.CXL_Q_STATUS q) F.CXL_Q_STATUS.STATE

/-- SQ entries of queue `q`. -/
def State.queueSize (s : State) (q : Nat) : Nat := s.rd (R.CXL_Q_CFG q) F.CXL_Q_CFG.SIZE

/-- Bound context of queue `q`. -/
def State.queueCtx (s : State) (q : Nat) : Nat := s.rd (R.CXL_Q_CFG q) F.CXL_Q_CFG.CTX

/-- Stop a queue (R306): STATE = ERROR and a QUEUE_ERROR event. -/
def State.queueError (s : State) (q cause : Nat) : State :=
  (s.wr (R.CXL_Q_STATUS q) F.CXL_Q_STATUS.STATE qsError).event 0x8010 (natLe q 1 ++ natLe cause 1)

/-- Set EN of a queue: it starts at head 0 (R302, R306). -/
def State.enableQueue (s : State) (q : Nat) : State :=
  if s.flag (R.CXL_Q_CFG q) F.CXL_Q_CFG.EN then s else
  let s := s.wr (R.CXL_Q_CFG q) F.CXL_Q_CFG.EN 1
  let s := (s.setQueue q {}).wr (R.CXL_Q_STATUS q) F.CXL_Q_STATUS.SQ_HEAD 0
  let x := s.ctx (s.queueCtx q)
  if !x.live then s.queueError q 3
  else s.wr (R.CXL_Q_STATUS q) F.CXL_Q_STATUS.STATE (if x.fenced then qsFenced else qsActive)

/-- Clear EN of a queue: it stops fetching at once and is UNBOUND (R306). -/
def State.disableQueue (s : State) (q : Nat) : State :=
  if !s.flag (R.CXL_Q_CFG q) F.CXL_Q_CFG.EN then s else
  let s := s.wr (R.CXL_Q_CFG q) F.CXL_Q_CFG.EN 0
  (s.setQueue q { s.queue q with entries := [] }).wr (R.CXL_Q_STATUS q) F.CXL_Q_STATUS.STATE qsUnbound

/-- Q_ENABLE. -/
def execQEnable (q : QueueId) (s : State) : Host.Outcome State Fault Refusal := .next (s.enableQueue q)

/-- Q_DISABLE. -/
def execQDisable (q : QueueId) (s : State) : Host.Outcome State Fault Refusal := .next (s.disableQueue q)

/-- The queues of a context that has been removed are UNBOUND (R307). -/
def State.unbindQueues (s : State) (c : Nat) : State :=
  (upto 64).foldl (fun s q =>
    if s.boundTo q c && s.queueState q != qsError then s.wr (R.CXL_Q_STATUS q) F.CXL_Q_STATUS.STATE qsUnbound else s) s

/-- Completions the host has not consumed. -/
def State.unconsumed (s : State) (q : Nat) : Nat := (s.queue q).unread

/-- SQ_WAKE: a snoop removes the tail line; the device re-reads it and fetches the pending entries in ring order (R303, R306). `tail` and
`head` are SQ_TAIL and CQ_HEAD as read, `entries` the pending entries; `readFail`: a read of the line or the ring failed or was
poisoned. -/
def execSqWake (q : QueueId) (tail head : BitVec 32) (readFail : Bool) (entries : List SqEntry) (s : State) :
    Host.Outcome State Fault Refusal :=
  .next (
    let n := s.queueSize q
    let at_ := s.rd (R.CXL_Q_STATUS q) F.CXL_Q_STATUS.SQ_HEAD
    if !s.flag (R.CXL_Q_CFG q) F.CXL_Q_CFG.EN || (s.queueState q != qsActive && s.queueState q != qsFenced) then s else
    let s := s.count (R.CXL_Q_STATUS q) F.CXL_Q_STATUS.WAKES 1
    let x := s.queue q
    let moved := (head.toNat + (n + 1) - x.cqHead) % (n + 1)
    if readFail then s.queueError q 2
    else if n ≤ tail.toNat ∨ n ≤ head.toNat then s.queueError q 0
    else if s.unconsumed q < moved then s.queueError q 1
    else
      let s := s.setQueue q { x with cqHead := head.toNat, unread := x.unread - moved }
      let k := (tail.toNat + n - at_) % n
      if k = 0 then s else
      let s := s.setQueue q { s.queue q with tail := tail.toNat, entries := x.entries ++ entries.take k }
      (s.wr (R.CXL_Q_STATUS q) F.CXL_Q_STATUS.SQ_HEAD tail.toNat).emit (.sqFetch q at_ tail.toNat))

/-- Status codes of a completion (R305). -/
def cqOk : Nat := 0
def cqFenced : Nat := 1
def cqBadState : Nat := 2
def cqBadArg : Nat := 3
def cqBelayRange : Nat := 4
def cqImageChanged : Nat := 5
def cqIllegal : Nat := 6
def cqHalted : Nat := 7

/-- Write a completion entry (R305); `irq` signals the queue's vector. -/
def State.complete (s : State) (q cmd status : Nat) (irq : Bool) : State :=
  let x := s.queue q
  let n := s.queueSize q
  let after := (s.rd (R.CXL_Q_STATUS q) F.CXL_Q_STATUS.SQ_HEAD + n - x.entries.length % max 1 n) % max 1 n
  let e := cmd + after * 2 ^ 32 + status * 2 ^ 48 + q * 2 ^ 56 + (if x.phase then 2 ^ 63 else 0) + s.time.toNat * 2 ^ 64
  let last := x.cqTail = n
  let s := s.setQueue q { x with
    cqTail := if last then 0 else x.cqTail + 1
    unread := x.unread + 1
    phase := if last then !x.phase else x.phase }
  let s := s.emit (.completion (Fin.ofNat 64 q) x.cqTail (BitVec.ofNat 128 e))
  if irq then s.signal (s.rd (R.CXL_Q_CFG q) F.CXL_Q_CFG.VECTOR) else s

/-- The entry that a queue may execute next (R304). -/
def State.nextEntry (s : State) (q : Nat) : Option SqEntry :=
  if !s.flag (R.CXL_Q_CFG q) F.CXL_Q_CFG.EN || s.queueState q == qsError || decide (s.queueSize q ≤ s.unconsumed q) then none
  else (s.queue q).entries.head?

/-- End the entry a queue has executed: its completion is written if it asks for one or has failed (R305). -/
def State.endEntry (s : State) (q : Nat) (e : SqEntry) (status : Nat) : State :=
  let x := s.queue q
  let s := s.setQueue q { x with entries := x.entries.drop 1 }
  if e.flags.getLsbD 0 || status != cqOk then s.complete q e.cmdId.toNat status (e.flags.getLsbD 1) else s

/-- Whether a queue's entries complete with FENCED: its context is fenced or has been removed (R307). -/
def State.queueFenced (s : State) (q : Nat) : Bool :=
  let x := s.ctx (s.queueCtx q)
  s.queueState q != qsActive || !x.live || x.fenced

/-- Execute the front entry of a queue if its opcode is one of `ops`. -/
def State.runEntry (s : State) (q : Nat) (ops : Nat → Bool) (f : State → SqEntry → State × Nat) : State :=
  match s.nextEntry q with
  | none => s
  | some e =>
    if !ops e.opcode.toNat then s
    else if s.queueFenced q then s.endEntry q e cqFenced
    else
      let (s, st) := f s e
      s.endEntry q e st

/-- SQ_BELAY_INC: the front entry increments a cell of the bound context (R304, R307). -/
def execSqBelayInc (q : QueueId) (s : State) : Host.Outcome State Fault Refusal :=
  .next (s.runEntry q (fun o => o == 2) (fun s e =>
    let c := s.queueCtx q
    match (s.ctx c).cores.find? (fun k => k.logical == e.core.toNat) with
    | none => (s, cqBadArg)
    | some k =>
      if e.amount = 0 then (s, cqBadArg) else
      match s.blyInc c k.phys e.cell.toNat e.amount.toNat with
      | .done s => (s, cqOk)
      | .fenced => (s, cqFenced)
      | .range => (s, cqBelayRange)))

/-- SQ_NOP: the front entry completes at once (R304); so does an entry of a reserved opcode, with ILLEGAL_OPCODE. -/
def execSqNop (q : QueueId) (s : State) : Host.Outcome State Fault Refusal :=
  .next (s.runEntry q (fun o => o != 1 && o != 2) (fun s e => (s, if e.opcode = 3 then cqOk else cqIllegal)))

/-- Whether every core of a context has halted and has no work left (R305). -/
def State.ctxHalted (s : State) (c : Nat) : Bool :=
  let x := s.ctx c
  x.phase == .running && x.cores.all (fun k =>
    ((s.core k.phys.val).slot k.slot.val).halted && s.drained k.phys c && (s.core k.phys.val).posted.all (fun y => y.tag.isNone))

/-- CONTEXT_HALTED: the queues of the context write their HALTED completion, in the entry kept for it if need be (R305). -/
def execContextHalted (ctx : CtxId) (s : State) : Host.Outcome State Fault Refusal :=
  .next (
    let x := s.ctx ctx
    if !s.ctxHalted ctx || x.fenced || x.halted then s else
    let s := s.setCtx ctx { x with halted := true }
    (upto 64).foldl (fun s q =>
      if s.boundTo q ctx && s.queueState q == qsActive then s.complete q 0xFFFFFFFF cqHalted true else s) s)

/-! ### Interrupts -/

/-- Whether a vector may send no message yet, by its holdoff (R308). -/
def State.inHoldoff (s : State) (v : Nat) : Bool :=
  let x := s.vector v
  match x.last with
  | none => false
  | some t => x.holdoff != 0 && decide ((s.time - t).toNat < x.holdoff.toNat * 100)

/-- Send a vector's message for the entries whose GO has come; a masked vector sets its pending bit instead (R308). -/
def State.announce (s : State) (v : Nat) : State :=
  let x := s.vector v
  if !x.ready && !x.pend then s
  else if x.masked then s.setVector v { x with ready := false, pend := true }
  else (s.setVector v { x with ready := false, pend := false, last := some s.time }).emit (.msix v)

/-- The host has granted GO for every entry written so far for a vector (R308). -/
def State.granted (s : State) (v : Nat) : State :=
  let x := s.vector v
  if x.due then s.setVector v { x with due := false, ready := true } else s

/-- MSIX_SEND: the host has granted GO for every entry a vector announces (R308); in the holdoff its end announces them. -/
def execMsixSend (v : Fin 64) (s : State) : Host.Outcome State Fault Refusal :=
  .next (if (s.granted v).inHoldoff v then s.granted v else (s.granted v).announce v)

/-- MSIX_HOLDOFF_END: HOLDOFF_US has passed since the vector's last message: entries whose GO has come are announced (R308). -/
def execMsixHoldoffEnd (v : Fin 64) (s : State) : Host.Outcome State Fault Refusal :=
  .next (
    let x := s.vector v
    if x.holdoff = 0 ∨ x.last.isNone ∨ s.inHoldoff v then s else s.announce v)

/-- The host driver moves EVT_HEAD (R316): a value above 62 is ignored. Freed space takes one EVENT_LOST event if events were lost. -/
def State.moveEvtHead (s : State) (v : Nat) : State :=
  if 62 < v then s else
  let s := s.wr R.MBX_EVT F.MBX_EVT.EVT_HEAD v
  if s.evtLost && (s.rd R.MBX_EVT F.MBX_EVT.EVT_TAIL + 1) % 63 != v then
    { s with evtLost := false }.event 0x8011 (natLe (s.rd R.MBX_EVT F.MBX_EVT.LOST) 4)
  else s

/-- EVT_HEAD_WRITE. -/
def execEvtHeadWrite (v : BitVec 6) (s : State) : Host.Outcome State Fault Refusal := .next (s.moveEvtHead v.toNat)

end Sys2Proof.Machine
end

