-- ==== Sys2Proof/Machine/Context.lean ====
section
/-!
DEFINITION. Removing a context from the chip: what an unload, a context reset or a larger reset does to its cores, registers, memory
and queues (R51, R59, R73, R142, R188, R354, R412, Table 140).
-/
namespace Sys2Proof.Machine

/-- The context a register slot of domain context belongs to (Table 139). -/
def ctxOfSlot (a : Nat) : Nat :=
  if a < 0x00400000 then (a - 0x000C0000) / 0x100
  else if a < 0x00500000 then (a - 0x00400000) / 0x1000
  else if a < 0x01000000 then (a - 0x00500000) / 0x1000
  else if a < 0x04000000 then
    let o := (a - 0x01000000) % 0x800000
    if o < 0x480000 then (o - 0x400000) / 0x8000 else (o - 0x480000) / 8
  else (a - 0x0A010000) % 0x100000 / 0x2000

/-- Return the registers of domain context of a context number to their reset values (Table 140). -/
def State.resetCtxRegs (s : State) (c : Nat) : State :=
  s.resetSlots (fun a => domOf a == some .context && ctxOfSlot a == c)

/-- Set every cube of core `p` to zero: slots, A-scale buffers, accumulators, poison (R73). The ramp state stays. -/
def State.zeroCubes (s : State) (p : Nat) : State :=
  (upto 16).foldl (fun s c =>
    let s := (s.setCube p c {}).setWord (R.CUBE_ACC_STATUS p c) 0
    let r := R.CUBE_STATUS p c
    let s := (s.wr r F.CUBE_STATUS.SLOT0_READY 0).wr r F.CUBE_STATUS.SLOT1_READY 0
    let s := (s.wr r F.CUBE_STATUS.SLOT0_POISON 0).wr r F.CUBE_STATUS.SLOT1_POISON 0
    (s.wr r F.CUBE_STATUS.ACC_POISON 0).wr r F.CUBE_STATUS.DRAINING 0) s

/-- The running slot's state on core `p` is lost (R73, R142). -/
def State.zeroRunning (s : State) (p : Nat) : State :=
  let s := (s.zeroCubes p).setWord (R.VEC_POISON p) 0
  s.setCore p { (s.core p).stopFetch with sregs := [], vregs := [], fetched := [], yielding := false }

/-- Set a slot's belay cells to zero (R51). -/
def State.zeroCells (s : State) (p i : Nat) : State :=
  (natsFrom (s.cellAt p i 0) (s.cellCount p i)).foldl (fun s k => s.setWord (R.BLY_CELL p k) 0) s

/-- A core whose slots have changed: with no resident context left it idles until it is gated (R59), or ends FENCED (Table 108 step 4);
the other slot's program resumes where the running one was removed in the drain of its CTL.YIELD, and on no other removal (R53, R321). -/
def State.settleCore (s : State) (p : Nat) (wasRunning inYield : Bool) : State :=
  let st := s.coreState p
  if (s.residents p).isEmpty then
    if st = csFencing then (s.gateCore p).showAwake (p / 52) else s.setCoreState p csIdle
  else if !wasRunning || st = csFencing then s
  else if inYield && s.runnable p (1 - s.activeSlot p) then s.restoreSlot p (1 - s.activeSlot p) false
  else s.setCoreState p csIdle

/-- A pending seed of a slot that is emptied is discarded (R412). -/
def Core.forgetSeed (k : Core) (i : Nat) : Core := k.dropSeed i

/-- Empty slot `i` of core `p`: cells, allocations, quantise counts and the save image go (R51, R104, R354). DESIGN CHOICE: the slot's
SCA_QSTAT is zero from here on, an unload too (log entry 80). A jig run ends where the slot is the waiting one (R332). -/
def State.emptySlot (s : State) (p i : Nat) : State :=
  let active := s.activeSlot p == i
  let s := if active then s.abandonRun p else s
  let inYield := active && (s.core p).yielding
  let run := active && ((s.core p).slot i).started
  let s := s.zeroCells p i
  let s := ((s.setWord (R.CORE_SPD_ALLOC p i) 0).setWord (R.BLY_ALLOC p i) 0).setWord (R.SCA_QSTAT p i) 0
  let r := R.CORE_STATUS p
  let s := if i = 0 then (s.wr r F.CORE_STATUS.RES0_VALID 0).wr r F.CORE_STATUS.RES0_CTX 0
    else (s.wr r F.CORE_STATUS.RES1_VALID 0).wr r F.CORE_STATUS.RES1_CTX 0
  let s := if run then s.zeroRunning p else s
  let s := s.setCore p (((s.core p).setSlot i {}).forgetSeed i)
  s.settleCore p active inYield

/-- Whether an address lies in one of some ranges. -/
def inRanges (ext : List (Nat × Nat)) (a : Nat) : Bool := ext.any (fun e => decide (e.1 ≤ a) && decide (a < e.1 + e.2))

/-- The accepted writes of some extents merge (Table 116 step 4); those of a STOPPED stack or a held channel stay. -/
def State.mergeInside (s : State) (ext : List (Nat × Nat)) : State :=
  s.plinths.foldl (fun s kp =>
    kp.2.wcb.foldl (fun s e => if inRanges ext (2048 * e.tile) && !s.tileBlocked e.tile then s.wcbMerge e.tile else s) s) s

/-- Whether a plinth still holds accepted writes within some extents (R354). -/
def State.stuckWrites (s : State) (ext : List (Nat × Nat)) : Bool :=
  s.plinths.any (fun kp => kp.2.wcb.any (fun e => inRanges ext (2048 * e.tile)) || kp.2.parked.any (fun x => match x with
    | .merge t _ _ => inRanges ext (2048 * t)
    | .whole a _ _ => inRanges ext a
    | .read .. => false)) || s.biWait.any (fun x => x.held && inRanges ext x.addr)

/-- Requests of other chips for some extents that wait for the host's lines are answered FENCED (R352). A write that was held for a page is
as good as accepted, and stays (R379). -/
def State.refuseWaits (s : State) (c : Nat) (ext : List (Nat × Nat)) : State :=
  s.biWait.foldl (fun s x => match x.ack with
    | some h => if inRanges ext x.addr && !x.held then s.refuse (some c) h 4 else { s with biWait := s.biWait ++ [x] }
    | none => { s with biWait := s.biWait ++ [x] }) { s with biWait := [] }

/-- Remove a context from the chip (R354 steps 5 and 6): its queues, groups, slots, requests, registers and HBM. -/
def State.removeCtx (s : State) (c : Nat) : State :=
  let s := s.finishWaits
  let x := s.ctx c
  let s := match x.biv.rst with
    | some t => s.reply t.ch msState 0 []
    | none => s
  let s := s.unbindQueues c
  let s := if x.fenced then s else s.freeGroups c
  let s := x.cores.foldl (fun s e =>
    let p := e.phys.val
    let s := if s.activeSlot p = e.slot.val then s.drainPosted p else s
    let s := s.dropOn p c
    let s : State := (upto 4).foldl (fun s d => (s.dmaRun p d).dmaRetire p d c) s
    let s : State := if s.activeSlot p = e.slot.val then s.setCore p { s.core p with posted := [] } else s
    s.emptySlot p e.slot.val) s
  let ext := x.extents ++ x.reserve
  let s := (s.refuseWaits c ext).mergeInside ext
  let s := { s with
    out := s.out.filter (fun q => q.ctx != c)
    recov := if s.stuckWrites ext then { s.recov with quar := s.recov.quar ++ [(Fin.ofNat 16 c, ext)] } else s.recov }
  (s.resetCtxRegs c).setCtx c {}

/-- Write the CTX_ERROR event of a context that a reset of level `action` removes (R367). A chip reset's events are written when it has
completed. -/
def State.ctxErrorEvent (s : State) (c action : Nat) : State :=
  match (s.ctx c).cause with
  | none => s
  | some r =>
    let b := (natLe c 1 ++ natLe action 1 ++ natLe r.cause.toNat 2 ++ natLe r.unit.toNat 2 ++ natLe r.seq.toNat 2 ++
      natLe r.addr.toNat 8 ++ natLe r.detail.toNat 4 ++ natLe (s.key c) 2 ++ natLe 0 2 ++ natLe r.ts.toNat 8)
    if action = 4 then { s with recov := { s.recov with reports := s.recov.reports ++ [b] } } else s.event 0x8001 b

end Sys2Proof.Machine
end

