-- ==== Sys2Proof/Machine/Image.lean ====
section
/-!
DEFINITION. Program images: their layout (R169, R170), the checks of Table 60 in their order (R171), and the checks of group descriptors
(R267).
-/
namespace Sys2Proof.Machine

/-- One core entry of a LOAD request (Table 100). -/
structure LoadCore where
  core  : Nat
  slot  : Nat
  gran  : Nat
  cells : Nat
  room  : Nat      -- bytes of the allocation
  deriving DecidableEq, Repr

/-- A LOAD request (Table 100). -/
structure LoadReq where
  bytes  : Nat
  part   : Nat
  hbm    : Nat
  slots  : Nat
  tags   : Nat
  ports  : Nat
  groups : Nat
  cores  : List LoadCore
  deriving DecidableEq, Repr

/-- A code section (Table 59). -/
structure CodeSec where
  off   : Nat
  bytes : Nat
  va    : Nat
  deriving DecidableEq, Repr

/-- A data section (Table 59). -/
structure DataSec where
  off   : Nat
  bytes : Nat
  addr  : Nat
  core  : Nat
  zero  : Nat
  deriving DecidableEq, Repr

/-- A core entry of an image (Table 59). -/
structure EntrySec where
  core  : Nat
  slot  : Nat
  code  : Nat
  off   : Nat
  arg   : Nat
  deriving DecidableEq, Repr

/-- The code table of an image. -/
def codeTable (im : List Byte) : List CodeSec :=
  (upto (leAt im 0x10 2)).map (fun i =>
    let o := leAt im 0x18 4 + 16 * i
    { off := leAt im o 4, bytes := leAt im (o + 4) 4, va := leAt im (o + 8) 8 })

/-- The data table of an image. -/
def dataTable (im : List Byte) : List DataSec :=
  (upto (leAt im 0x12 2)).map (fun i =>
    let o := leAt im 0x1C 4 + 16 * i
    { off := leAt im o 4, bytes := leAt im (o + 4) 4, addr := leAt im (o + 8) 4, core := leAt im (o + 12) 2, zero := leAt im (o + 14) 2 })

/-- The core table of an image. -/
def coreTable (im : List Byte) : List EntrySec :=
  (upto (leAt im 0x14 2)).map (fun i =>
    let o := leAt im 0x20 4 + 16 * i
    { core := leAt im o 2, slot := leAt im (o + 2) 1, code := leAt im (o + 3) 1, off := leAt im (o + 4) 4, arg := leAt im (o + 8) 8 })

/-- CHECK over an image: CRC-32C with the CHECK field as zero (Table 58). -/
def imageCheck (im : List Byte) : Nat := crc32c (im.take 12 ++ List.replicate 4 0 ++ im.drop 16)

/-- Whether no two of a list of ranges overlap. -/
def disjointRanges : List (Nat × Nat) → Bool
  | [] => true
  | (a, n) :: l => l.all (fun e => n == 0 || e.2 == 0 || decide (a + n ≤ e.1) || decide (e.1 + e.2 ≤ a)) && disjointRanges l

/-- IMG_BOUNDS (Table 60 order 3). -/
def imgBounds (im : List Byte) (bytes : Nat) : Bool :=
  let nc := leAt im 0x10 2
  let nd := leAt im 0x12 2
  let nk := leAt im 0x14 2
  let inside := fun (a n : Nat) => decide (a + n ≤ bytes)
  let secs := (codeTable im).map (fun c => (c.off, c.bytes)) ++ (dataTable im).map (fun d => (d.off, d.bytes))
  leAt im 8 4 == bytes && decide (64 ≤ bytes) &&
  decide (1 ≤ nc) && decide (nc ≤ 256) && decide (nd ≤ 4096) && decide (1 ≤ nk) && decide (nk ≤ 96) &&
  leAt im 0x16 2 == 0 && leAt im 0x24 28 == 0 &&
  inside (leAt im 0x18 4) (16 * nc) && inside (leAt im 0x1C 4) (16 * nd) && inside (leAt im 0x20 4) (16 * nk) &&
  (dataTable im).all (fun d => d.zero == 0) && secs.all (fun e => inside e.1 e.2) && disjointRanges secs

/-- IMG_CORES (order 5): the image's core entries and the request's name the same pairs, each once. -/
def imgCores (im : List Byte) (r : LoadReq) : Bool :=
  let t := coreTable im
  t.length == r.cores.length &&
  r.cores.all (fun k => (t.filter (fun e => e.core == k.core && e.slot == k.slot)).length == 1)

/-- IMG_ENTRY (order 6). -/
def imgEntry (im : List Byte) : Bool :=
  (coreTable im).all (fun e => match (codeTable im)[e.code]? with
    | none => false
    | some c => e.off % 8 == 0 && decide (e.off < c.bytes))

/-- IMG_DATA (order 7). -/
def imgData (im : List Byte) (r : LoadReq) : Bool :=
  (dataTable im).all (fun d =>
    let ks := r.cores.filter (fun k => d.core == 0xFFFF || d.core == k.core)
    d.addr % 64 == 0 && d.bytes % 64 == 0 && !ks.isEmpty && ks.all (fun k => decide (d.addr + d.bytes ≤ k.room)))

/-- Decode words one after the other from the start of a section; none where one is illegal or crosses the end. -/
def decodeWords : Nat → List Byte → Option (List Instr)
  | 0, _ => some []
  | f + 1, l =>
    if l.isEmpty then some [] else
    let w := leAt l 0 8
    let n := tisBytes w
    if l.length < n then none else
    match decodeTis 0 w (leAt l 8 8) with
    | none => none
    | some i => (decodeWords f (l.drop n)).map (fun t => i :: t)

/-- IMG_DECODE (order 8): the instructions of every code section. -/
def imgDecode (im : List Byte) : Option (List Instr) :=
  (codeTable im).foldl (fun (acc : Option (List Instr)) c => match acc with
    | none => none
    | some l =>
      if c.bytes % 8 ≠ 0 ∨ c.va % 8 ≠ 0 then none
      else (decodeWords (c.bytes / 8) (slice im c.off c.bytes)).map (fun t => l ++ t)) (some [])

/-- The cells an instruction names: CELL, WCELL where it waits, ICELL where it increments. -/
def cellsNamed : Instr → List Nat
  | .blyInc _ c _ _ => [c.toNat]
  | .blyWait _ c _ _ _ => [c.toNat]
  | .blyRead _ _ c => [c.toNat]
  | .dmaCopy _ d => (if d.waitEn then [d.wcell.toNat] else []) ++ (if d.amount = 0 then [] else [d.icell.toNat])
  | .splRun _ d => (if d.waitEn then [d.wcell.toNat] else []) ++ (if d.amount = 0 then [] else [d.icell.toNat])
  | .splBatch _ d => (if d.waitEn then [d.wcell.toNat] else []) ++ (if d.amount = 0 then [] else [d.icell.toNat])
  | .splCounts _ d => (if d.waitEn then [d.wcell.toNat] else []) ++ (if d.amount = 0 then [] else [d.icell.toNat])
  | _ => []

/-- The group an instruction names. -/
def groupNamed : Instr → Option Nat
  | .splRun _ d => some d.group
  | .splBatch _ d => some d.group
  | .splCounts _ d => some d.group
  | _ => none

/-- The tag an instruction names. -/
def tagNamed : Instr → Nat
  | .cvtF _ d _ => d.tag.toNat
  | .cvtQ _ d _ => d.tag.toNat
  | .scaTread _ _ t _ _ => t.toNat
  | _ => 0

/-- IMG_LIMITS (order 9). -/
def imgLimits (l : List Instr) (r : LoadReq) : Bool :=
  let cells := r.cores.foldl (fun m k => min m k.cells) 1024
  l.all (fun i =>
    (cellsNamed i).all (fun c => decide (c < cells)) &&
    (match groupNamed i with | none => true | some g => decide (g < r.groups)) &&
    (tagNamed i == 0 || decide (tagNamed i < r.tags)))

/-- The order number of the first check of Table 60 that an image fails, 0 if it passes. `upTo8` leaves the last check out (R336). -/
def imageFails (im : List Byte) (r : LoadReq) (upTo8 : Bool) : Nat :=
  if leAt im 0 4 ≠ 0x58495054 then 1
  else if leAt im 4 2 ≠ 1 ∨ leAt im 6 2 ≠ 0 then 2
  else if !imgBounds im r.bytes then 3
  else if imageCheck im ≠ leAt im 12 4 then 4
  else if !imgCores im r then 5
  else if !imgEntry im then 6
  else if !imgData im r then 7
  else match imgDecode im with
    | none => 8
    | some l => if upTo8 || imgLimits l r then 0 else 9

/-- GRP_DESC and GRP_NOT_MEMBER of a descriptor (R267): 0, 0x10 or 0x11. The route is that of context number `c`. -/
def State.groupFails (s : State) (c d : Nat) (r : LoadReq) : Nat :=
  let ext := s.routeExt c
  let inside := s.routeValid c &&
    ((groupAxes d).zip ext).all (fun x => decide (x.1.1 + (x.1.2.1 - 1) * x.1.2.2 < x.2))
  let zero := bits d 60 4 == 0 && bits d 89 7 == 0 && bits d 120 8 == 0
  let named := r.cores.any (fun k => k.core == bits d 81 7)
  if !inside || !zero || !named || decide (groupSize d ≤ groupRoot d) then 0x10
  else if (s.memberOf c d s.ownChip).isNone then 0x11 else 0

end Sys2Proof.Machine
end

