-- ==== Sys2Proof/Machine/Bench.lean ====
section
/-!
DEFINITION. The bytes of jig packages (Table 106) and the start of a pattern on the jig bench (R328, R330, R333).
-/
namespace Sys2Proof.Machine

/-- A pattern-table entry (Table 106). -/
structure JigPat where
  img    : Nat
  bytes  : Nat
  out    : Nat
  outN   : Nat
  exp    : Nat
  inject : Nat
  deriving DecidableEq, Repr

/-- A pattern-table entry from its bytes. -/
def patOf (e : List Byte) : JigPat :=
  { img := leAt e 0 4, bytes := leAt e 4 4, out := leAt e 8 4, outN := leAt e 12 4, exp := leAt e 16 4, inject := leAt e 20 1 }

/-- The pattern table of a package. -/
def patTable (k : List Byte) : List JigPat := (upto (leAt k 0x12 2)).map (fun i => patOf (slice k (leAt k 0x38 4 + 32 * i) 32))

/-- Bytes of the package that a run uses: the one in the jig store, or the UNFENCE package under test. Those of the factory's default
package are free values. -/
def State.pkgBytes (s : State) (test : Bool) (o n : Nat) : List Byte :=
  if test then slice s.jig.unf o n
  else if s.jig.store.isEmpty then (natsFrom o n).map Config.factoryPkg else slice s.jig.store o n

/-- The pattern of a run, with the limits that every package keeps (R336). -/
def State.runPat (s : State) (r : JigRun) : JigPat :=
  let x := patOf (s.pkgBytes r.unfence (leNat (s.pkgBytes r.unfence 0x38 4) + 32 * r.pattern) 32)
  { x with bytes := min x.bytes 0x40000, outN := min x.outN 0x10000 }

/-- Save the waiting context's state to the save area, sealed (R328, Table 105 step 2). -/
def State.bench (s : State) (p : Nat) : State :=
  let m := s.imageOf p
  let k := s.core p
  (upto 66).foldl (fun s j => s.spdPutTile p (benchSave / 2048 + j) (benchTile m k j) (sealedMeta (benchTile m k j))) s

/-- Steps 2 to 4 of a run (Table 105): the waiting context's state is saved, the pattern's image is copied to the workspace and sealed, and
the pattern starts with s1 = ARG, s2 = v and every other register zero (R172, R330). DESIGN CHOICE: the workspace is UNWRITTEN before; the
data sections go to their scratchpad addresses, which count from the start of the workspace, and the image as a whole lies at its end
(log entry 94). -/
def State.beginJig (s : State) (p : Nat) : State :=
  match (s.core p).jig with
  | none => s
  | some r =>
    let x := s.runPat r
    let im := s.pkgBytes r.unfence x.img x.bytes
    let e := ((coreTable im).head?).getD { core := 0, slot := 0, code := 0, off := 0, arg := 0 }
    let at_ := benchWork + benchRoom - (x.bytes + 2047) / 2048 * 2048
    let words := s.regs.filter (fun w => jigShadow p w.1)
    let fmts := (upto 16).map (fun c => ((s.core p).cube c).lastFmt)
    let uninit := s.rd (R.CORE_STATUS p) F.CORE_STATUS.UNINIT_READS
    let s := if r.gated then s else s.bench p
    let s := s.setSpd p ((s.core p).spd.erase (benchWork / 2048) (benchRoom / 2048))
    let s := s.spdWrite p none at_ im false
    let s := (dataTable im).foldl (fun s d => s.spdWrite p none (benchWork + d.addr) (slice im d.off d.bytes) false) s
    let s := s.onJig p (fun r => { r with
      began := some s.time, words := words, fmts := fmts, uninit := uninit
      code := (codeTable im).map (fun c => (c.va, c.bytes, at_ + c.off)) })
    let va := ((codeTable im)[e.code]?.map CodeSec.va).getD 0 + e.off
    s.putImage p {
      sregs := SMap.putD (SMap.putD [] 1 (BitVec.ofNat 64 e.arg) 0) 2 (BitVec.ofNat 64 r.variant) 0, pc := BitVec.ofNat 64 va }

end Sys2Proof.Machine
end

