-- ==== Sys2Proof/Machine/Dot.lean ====
section
/-!
DEFINITION. The exact dot product of a group and its single rounding into an accumulator (R105 to R115).
-/
namespace Sys2Proof.Machine

/-- What the 16 products of a group are, before they are summed (Table 35). -/
structure ProdSum where
  nan     : Bool := false
  posInf  : Bool := false
  negInf  : Bool := false
  terms   : List Dyadic := []
  allNegZero : Bool := true

/-- Add one product to a group. Products of zeros keep the exclusive-or of their signs (R112). -/
def ProdSum.add (g : ProdSum) (a b : Val) : ProdSum :=
  let inf := fun (g : ProdSum) (n : Bool) => if n then { g with negInf := true, allNegZero := false } else { g with posInf := true, allNegZero := false }
  match a, b with
  | .nan, _ => { g with nan := true }
  | _, .nan => { g with nan := true }
  | .inf s, .inf t => inf g (s != t)
  | .inf s, .fin t m _ => if m = 0 then { g with nan := true } else inf g (s != t)
  | .fin s m _, .inf t => if m = 0 then { g with nan := true } else inf g (s != t)
  | .fin s m e, .fin t n h =>
    { g with terms := g.terms ++ [dyOf (s != t) (m * n) (e + h)]
             allNegZero := g.allNegZero && m * n == 0 && (s != t) }

/-- The products of two rows of a group. -/
def prodSum : List Val → List Val → ProdSum → ProdSum
  | a :: as, b :: bs, g => prodSum as bs (g.add a b)
  | _, _, g => g

/-- The exact sum of an exact group (R108). -/
def exactSum (l : List Dyadic) : Dyadic := l.foldl dyAdd (0, 0)

/-- The integers t[k] of an aligned group whose window keeps `frac` bits below the largest product, whether a truncation lost anything, and
the exponent of the window's last place (R109). A zero product gives none. -/
def alignedParts (frac : Nat) (l : List Dyadic) : List Int × Bool × Int :=
  let nz := l.filter (fun x => x.1 != 0)
  match nz with
  | [] => ([], false, 1)
  | x :: _ =>
    let top := nz.foldl (fun b y => max b (floorLog y.1.natAbs y.2)) (floorLog x.1.natAbs x.2)
    let u := top - frac
    let cut := fun (y : Dyadic) =>
      if u ≤ y.2 then (y.1 * 2 ^ (y.2 - u).toNat, false)
      else (y.1 / (2 ^ (u - y.2).toNat : Nat), y.1 % (2 ^ (u - y.2).toNat : Nat) != 0)
    (nz.map (fun y => (cut y).1), nz.any (fun y => (cut y).2), u)

/-- The sum of an aligned group (R109), its window wrong by `err`. -/
def alignedSum (frac : Nat) (l : List Dyadic) (err : Int) : Dyadic :=
  let (t, st, u) := alignedParts frac l
  if t.isEmpty then (0, 0) else (2 * (t.foldl (· + ·) 0 + err) + (if st then 1 else 0), u - 1)

/-! ### Residues (R322, R323) -/

/-- The residue of an integer: 0 to 6, for a negative one as well (R322). -/
def rho (x : Int) : Nat := (x % 7).toNat

/-- The multiplier check passes (R322): the product's residue is that of the two operands' residues. -/
def multOk (a b product : Int) : Bool := rho product == rho a * rho b % 7

/-- The adder check passes (R322): the window's residue is the sum of its parts' residues. -/
def adderOk (w : Int) (parts : List Nat) : Bool := rho w == parts.foldl (· + ·) 0 % 7

/-- The exponent of the unit of an exact format (Table 33). -/
def unitExp : Fmt → Int
  | .e4m3 => -9 | .e5m2 => -16 | .e2m3 => -3 | .e3m2 => -4 | .e2m1 => -1 | .bell4 => -5
  | .fp32 => 0 | .bf16 => 0 | .fp16 => 0 | .int8 => 0 | .int32 => 0 | .e8m0 => 0

/-- The integer significand of an element in an exact format (R107); that of a wide format is its signed mantissa. -/
def sigOf (f : Fmt) (exact : Bool) : Val → Int
  | .fin s m e => (dyOf s (if exact then m * 2 ^ (e - unitExp f).toNat else m) 0).1
  | .nan => 0
  | .inf _ => 0

/-- The error at a place, 0 where there is none. -/
def errAt (errs : List (ErrSite × Int)) (x : ErrSite) : Int := (errs.filter (fun e => e.1 == x)).foldl (fun n e => n + e.2) 0

/-- The error of product `k`. -/
def prodErr (errs : List (ErrSite × Int)) (k : Nat) : Int := errAt errs (.product (Fin.ofNat 16 k))

/-- Window bits below the largest product of an aligned group; none for an exact group. -/
def windowBits (f : Fmt) : Option Nat :=
  match f with
  | .bf16 | .fp16 => some 40
  | .fp32 => some 64
  | .e4m3 | .e5m2 | .e2m3 | .e3m2 | .e2m1 | .bell4 | .int8 | .int32 | .e8m0 => none

/-- The generator step of R114. -/
def xs (x : BitVec 32) : BitVec 32 :=
  let x := x ^^^ (x <<< 13)
  let x := x ^^^ (x >>> 17)
  x ^^^ (x <<< 5)

/-- The word of an SR update (R114): seed, counter, accumulator index and cube. -/
def srWord (seed ctr : BitVec 32) (i c : Nat) : BitVec 32 :=
  xs (xs (seed ^^^ (ctr * 0x9E3779B9) ^^^ (BitVec.ofNat 32 i * 0x85EBCA6B) ^^^ (BitVec.ofNat 32 c * 0xC2B2AE35)))

/-- The single rounding of R111 and R113 of a value that is not zero: `r` is the generator word under SR, none under RNE. -/
def roundAcc (v : Dyadic) (r : Option (BitVec 32)) : Nat :=
  let neg := decide (v.1 < 0)
  let m := v.1.natAbs
  let u := max (floorLog m v.2) (-126) - 23
  let q := match r with
    | none => roundUnit m v.2 u
    | some r =>
      let (q, rem, d) := splitAt m v.2 u
      if 2 ^ 32 ≤ rem * 2 ^ 32 / d + r.toNat then q + 1 else q
  min (packMag fp32Info q u) 0x7F800000 + (if neg then 0x80000000 else 0)

/-- Whether a residue check of a group with errors fails (R322, R323): that of a multiplier, or that of a window of the exact adder. `fa` and
`fb` are the formats of the two rows. -/
def groupFails (fa fb : Fmt) (as bs : List Val) (errs : List (ErrSite × Int)) : Bool :=
  let win := windowBits fa
  let sig := (as.map (sigOf fa win.isNone)).zip (bs.map (sigOf fb win.isNone))
  let prods := (sig.zip (upto 16)).map (fun x => x.1.1 * x.1.2 + prodErr errs x.2)
  let mult := (sig.zip prods).all (fun x => multOk x.1.1 x.1.2 x.2)
  let total := fun (l : List Int) => l.foldl (· + ·) 0
  let adder := match win with
    | some f =>
      let exps := (as.zip bs).map (fun x => match x with | (.fin _ _ e, .fin _ _ h) => e + h | _ => 0)
      let parts := (alignedParts f (prods.zip exps)).1
      adderOk (total parts + errAt errs .window) (parts.map rho)
    | none =>
      if fa = .e5m2 ∧ fb = .e5m2 then
        let hi := prods.map (fun p => p / 2 ^ 32)
        let lo := prods.map (fun p => p % 2 ^ 32)
        adderOk (total hi + errAt errs .windowHi) (hi.map rho) && adderOk (total lo + errAt errs .window) (lo.map rho)
      else adderOk (total prods + errAt errs .window) (sig.map (fun x => rho x.1 * rho x.2 % 7))
  !errs.isEmpty && !(mult && adder)

/-- The products of a group with their errors: those of an exact group in its unit `u`, those of an aligned one in the product's own last
place. -/
def hitTerms (win : Option Nat) (u : Int) (errs : List (ErrSite × Int)) (l : List Dyadic) : List Dyadic :=
  (l.zip (upto 16)).map (fun x => match win with
    | none => dyAdd x.1 (prodErr errs x.2, u)
    | some _ => (x.1.1 + prodErr errs x.2, x.1.2))

/-- The value of a group (R108, R109): the products and windows carry their errors. -/
def groupSum (win : Option Nat) (u : Int) (errs : List (ErrSite × Int)) (l : List Dyadic) : Dyadic :=
  if errs.isEmpty then (match win with | none => exactSum l | some f => alignedSum f l 0) else
  let l := hitTerms win u errs l
  match win with
  | none => dyAdd (exactSum l) (errAt errs .window + errAt errs .windowHi * 2 ^ 32, u)
  | some f => alignedSum f l (errAt errs .window)

/-- One group update of an accumulator (R105, R110 to R113). `nanScale`: a block scale covering the group is 0xFF. `sh` is the sum
of the two scale exponents and units beyond those of the decoded elements, `u` the exponent of the unit of a product. -/
def groupUpdate (acc : Nat) (as bs : List Val) (nanScale : Bool) (sh : Int) (win : Option Nat) (r : Option (BitVec 32)) (u : Int)
    (errs : List (ErrSite × Int)) : Nat :=
  let g := prodSum as bs {}
  match decodeElem .fp32 acc with
  | .nan => 0x7FC00000
  | av =>
    if nanScale || g.nan || (g.posInf && g.negInf) then 0x7FC00000
    else match av with
    | .inf n =>
      if (n && g.posInf) || (!n && g.negInf) then 0x7FC00000 else acc
    | .fin n m e =>
      if g.posInf then 0x7F800000 else if g.negInf then 0xFF800000 else
      let s := groupSum win u errs g.terms
      let v := dyAdd (dyOf n m e) (s.1, s.2 + sh)
      if v.1 = 0 then (if n && m == 0 && g.allNegZero then 0x80000000 else 0) else roundAcc v r
    | .nan => 0x7FC00000

/-- K of a step (Table 20). -/
def stepK (f : Fmt) : Nat :=
  match f with
  | .e2m1 | .bell4 => 32
  | .fp32 | .bf16 | .fp16 | .e4m3 | .e5m2 | .e2m3 | .e3m2 | .int8 | .int32 | .e8m0 => 16

/-- Bytes of an operand block (Table 20). -/
def blockBytes (f : Fmt) : Nat := 16 * stepK f * fmtBits f / 8

/-- What one step of a cube needs: the streamed and the stationary block, the scale groups (none for an unscaled operand). -/
structure StepIn where
  fa : Fmt
  fb : Fmt
  a  : Nat            -- streamed block, little-endian
  b  : Nat            -- stationary block
  sa : Option Nat     -- A-scale entry of the running sum
  sb : Option Nat     -- B-scale storage
  s32 : Bool

/-- Element (r, k) of a streamed block (R88). -/
def StepIn.elemA (x : StepIn) (r k : Nat) : Val :=
  decodeElem x.fa (bits x.a ((r * stepK x.fa + k) * fmtBits x.fa) (fmtBits x.fa))

/-- Element (k, n) of a stationary block (R88). -/
def StepIn.elemB (x : StepIn) (k n : Nat) : Val :=
  decodeElem x.fb (bits x.b ((k * 16 + n) * fmtBits x.fb) (fmtBits x.fb))

/-- A scale byte: row or column `i` of K-subblock `j` (R92). -/
def scaleAt (g j i : Nat) : Nat := bits g (8 * (j * 16 + i)) 8

/-- The extra exponent of a scaled operand, and whether its scale is NaN (R86, R90). -/
def scaleShift (f : Fmt) (g : Option Nat) (j i : Nat) : Int × Bool :=
  match g with
  | none => (0, false)
  | some g =>
    let x := scaleAt g j i
    ((x : Int) - 127 - (if f = .int8 then 6 else 0), x == 255)

/-- The rows of the two blocks that group `j` of accumulator `i` multiplies. -/
def StepIn.rows (x : StepIn) (i j : Nat) : List Val × List Val :=
  let ks := natsFrom (16 * j) 16
  (ks.map (fun k => x.elemA (i / 16) k), ks.map (fun k => x.elemB k (i % 16)))

/-- Update accumulator `i` with group `j` of a step. -/
def StepIn.update (x : StepIn) (acc : Nat) (i j : Nat) (r : Option (BitVec 32)) (errs : List (ErrSite × Int)) : Nat :=
  let jj := if stepK x.fa = 32 ∧ !x.s32 then j else 0
  let (ea, na) := scaleShift x.fa x.sa jj (i / 16)
  let (eb, nb) := scaleShift x.fb x.sb jj (i % 16)
  let (as, bs) := x.rows i j
  groupUpdate acc as bs (na || nb) (ea + eb) (windowBits x.fa) r (unitExp x.fa + unitExp x.fb) errs

/-- The errors of group `j` of accumulator `i`. -/
def errsOf (l : List CubeErr) (i j : Nat) : List (ErrSite × Int) :=
  (l.filter (fun e => e.acc.val == i && e.grp.val == j)).map (fun e => (e.site, e.err))

/-- Whether a residue check of a step with errors fails (R72, R322). -/
def StepIn.fails (x : StepIn) (l : List CubeErr) : Bool :=
  l.any (fun e =>
    let (as, bs) := x.rows e.acc.val e.grp.val
    decide (16 * e.grp.val < stepK x.fa) && groupFails x.fa x.fb as bs (errsOf l e.acc.val e.grp.val))

/-- Accumulator `i` of a cube's accumulators. -/
def accAt (v : BitVec 8192) (i : Nat) : Nat := bits v.toNat (32 * i) 32

/-- Accumulators from the list of their values. -/
def accOf (l : List Nat) : BitVec 8192 := BitVec.ofNat 8192 (l.foldr (fun x n => n * 2 ^ 32 + x) 0)

/-- All 256 accumulators updated by group `j`; under SR each draws its own word from the cube's counter (R114, R115). -/
def StepIn.group (x : StepIn) (acc : BitVec 8192) (j : Nat) (sr : Option (BitVec 32 × BitVec 32 × Nat)) (errs : List CubeErr) :
    BitVec 8192 :=
  accOf ((upto 256).map (fun i =>
    x.update (accAt acc i) i j (sr.map (fun (q : BitVec 32 × BitVec 32 × Nat) => srWord q.1 q.2.1 i q.2.2)) (errsOf errs i j)))

end Sys2Proof.Machine
end

