-- ==== Sys2Proof/Machine/VecMath.lean ====
section
/-!
DEFINITION. Scalar arithmetic of a vector lane (R127 to R131): floating-point operations on codes, comparisons, MAX and MIN, and
the exactly rounded functions RCP, RSQ, EXP2 and LOG2.
-/
namespace Sys2Proof.Machine

/-- Round a dyadic number into a wide floating format (R127); a format without one gives 0. -/
def roundTo (f : Fmt) (x : Dyadic) (zneg : Bool) : Nat :=
  match floatInfo f with
  | some i => roundFp i x zneg
  | none => 0

/-- Infinity of a sign. -/
def infOf (f : Fmt) (neg : Bool) : Nat := infElem f neg

/-- a + b (R127). -/
def fpAdd (f : Fmt) (a b : Val) : Nat :=
  match a, b with
  | .nan, _ => canonNaN f
  | _, .nan => canonNaN f
  | .inf s, .inf t => if s = t then infOf f s else canonNaN f
  | .inf s, _ => infOf f s
  | _, .inf t => infOf f t
  | .fin s m e, .fin t n g => roundTo f (dyAdd (dyOf s m e) (dyOf t n g)) (s && t)

/-- The negative of a value. -/
def negVal : Val → Val
  | .nan => .nan
  | .inf s => .inf !s
  | .fin s m e => .fin (!s) m e

/-- a − b. -/
def fpSub (f : Fmt) (a b : Val) : Nat := fpAdd f a (negVal b)

/-- a × b. -/
def fpMul (f : Fmt) (a b : Val) : Nat :=
  match a, b with
  | .nan, _ => canonNaN f
  | _, .nan => canonNaN f
  | .inf s, .inf t => infOf f (s != t)
  | .inf s, .fin t m _ => if m = 0 then canonNaN f else infOf f (s != t)
  | .fin s m _, .inf t => if m = 0 then canonNaN f else infOf f (s != t)
  | .fin s m e, .fin t n g => roundTo f (dyOf (s != t) (m * n) (e + g)) (s != t)

/-- a × b + c with a single rounding. -/
def fpFma (f : Fmt) (a b c : Val) : Nat :=
  let prod : Val := match a, b with
    | .nan, _ => .nan
    | _, .nan => .nan
    | .inf s, .inf t => .inf (s != t)
    | .inf s, .fin t m _ => if m = 0 then .nan else .inf (s != t)
    | .fin s m _, .inf t => if m = 0 then .nan else .inf (s != t)
    | .fin s m e, .fin t n g => .fin (s != t) (m * n) (e + g)
  fpAdd f prod c

/-- a + b with the exact sum of the significands wrong by `err` (R323). -/
def fpAddErr (f : Fmt) (err : Int) (a b : Val) : Nat :=
  match a, b with
  | .fin s m e, .fin t n g => let v := dyAdd (dyOf s m e) (dyOf t n g); roundTo f (v.1 + err, v.2) false
  | a, b => fpAdd f a b

/-- a × b with the product of the significands wrong by `err`. -/
def fpMulErr (f : Fmt) (err : Int) (a b : Val) : Nat :=
  match a, b with
  | .fin s m e, .fin t n g => roundTo f ((dyOf (s != t) (m * n) 0).1 + err, e + g) false
  | a, b => fpMul f a b

/-- a × b + c with the exact sum wrong by `err`. -/
def fpFmaErr (f : Fmt) (err : Int) (a b c : Val) : Nat :=
  match a, b with
  | .fin s m e, .fin t n g => fpAddErr f err (.fin (s != t) (m * n) (e + g)) c
  | a, b => fpFma f a b c

/-- Order of two values: whether a < b; false with a NaN (R130). -/
def valLt (a b : Val) : Bool :=
  match a, b with
  | .nan, _ => false
  | _, .nan => false
  | .inf s, .inf t => s && !t
  | .inf s, .fin _ _ _ => s
  | .fin _ _ _, .inf t => !t
  | .fin s m e, .fin t n g => dyLt (dyOf s m e) (dyOf t n g)

/-- Whether two values are equal; zeros of either sign are. -/
def valEq (a b : Val) : Bool :=
  match a, b with
  | .nan, _ => false
  | _, .nan => false
  | a, b => !valLt a b && !valLt b a

/-- Whether a relation holds (R130). -/
def relHolds (r : Rel) (a b : Val) : Bool :=
  match r with
  | .eq => valEq a b
  | .ne => !valEq a b
  | .lt => valLt a b
  | .le => valLt a b || valEq a b

/-- The sign of a value. -/
def negOf : Val → Bool
  | .nan => false
  | .inf s => s
  | .fin s _ _ => s

/-- MAX or MIN of two codes under Table 30: the codes are those after their modifiers. -/
def fpExt (f : Fmt) (max : Bool) (a b : Nat) (va vb : Val) : Nat :=
  match va, vb with
  | .nan, .nan => canonNaN f
  | .nan, _ => b
  | _, .nan => a
  | va, vb =>
    if valEq va vb then (if negOf va = max then b else a)
    else if valLt va vb = max then b else a

/-- The ABS modifier: the magnitude (R130). -/
def absCode (f : Fmt) (m : VMod) (c : Nat) : Nat := if m.abs then c % 2 ^ (fmtBits f - 1) else c

/-- The value of a modified operand: FIN makes an infinity a NaN. -/
def modVal (f : Fmt) (m : VMod) (c : Nat) : Val :=
  match decodeElem f c with
  | .inf s => if m.fin then .nan else .inf s
  | v => v

/-- The class word of an element (Table 41). -/
def classWord (f : Fmt) (c : Nat) : Nat :=
  let neg := c >>> (fmtBits f - 1) % 2
  let mag := c % 2 ^ (fmtBits f - 1)
  let mb := match floatInfo f with | some i => i.mb | none => 0
  neg * 16 + (match decodeElem f c with
    | .nan => 1
    | .inf _ => 2
    | .fin _ m _ => if m = 0 then 4 else if mag < 2 ^ mb then 8 else 32)

/-! ### Exactly rounded functions (R129) -/

/-- The integer square root, bit by bit. -/
def isqrtFrom (n : Nat) : Nat → Nat → Nat
  | 0, r => r
  | i + 1, r => isqrtFrom n i (if (r + 2 ^ i) * (r + 2 ^ i) ≤ n then r + 2 ^ i else r)

/-- RCP. -/
def rcpCode (c : Nat) : Nat :=
  match decodeElem .fp32 c with
  | .nan => 0x7FC00000
  | .inf s => if s then 0x80000000 else 0
  | .fin s m e =>
    if m = 0 then infOf .fp32 s else
    let k := Nat.log2 m + 64
    let q := 2 ^ k / m
    roundFp fp32Info (dyOf s (2 * q + (if q * m = 2 ^ k then 0 else 1)) (-e - k - 1)) s

/-- RSQ. -/
def rsqCode (c : Nat) : Nat :=
  match decodeElem .fp32 c with
  | .nan => 0x7FC00000
  | .inf s => if s then 0x7FC00000 else 0
  | .fin s m e =>
    if m = 0 then infOf .fp32 s
    else if s then 0x7FC00000
    else
      let n := if e % 2 = 0 then m else 2 * m
      let h := (if e % 2 = 0 then e else e - 1) / 2
      let r := isqrtFrom (2 ^ 160 / n) 81 0
      roundFp fp32Info (((2 * r + (if r * r * n = 2 ^ 160 then 0 else 1) : Nat) : Int), -h - 81) false

/-- Fractional bits of the functions' working numbers. -/
def fxBits : Nat := 200

/-- `2 × Σ w^(2k+1) ÷ (2k+1)`, that is `ln ((1 + w) ÷ (1 − w))`, of a working number `w`. -/
def atanhSum (w w2 : Nat) : Nat → Nat → Nat → Nat
  | 0, _, _ => 0
  | f + 1, k, t => 2 * (t / (2 * k + 1)) + atanhSum w w2 f (k + 1) (t * w2 / 2 ^ fxBits)

/-- `ln ((1 + w) ÷ (1 − w))` of a working number. -/
def lnRatio (w : Nat) : Nat := atanhSum w (w * w / 2 ^ fxBits) 80 0 w

/-- `ln 2`. -/
def ln2Fx : Nat := lnRatio (2 ^ fxBits / 3)

/-- The exponential series of a working number, from term `k` on. -/
def expSum (y : Nat) : Nat → Nat → Nat → Nat
  | 0, _, _ => 0
  | f + 1, k, t => t + expSum y f (k + 1) (t * y / 2 ^ fxBits / (k + 1))

/-- `2^f` of a working number `f` below 1. -/
def exp2Fx (f : Nat) : Nat := expSum (f * ln2Fx / 2 ^ fxBits) 80 0 (2 ^ fxBits)

/-- Round `v × 2^e`, known within `2^12` units, where both ends of the interval round alike; an undecided case is a free value. -/
def zivRound (c : Nat) (v : Int) (e : Int) : Nat :=
  let lo := roundFp fp32Info (v - 4096, e) false
  let hi := roundFp fp32Info (v + 4096, e) false
  if lo = hi then lo else (Config.undecided (BitVec.ofNat 32 c)).toNat

/-- EXP2. -/
def exp2Code (c : Nat) : Nat :=
  match decodeElem .fp32 c with
  | .nan => 0x7FC00000
  | .inf s => if s then 0 else 0x7F800000
  | .fin s m e =>
    if m = 0 then 0x3F800000 else
    -- the argument in units of 2^-200, exact: e is at least -149
    let x : Int := if 10 ≤ floorLog m e then 2 ^ 210 else (m : Int) * 2 ^ (e + fxBits).toNat
    let x := if s then -x else x
    let n := x / (2 ^ fxBits : Nat)
    let f := (x % (2 ^ fxBits : Nat)).toNat
    if f = 0 then roundFp fp32Info (1, n) false
    else if n < -152 then 0
    else if 128 ≤ n then 0x7F800000
    else zivRound c (exp2Fx f) (n - fxBits)

/-- LOG2. -/
def log2Code (c : Nat) : Nat :=
  match decodeElem .fp32 c with
  | .nan => 0x7FC00000
  | .inf s => if s then 0x7FC00000 else 0x7F800000
  | .fin s m e =>
    if m = 0 then 0xFF800000
    else if s then 0x7FC00000
    else
      let k := Nat.log2 m
      let n : Int := e + k
      if m = 2 ^ k then roundFp fp32Info (n, 0) false
      else
        -- z = m / 2^k in [1, 2) and w = (z - 1) / (z + 1)
        let w := (m - 2 ^ k) * 2 ^ fxBits / (m + 2 ^ k)
        zivRound c (n * 2 ^ fxBits + (lnRatio w * 2 ^ fxBits / ln2Fx : Nat)) (-fxBits)

end Sys2Proof.Machine
end

