-- ==== Sys2Proof/Machine/Vec.lean ====
section
/-!
DEFINITION. VEC instructions (R122 to R135, R141, R157, R158). A vector instruction takes its whole effect when it commits; the
vector queue's occupancy and the latencies of Table 40 are timing.
-/
namespace Sys2Proof.Machine

/-- A vector register. -/
def State.vreg (s : State) (p : Nat) (r : Nat) : VWord := SMap.lookD (s.core p).vregs r 0

/-- Write a vector register. -/
def State.setVreg (s : State) (p r : Nat) (v : VWord) : State :=
  s.setCore p { s.core p with vregs := SMap.putD (s.core p).vregs r v 0 }

/-- The poison bit of a vector register (R123). -/
def State.vpois (s : State) (p r : Nat) : Bool := (s.word (R.VEC_POISON p)).getLsbD r

/-- Set or clear the poison bit of a vector register. -/
def State.setVpois (s : State) (p r : Nat) (b : Bool) : State :=
  s.wr (R.VEC_POISON p) ⟨r, 1⟩ (if b then 1 else 0)

/-- Element `i`, `w` bits wide, of a register (R122). -/
def elemAt (v : VWord) (w i : Nat) : Nat := bits v.toNat (w * i) w

/-- A register from the list of its elements, each `w` bits wide. -/
def ofElems (w : Nat) (l : List Nat) : VWord := BitVec.ofNat 8192 (l.foldr (fun x n => n * 2 ^ w + x % 2 ^ w) 0)

/-- Apply a function to the matching elements of two registers. -/
def zipElems (w : Nat) (f : Nat → Nat → Nat) (a b : VWord) : VWord :=
  ofElems w ((upto (8192 / w)).map (fun i => f (elemAt a w i) (elemAt b w i)))

/-- Apply a function to the elements of a register. -/
def mapElems (w : Nat) (f : Nat → Nat) (a : VWord) : VWord := ofElems w ((upto (8192 / w)).map (fun i => f (elemAt a w i)))

/-- Count a completed vector instruction. -/
def State.vecDone (s : State) (p : Nat) : State := (s.count (R.VEC_PERF p) F.VEC_PERF.INSNS 1).commit p

/-- A register-file parity error is found (R123, R326). -/
def State.parityFail (s : State) (p c : Nat) : State :=
  ((s.wr (R.VEC_STATUS p) F.VEC_STATUS.PARITY_FAIL 1).bump (R.VEC_STATUS p) F.VEC_STATUS.PARITY_FAILS 1).storageFail
    p (uVec p) (some c) 0

/-- A residue check of the vector engine fails (R141, R324). -/
def State.vecResidue (s : State) (p : Nat) (c : Option Nat) : State :=
  ((s.wr (R.VEC_STATUS p) F.VEC_STATUS.RESIDUE_FAIL 1).bump (R.VEC_STATUS p) F.VEC_STATUS.RESIDUE_FAILS 1).residueFail
    p (uVec p) c

/-- Whether the residue check detects the error of a vector instruction (R323). -/
def errFound (f : VFault) : Bool := rho f.err != 0

/-- A register with element `i`, `w` bits wide, replaced. -/
def putElem (v : VWord) (w i x : Nat) : VWord := BitVec.ofNat 8192 (setBits v.toNat (w * i) w x)

/-- The result of an instruction with the error of its checked product or sum in it. Where the erroneous value of the element is not
stated (`bad` gives none) it is a free value. -/
def State.hit (s : State) (flt : VFault) (w : Nat) (bad : Int → Nat → Option Nat) (v : VWord) : State × VWord :=
  if flt.err = 0 then (s, v) else
  let i := flt.lane.toNat % (8192 / w)
  match bad flt.err i with
  | some x => (s, putElem v w i x)
  | none => (s.draw, putElem v w i (Config.freeWord s.free).toNat)

/-- Whether the context that core `p` runs is being reset (R142). -/
def State.beingReset (s : State) (p : Nat) : Bool :=
  s.coreState p == csRunning && s.clocked p && (s.resident p (s.activeSlot p)).any (fun c => (s.ctx c).fenced)

/-- A vector instruction that writes every bit of `rd` from the sources `src` (R123, R141). `checked`: it carries the residue check; `w` and
`bad` say what an error makes of an element. A check that fails while the context is being reset counts for the engine, with no
context (R142). -/
def State.vecOp (s : State) (p : CoreId) (legal : Bool) (rd : Nat) (src : List Nat) (checked : Bool) (flt : VFault)
    (v : State → VWord) (w : Nat := 32) (bad : State → Int → Nat → Option Nat := fun _ _ _ => none) : State :=
  let res := checked && errFound flt
  if res && legal && s.beingReset p then s.vecResidue p none else
  s.issue p legal 8 (fun s c =>
    let po := src.any (s.vpois p) || flt.parity || res
    let (s, x) := if checked then s.hit flt w (bad s) (v s) else (s, v s)
    let s := (s.setVreg p rd x).setVpois p rd po
    let s := s.vecDone p
    let s := if flt.parity then s.parityFail p c else s
    if res then s.vecResidue p (some c) else s)

/-- An elementwise floating-point operation of two sources with modifiers. -/
def fpZip (f : Fmt) (g : Fmt → Val → Val → Nat) (ma mb : VMod) (a b : VWord) : VWord :=
  zipElems (fmtBits f) (fun x y => g f (modVal f ma (absCode f ma x)) (modVal f mb (absCode f mb y))) a b

/-- The erroneous element of an operation of two sources with modifiers. -/
def fpBad (f : Fmt) (g : Fmt → Int → Val → Val → Nat) (ma mb : VMod) (a b : VWord) (err : Int) (i : Nat) : Option Nat :=
  let val := fun (m : VMod) (v : VWord) => modVal f m (absCode f m (elemAt v (fmtBits f) i))
  some (g f err (val ma a) (val mb b))

/-- VEC.ADD (R127). -/
def execVecAdd (p : CoreId) (fmt : Fmt) (rd ra rb : VReg) (ma mb : VMod) (flt : VFault) (s : State) :
    Host.Outcome State Fault Refusal :=
  .next (s.vecOp p (Instr.vecAdd p fmt rd ra rb ma mb flt).wellFormed rd [ra, rb] true flt
    (fun s => fpZip fmt fpAdd ma mb (s.vreg p ra) (s.vreg p rb)) (fmtBits fmt)
    (fun s => fpBad fmt fpAddErr ma mb (s.vreg p ra) (s.vreg p rb)))

/-- VEC.SUB (R127). -/
def execVecSub (p : CoreId) (fmt : Fmt) (rd ra rb : VReg) (ma mb : VMod) (flt : VFault) (s : State) :
    Host.Outcome State Fault Refusal :=
  .next (s.vecOp p (Instr.vecSub p fmt rd ra rb ma mb flt).wellFormed rd [ra, rb] true flt
    (fun s => fpZip fmt fpSub ma mb (s.vreg p ra) (s.vreg p rb)) (fmtBits fmt)
    (fun s => fpBad fmt (fun f e a b => fpAddErr f e a (negVal b)) ma mb (s.vreg p ra) (s.vreg p rb)))

/-- VEC.MUL (R127). -/
def execVecMul (p : CoreId) (fmt : Fmt) (rd ra rb : VReg) (ma mb : VMod) (flt : VFault) (s : State) :
    Host.Outcome State Fault Refusal :=
  .next (s.vecOp p (Instr.vecMul p fmt rd ra rb ma mb flt).wellFormed rd [ra, rb] true flt
    (fun s => fpZip fmt fpMul ma mb (s.vreg p ra) (s.vreg p rb)) (fmtBits fmt)
    (fun s => fpBad fmt fpMulErr ma mb (s.vreg p ra) (s.vreg p rb)))

/-- VEC.FMA: a × b + c with a single rounding (R127). -/
def execVecFma (p : CoreId) (fmt : Fmt) (rd ra rb rc : VReg) (ma mb mc : VMod) (flt : VFault) (s : State) :
    Host.Outcome State Fault Refusal :=
  .next (s.vecOp p (Instr.vecFma p fmt rd ra rb rc ma mb mc flt).wellFormed rd [ra, rb, rc] true flt
    (fun s =>
      let w := fmtBits fmt
      let val := fun (m : VMod) (r : VReg) (i : Nat) => modVal fmt m (absCode fmt m (elemAt (s.vreg p r) w i))
      ofElems w ((upto (8192 / w)).map (fun i => fpFma fmt (val ma ra i) (val mb rb i) (val mc rc i)))) (fmtBits fmt)
    (fun s err i =>
      let val := fun (m : VMod) (r : VReg) => modVal fmt m (absCode fmt m (elemAt (s.vreg p r) (fmtBits fmt) i))
      some (fpFmaErr fmt err (val ma ra) (val mb rb) (val mc rc))))

/-- MAX or MIN of two registers (R98, R130). -/
def extZip (f : Fmt) (max : Bool) (ma mb : VMod) (a b : VWord) : VWord :=
  zipElems (fmtBits f) (fun x y =>
    let x := absCode f ma x
    let y := absCode f mb y
    fpExt f max x y (modVal f ma x) (modVal f mb y)) a b

/-- VEC.MAX. -/
def execVecMax (p : CoreId) (fmt : Fmt) (rd ra rb : VReg) (ma mb : VMod) (flt : VFault) (s : State) :
    Host.Outcome State Fault Refusal :=
  .next (s.vecOp p (Instr.vecMax p fmt rd ra rb ma mb flt).wellFormed rd [ra, rb] false flt
    (fun s => extZip fmt true ma mb (s.vreg p ra) (s.vreg p rb)))

/-- VEC.MIN. -/
def execVecMin (p : CoreId) (fmt : Fmt) (rd ra rb : VReg) (ma mb : VMod) (flt : VFault) (s : State) :
    Host.Outcome State Fault Refusal :=
  .next (s.vecOp p (Instr.vecMin p fmt rd ra rb ma mb flt).wellFormed rd [ra, rb] false flt
    (fun s => extZip fmt false ma mb (s.vreg p ra) (s.vreg p rb)))

/-- An erroneous integer element: the exact result and the error, modulo 2^32. -/
def intBad (g : Int → Int → Int) (a b : VWord) (err : Int) (i : Nat) : Option Nat :=
  some (wrap 32 (g (elemAt a 32 i) (elemAt b 32 i) + err))

/-- VEC.IADD: modulo 2^32 (R128). -/
def execVecIadd (p : CoreId) (rd ra rb : VReg) (flt : VFault) (s : State) : Host.Outcome State Fault Refusal :=
  .next (s.vecOp p true rd [ra, rb] true flt (fun s => zipElems 32 (fun x y => x + y) (s.vreg p ra) (s.vreg p rb)) 32
    (fun s => intBad (· + ·) (s.vreg p ra) (s.vreg p rb)))

/-- VEC.ISUB: modulo 2^32. -/
def execVecIsub (p : CoreId) (rd ra rb : VReg) (flt : VFault) (s : State) : Host.Outcome State Fault Refusal :=
  .next (s.vecOp p true rd [ra, rb] true flt
    (fun s => zipElems 32 (fun x y => x + 2 ^ 32 - y) (s.vreg p ra) (s.vreg p rb)) 32
    (fun s => intBad (· - ·) (s.vreg p ra) (s.vreg p rb)))

/-- VEC.IMUL: the low 32 bits. -/
def execVecImul (p : CoreId) (rd ra rb : VReg) (flt : VFault) (s : State) : Host.Outcome State Fault Refusal :=
  .next (s.vecOp p true rd [ra, rb] true flt (fun s => zipElems 32 (fun x y => x * y) (s.vreg p ra) (s.vreg p rb)) 32
    (fun s => intBad (· * ·) (s.vreg p ra) (s.vreg p rb)))

/-- VEC.AND: raw lane bits. -/
def execVecAnd (p : CoreId) (rd ra rb : VReg) (flt : VFault) (s : State) : Host.Outcome State Fault Refusal :=
  .next (s.vecOp p true rd [ra, rb] false flt (fun s => s.vreg p ra &&& s.vreg p rb))

/-- VEC.OR. -/
def execVecOr (p : CoreId) (rd ra rb : VReg) (flt : VFault) (s : State) : Host.Outcome State Fault Refusal :=
  .next (s.vecOp p true rd [ra, rb] false flt (fun s => s.vreg p ra ||| s.vreg p rb))

/-- VEC.XOR. -/
def execVecXor (p : CoreId) (rd ra rb : VReg) (flt : VFault) (s : State) : Host.Outcome State Fault Refusal :=
  .next (s.vecOp p true rd [ra, rb] false flt (fun s => s.vreg p ra ^^^ s.vreg p rb))

/-- VEC.NOT. -/
def execVecNot (p : CoreId) (rd ra : VReg) (flt : VFault) (s : State) : Host.Outcome State Fault Refusal :=
  .next (s.vecOp p true rd [ra] false flt (fun s => ~~~ s.vreg p ra))

/-- VEC.SHL: the count is bits [4:0] of the matching lane (R128). -/
def execVecShl (p : CoreId) (rd ra rb : VReg) (flt : VFault) (s : State) : Host.Outcome State Fault Refusal :=
  .next (s.vecOp p true rd [ra, rb] false flt
    (fun s => zipElems 32 (fun x y => x * 2 ^ (y % 32)) (s.vreg p ra) (s.vreg p rb)))

/-- VEC.SHR. -/
def execVecShr (p : CoreId) (rd ra rb : VReg) (flt : VFault) (s : State) : Host.Outcome State Fault Refusal :=
  .next (s.vecOp p true rd [ra, rb] false flt
    (fun s => zipElems 32 (fun x y => x / 2 ^ (y % 32)) (s.vreg p ra) (s.vreg p rb)))

/-- VEC.SAR. -/
def execVecSar (p : CoreId) (rd ra rb : VReg) (flt : VFault) (s : State) : Host.Outcome State Fault Refusal :=
  .next (s.vecOp p true rd [ra, rb] false flt
    (fun s => zipElems 32 (fun x y => wrap 32 (sgn 32 x / (2 ^ (y % 32) : Nat))) (s.vreg p ra) (s.vreg p rb)))

/-- VEC.CMP: lane masks, or 16-bit masks for the 16-bit formats (R130). -/
def execVecCmp (p : CoreId) (fmt : Fmt) (rel : Rel) (rd ra rb : VReg) (flt : VFault) (s : State) :
    Host.Outcome State Fault Refusal :=
  .next (s.vecOp p (Instr.vecCmp p fmt rel rd ra rb flt).wellFormed rd [ra, rb] false flt
    (fun s =>
      let w := fmtBits fmt
      zipElems w (fun x y => if relHolds rel (decodeElem fmt x) (decodeElem fmt y) then 2 ^ w - 1 else 0)
        (s.vreg p ra) (s.vreg p rb)))

/-- VEC.SEL: the first source where the mask lane is not zero (R130). -/
def execVecSel (p : CoreId) (rd ra rb rc : VReg) (flt : VFault) (s : State) : Host.Outcome State Fault Refusal :=
  .next (s.vecOp p true rd [ra, rb, rc] false flt
    (fun s => ofElems 32 ((upto 256).map (fun i =>
      if elemAt (s.vreg p rc) 32 i ≠ 0 then elemAt (s.vreg p ra) 32 i else elemAt (s.vreg p rb) 32 i))))

/-- VEC.CLASS: a class word for each element of the slice (R131). -/
def execVecClass (p : CoreId) (fmt : Fmt) (slice : Fin 2) (rd ra : VReg) (flt : VFault) (s : State) :
    Host.Outcome State Fault Refusal :=
  .next (s.vecOp p (Instr.vecClass p fmt slice rd ra flt).wellFormed rd [ra] false flt
    (fun s => ofElems 32 ((upto 256).map (fun i => classWord fmt (elemAt (s.vreg p ra) (fmtBits fmt) (256 * slice.val + i))))))

/-- VEC.RCP (R129). -/
def execVecRcp (p : CoreId) (rd ra : VReg) (flt : VFault) (s : State) : Host.Outcome State Fault Refusal :=
  .next (s.vecOp p true rd [ra] true flt (fun s => mapElems 32 rcpCode (s.vreg p ra)))

/-- VEC.RSQ. -/
def execVecRsq (p : CoreId) (rd ra : VReg) (flt : VFault) (s : State) : Host.Outcome State Fault Refusal :=
  .next (s.vecOp p true rd [ra] true flt (fun s => mapElems 32 rsqCode (s.vreg p ra)))

/-- VEC.EXP2. -/
def execVecExp2 (p : CoreId) (rd ra : VReg) (flt : VFault) (s : State) : Host.Outcome State Fault Refusal :=
  .next (s.vecOp p true rd [ra] true flt (fun s => mapElems 32 exp2Code (s.vreg p ra)))

/-- VEC.LOG2. -/
def execVecLog2 (p : CoreId) (rd ra : VReg) (flt : VFault) (s : State) : Host.Outcome State Fault Refusal :=
  .next (s.vecOp p true rd [ra] true flt (fun s => mapElems 32 log2Code (s.vreg p ra)))

/-- One level of a pairwise tree (R132). -/
def pairUp (f : Nat → Nat → Nat) : List Nat → List Nat
  | a :: b :: l => f a b :: pairUp f l
  | l => l

/-- A reduction tree of `k` levels. -/
def treeOf (f : Nat → Nat → Nat) : Nat → List Nat → List Nat
  | 0, l => l
  | k + 1, l => treeOf f k (pairUp f l)

/-- The function of a reduction (R132). -/
def redFun (o : RedOp) (a b : Nat) : Nat :=
  match o with
  | .sum => fpAdd .fp32 (decodeElem .fp32 a) (decodeElem .fp32 b)
  | .max => fpExt .fp32 true a b (decodeElem .fp32 a) (decodeElem .fp32 b)
  | .min => fpExt .fp32 false a b (decodeElem .fp32 a) (decodeElem .fp32 b)
  | .and => a &&& b
  | .or => a ||| b
  | .xor => a ^^^ b
  | .iadd => (a + b) % 2 ^ 32

/-- VEC.RED: groups of 2^k lanes, results in the first lanes, the rest zero (R132). -/
def execVecRed (p : CoreId) (fmt : Fmt) (op : RedOp) (k : BitVec 4) (rd ra : VReg) (flt : VFault) (s : State) :
    Host.Outcome State Fault Refusal :=
  .next (s.vecOp p (Instr.vecRed p fmt op k rd ra flt).wellFormed rd [ra] (op == .sum || op == .iadd) flt
    (fun s => ofElems 32 (treeOf (redFun op) k.toNat ((upto 256).map (elemAt (s.vreg p ra) 32)))))

/-! ### VEC.XFM -/

/-- The PERM stage (R134). -/
def permStage (a b idx : VWord) : VWord :=
  ofElems 32 ((upto 256).map (fun l =>
    let i := elemAt idx 32 l
    let n := i % 512
    if bits i 9 1 = 1 then 0 else if n < 256 then elemAt a 32 n else elemAt b 32 (n - 256)))

/-- One level of butterflies of distance `2^i` (R135). -/
def butterfly (v : VWord) (i : Nat) : VWord :=
  ofElems 32 ((upto 256).map (fun j =>
    if bits j i 1 = 0 then fpAdd .fp32 (decodeElem .fp32 (elemAt v 32 j)) (decodeElem .fp32 (elemAt v 32 (j + 2 ^ i)))
    else fpSub .fp32 (decodeElem .fp32 (elemAt v 32 (j - 2 ^ i))) (decodeElem .fp32 (elemAt v 32 j))))

/-- The SHIFT stage of one lane (R134). -/
def shiftLane (h c : Nat) : Nat := fpMul .fp32 (decodeElem .fp32 c) (.fin false 1 (-(h : Int)))

/-- The stages of VEC.XFM in their order (R134). -/
def xfmValue (d : VecXfm) (a a1 b f : VWord) : VWord :=
  let x := if d.perm then permStage a a1 b else a
  let x := if d.smooth then fpZip .fp32 fpMul { abs := false, fin := false } { abs := false, fin := false } x f else x
  let x := if d.had then (upto d.m.toNat).foldl butterfly x else x
  if d.h ≠ 0 then mapElems 32 (shiftLane d.h.toNat) x else x

/-- VEC.XFM (R134, R141). -/
def execVecXfm (p : CoreId) (d : VecXfm) (flt : VFault) (s : State) : Host.Outcome State Fault Refusal :=
  .next (s.vecOp p (legalXfm d) d.rd
    (([d.ra.val] ++ (if d.perm then [d.ra.val + 1, d.rb.val] else [])) ++ (if d.smooth then [d.rc.val] else []))
    (d.smooth || d.had) flt
    (fun s => xfmValue d (s.vreg p d.ra) (s.vreg p (d.ra.val + 1)) (s.vreg p d.rb) (s.vreg p d.rc))
    |> fun (t : State) => if (legalXfm d && t.word (R.VEC_PERF p) != s.word (R.VEC_PERF p)) then
        t.count (R.VEC_PERF p) F.VEC_PERF.XFM_INSNS 1 else t)

/-! ### Scratchpad -/

/-- A vector load or store of `n` bytes (R125, R148, R158). -/
def State.vecMem (s : State) (p : CoreId) (legal : Bool) (ra : SReg) (off : BitVec 32) (n : Nat)
    (f : State → Nat → Nat → State) : State :=
  s.issue p legal 8 (fun s c =>
    let a := (s.baseOff p ra off).toNat
    if a % n ≠ 0 then s.raiseMisaligned p c a else
    match s.spdAddr p (s.runSlotOf p) a n with
    | none => s.raiseInsn p c cSpdBounds a 0
    | some x => if s.drainAhead p x n then s else f s c x)

/-- Put loaded bytes into registers from `rd` on; poisoned data poisons them and is consumed (R123, R320). -/
def State.vecLoad (s : State) (p c rd x n : Nat) : State :=
  match s.spdRead p (some c) x n with
  | (s, d, po) =>
    let s := (s.setVreg p rd (BitVec.ofNat 8192 (leNat (d.take 1024)))).setVpois p rd po
    let s := if n = 2048 then
        (s.setVreg p (rd + 1) (BitVec.ofNat 8192 (leNat (d.drop 1024)))).setVpois p (rd + 1) po
      else s
    if po then
      -- the instruction has committed: SEQ_FAULT_PC takes its own address
      let pc := (s.pc p).toNat
      ((s.vecDone p).wr (R.SEQ_FAULT_PC p) F.SEQ_FAULT_PC.PC pc).raise c cPoisonConsumed (uVec p) x 0
    else s.vecDone p

/-- VEC.LD: a 1 KiB-aligned half tile. -/
def execVecLd (p : CoreId) (rd : VReg) (ra : SReg) (off : BitVec 32) (s : State) : Host.Outcome State Fault Refusal :=
  .next (s.vecMem p true ra off 1024 (fun s c x => s.vecLoad p c rd x 1024))

/-- VEC.LD2: a whole tile into a pair. -/
def execVecLd2 (p : CoreId) (rd : VReg) (ra : SReg) (off : BitVec 32) (s : State) : Host.Outcome State Fault Refusal :=
  .next (s.vecMem p (legalPair rd) ra off 2048 (fun s c x => s.vecLoad p c rd x 2048))

/-- Store registers from `rd` on; a poisoned register, or one with a parity error, stores POISON (R123). -/
def State.vecStore (s : State) (p c rd x n : Nat) (parity : Bool) : State :=
  let d := natLe (s.vreg p rd).toNat 1024 ++ (if n = 2048 then natLe (s.vreg p (rd + 1)).toNat 1024 else [])
  let po := s.vpois p rd || (n == 2048 && s.vpois p (rd + 1)) || parity
  let s := (s.spdWrite p (some c) x d po).vecDone p
  if parity then s.parityFail p c else s

/-- VEC.ST: a half tile, a merge write. -/
def execVecSt (p : CoreId) (rd : VReg) (ra : SReg) (off : BitVec 32) (parity : Bool) (s : State) :
    Host.Outcome State Fault Refusal :=
  .next (s.vecMem p true ra off 1024 (fun s c x => s.vecStore p c rd x 1024 parity))

/-- VEC.ST2: a whole tile from a pair. -/
def execVecSt2 (p : CoreId) (rd : VReg) (ra : SReg) (off : BitVec 32) (parity : Bool) (s : State) :
    Host.Outcome State Fault Refusal :=
  .next (s.vecMem p (legalPair rd) ra off 2048 (fun s c x => s.vecStore p c rd x 2048 parity))

end Sys2Proof.Machine
end

