-- ==== Sys2Proof/Machine/Cvt.lean ====
section
/-!
DEFINITION. CVT instructions: conversion, quantisation, per-channel scales and dequantisation (R93 to R104, R136 to R140, R159),
and the delivery of range telemetry (R184, R185).
-/
namespace Sys2Proof.Machine

/-- Event of one converted element (R96). -/
inductive CvtEvent where
  | none
  | overflow
  | vanish
  | subnormal
  deriving DecidableEq, Repr

/-- The outcome of converting one element: a code, or block scale 0xFF asked for (Table 29). -/
inductive CvtOut where
  | code (c : Nat) (e : CvtEvent)
  | scaleNaN (e : CvtEvent)
  deriving DecidableEq, Repr

/-- Targets whose scaled form turns an overflow or a non-finite source into block scale 0xFF (Table 29). -/
def narrowFmt : Fmt → Bool
  | .e2m3 | .e3m2 | .e2m1 | .bell4 | .int8 => true
  | .fp32 | .bf16 | .fp16 | .e4m3 | .e5m2 | .int32 | .e8m0 => false

/-- Whether a code of a floating target is a non-zero subnormal. -/
def subnormalCode (f : Fmt) (c : Nat) : Bool :=
  match floatInfo f with
  | some i => let m := c % 2 ^ (i.w - 1); decide (0 < m) && decide (m < 2 ^ i.mb)
  | none => false

/-- Whether a code is a zero of either sign. -/
def zeroCode (f : Fmt) (c : Nat) : Bool :=
  match floatInfo f with
  | some i => c % 2 ^ (i.w - 1) == 0
  | none => c == 0

/-- Convert a value already divided by its block scale (R94 to R97, Table 29). -/
def encodeElem (f : Fmt) (scaled : Bool) (ovf : Ovf) (v : Val) : CvtOut :=
  match v with
  | .nan =>
    if scaled && narrowFmt f then .scaleNaN .none
    else if narrowFmt f || f == .int32 then .code 0 .overflow
    else .code (canonNaN f) .none
  | .inf n =>
    if ovf = .sat then .code (maxElem f n) .overflow
    else if hasInf f then .code (infElem f n) .none
    else if f = .e4m3 then .code (canonNaN f) .overflow
    else if scaled && narrowFmt f then .scaleNaN .overflow
    else .code (maxElem f n) .overflow
  | .fin n m e => match roundElem f scaled n m e with
    | some c =>
      .code c (if m ≠ 0 ∧ zeroCode f c then .vanish else if subnormalCode f c then .subnormal else .none)
    | none =>
      if ovf = .sat then .code (maxElem f n) .overflow
      else if hasInf f then .code (infElem f n) .overflow
      else if f = .e4m3 then .code (canonNaN f) .overflow
      else if scaled && narrowFmt f then .scaleNaN .overflow
      else .code (maxElem f n) .overflow

/-- The code of an element that takes no block scale 0xFF. -/
def CvtOut.codeOf : CvtOut → Nat
  | .code c _ => c
  | .scaleNaN _ => 0

/-- The event of an element. -/
def CvtOut.eventOf : CvtOut → CvtEvent
  | .code _ e => e
  | .scaleNaN e => e

/-- Whether an element asks for block scale 0xFF. -/
def CvtOut.asksNaN : CvtOut → Bool
  | .code _ _ => false
  | .scaleNaN _ => true

/-! ### Scales -/

/-- MAXF of R99: the largest finite value of a scalable target as m × 2^e. -/
def maxFin : Fmt → Nat × Int
  | .e4m3 => (7, 6) | .e5m2 => (7, 13) | .e2m3 => (15, -1) | .e3m2 => (7, 2) | .e2m1 => (3, 1) | .bell4 => (1, 0)
  | .int8 => (127, -6)
  | .fp32 | .bf16 | .fp16 | .int32 | .e8m0 => (1, 0)

/-- Whether m × 2^e ≤ n × 2^g. -/
def magLe (m : Nat) (e : Int) (n : Nat) (g : Int) : Bool := !dyLt ((n : Int), g) ((m : Int), e)

/-- The smallest integer e0 with A ≤ MAXF × 2^e0, for A = m × 2^e above zero (R99). -/
def e0Of (f : Fmt) (m : Nat) (e : Int) : Int :=
  let (n, g) := maxFin f
  let k := floorLog m e - floorLog n g
  if magLe m e n (g + k) then k else k + 1

/-- A value divided by the block scale `x` (R99). -/
def scaleDown (x : Nat) (v : Val) : Val :=
  match v with
  | .fin n m e => .fin n m (e - ((x : Int) - 127))
  | v => v

/-- A scale choice: the code, and whether ZERO_RANGE, NAN_SCALE and SCALE_CLAMP count. -/
structure ScalePick where
  x     : Nat
  zero  : Bool := false
  nan   : Bool := false
  clamp : Bool := false
  deriving DecidableEq, Repr

/-- The finite values of a list as dyadic magnitudes and signs. -/
def finOf (l : List Val) : List (Bool × Nat × Int) :=
  l.filterMap (fun v => match v with | .fin n m e => some (n, m, e) | .nan => none | .inf _ => none)

/-- The largest magnitude of a list, 0 for an empty one. -/
def largest (l : List (Bool × Nat × Int)) : Nat × Int :=
  l.foldl (fun b x => if magLe x.2.1 x.2.2 b.1 b.2 then b else x.2) (0, 0)

/-- The error |decoded − c| that a scale code leaves a constant c, none where c overflows (R102). -/
def constError (f : Fmt) (c : Bool × Nat × Int) (x : Nat) : Option Dyadic :=
  match encodeElem f true .sat (scaleDown x (.fin c.1 c.2.1 c.2.2)) with
  | .code k e =>
    if e = .overflow then none else
    match decodeScaled f k x with
    | .fin n m g =>
      let d := dyAdd (dyOf n m g) (dyOf (!c.1) c.2.1 c.2.2)
      some (d.1.natAbs, d.2)
    | _ => none
  | .scaleNaN _ => none

/-- The code of least error among those from `x0` on, the smallest on a tie (R102). -/
def bestConst (f : Fmt) (c : Bool × Nat × Int) (l : List Nat) : Option Nat :=
  (l.foldl (fun (b : Option (Nat × Dyadic)) x => match constError f c x, b with
    | none, b => b
    | some d, none => some (x, d)
    | some d, some (y, g) => if dyLt d g then some (x, d) else some (y, g)) none).map Prod.fst

/-- The scale of a range A = m × 2^e, or of the constant `c` of R102 (R99 to R102). DEDUCED: the codes below e0 + 127 are no candidates, as
the text after R102 says, also where a constant just above MAXF × 2^k would round to it (log entry 89). -/
def pickScale (f : Fmt) (m : Nat) (e : Int) (c : Option (Bool × Nat × Int)) : ScalePick :=
  if m = 0 then { x := 127, zero := true } else
  let x := e0Of f m e + 127
  if 254 < x then { x := 254, zero := c.isSome, clamp := true }
  else
    let x0 := x.toNat
    match c with
    | none => { x := x0, clamp := decide (x < 0) }
    | some v =>
      { x := (bestConst f v ((natsFrom x0 5).filter (fun y => decide (y ≤ 254)))).getD x0,
        zero := true, clamp := decide (x < 0) }

/-- Whether two finite values are equal and not zero: the constant of R102. -/
def sameConst (a b : Bool × Nat × Int) : Bool :=
  a.2.1 != 0 && !dyLt (dyOf a.1 a.2.1 a.2.2) (dyOf b.1 b.2.1 b.2.2) && !dyLt (dyOf b.1 b.2.1 b.2.2) (dyOf a.1 a.2.1 a.2.2)

/-- The finite minimum and maximum of a list as FP32 codes (R98, R138); none where no value is finite. -/
def rangeCodes (l : List Val) : Option (Nat × Nat) :=
  let cs := (finOf l).filterMap (fun x => roundElem .fp32 false x.1 x.2.1 x.2.2)
  let ext := fun (mx : Bool) (a b : Nat) => fpExt .fp32 mx a b (decodeElem .fp32 a) (decodeElem .fp32 b)
  match cs with
  | [] => none
  | c :: cs => some (cs.foldl (ext false) c, cs.foldl (ext true) c)

/-- What a quantised block gives: its scale choice, the codes and the events. -/
structure QBlock where
  pick   : ScalePick
  codes  : List Nat
  events : List CvtEvent
  deriving DecidableEq, Repr

/-- Quantise one block (R99 to R103). -/
def quantBlock (f : Fmt) (minmax : Bool) (ovf : Ovf) (l : List Val) : QBlock :=
  let nan := l.any (fun v => v == .nan)
  let isInf := fun (v : Val) => match v with | .inf _ => true | _ => false
  if nan then
    { pick := { x := 255, nan := true }, codes := l.map (fun _ => 0), events := l.map (fun _ => .none) }
  else if l.any isInf && ovf = .nonfinite && narrowFmt f then
    { pick := { x := 255, nan := true }, codes := l.map (fun _ => 0),
      events := l.map (fun v => if isInf v then .overflow else .none) }
  else
    let fs := finOf l
    let (m, e) := largest fs
    let c : Option (Bool × Nat × Int) := if minmax then (match fs with
      | [] => none
      | a :: r => if r.all (sameConst a) && sameConst a a then some a else none) else none
    let p := pickScale f m e c
    let enc := l.map (fun v => match v with
      | .fin n k g => if m = 0 then .code 0 .none else encodeElem f true ovf (scaleDown p.x (.fin n k g))
      | v => encodeElem f true ovf v)
    if enc.any CvtOut.asksNaN then
      { pick := { p with x := 255, nan := true }, codes := l.map (fun _ => 0),
        events := enc.map (fun o => match o with | .code _ _ => .none | .scaleNaN ev => ev) }
    else { pick := p, codes := enc.map CvtOut.codeOf, events := enc.map CvtOut.eventOf }

/-- Quantise one lane with a scale from a register (R95, R139). -/
def quantReg (f : Fmt) (ovf : Ovf) (x : Nat) (v : Val) : Nat × CvtEvent :=
  if x = 255 then (0, .none) else
  match encodeElem f true ovf (scaleDown x v) with
  | .code c e => (c, e)
  | .scaleNaN _ => match v with
    | .nan => (0, .overflow)
    | .inf n => (maxElem f n, .overflow)
    | .fin n _ _ => (maxElem f n, .overflow)

/-- The scale of one channel of CVT.QSC: `a` and `b` are the FP32 range lanes, `word` the class word (R139). A finite range that
overflows at a clamped code is handled as in one block (R100). -/
def channelPick (f : Fmt) (minmax : Bool) (ovf : Ovf) (a b word : Nat) : ScalePick :=
  let rng := decodeElem .fp32 a :: (if minmax then [decodeElem .fp32 b] else [])
  let isInf := fun (v : Val) => match v with | .inf _ => true | _ => false
  if rng.any (fun v => v == .nan) then { x := 255, nan := true }
  else if rng.any isInf then { x := 254, clamp := true }
  else if bits word 0 1 = 1 || (bits word 1 1 == 1 && ovf == .nonfinite && narrowFmt f) then { x := 255, nan := true }
  else
    let fs := finOf rng
    let (m, e) := largest fs
    let x := pickScale f m e (match minmax, fs with
      | true, [p, q] => if sameConst p q then some p else none
      | _, _ => none)
    if x.clamp && rng.any (fun v => (encodeElem f true ovf (scaleDown x.x v)).asksNaN) then { x with x := 255, nan := true } else x

/-! ### Registers and slices -/

/-- Element `i` of slice `sl` of a packed register (R136). -/
def sliceElem (f : Fmt) (v : VWord) (sl i : Nat) : Nat := elemAt v (fmtBits f) (256 * sl + i)

/-- Replace the bits of slice `sl` of a packed register by 256 codes. -/
def putSlice (f : Fmt) (v : VWord) (sl : Nat) (cs : List Nat) : VWord :=
  let w := fmtBits f
  let x := cs.foldr (fun c n => n * 2 ^ w + c % 2 ^ w) 0
  BitVec.ofNat 8192 (setBits v.toNat (256 * w * sl) (256 * w) x)

/-- Byte `i` of a register. -/
def byteOf (v : VWord) (i : Nat) : Nat := elemAt v 8 i

/-- Replace byte `i` of a register. -/
def putByte (v : VWord) (i x : Nat) : VWord := BitVec.ofNat 8192 (setBits v.toNat (8 * i) 8 x)

/-- Lanes of block `t` (Table 42); lane 256 + n is lane n of the second register of a pair. -/
def blockLanes (strided s32 pair : Bool) (t : Nat) : List Nat :=
  let one := if strided then (upto 16).map (fun k => t + 16 * k)
    else if s32 && !pair then natsFrom (32 * t) 32 else natsFrom (16 * t) 16
  if pair then one ++ one.map (fun l => 256 + l) else one

/-- The block of a lane. -/
def blockOfLane (strided s32 pair : Bool) (l : Nat) : Nat :=
  let l := l % 256
  if strided then l % 16 else if s32 && !pair then l / 32 else l / 16

/-- Blocks of a geometry. -/
def blockCount (d : Cvt) : Nat := (geomBlocks d.strided d.s32 d.pair).getD 0

/-- Events of a kind in a list. -/
def countEvents (e : CvtEvent) (l : List CvtEvent) : Nat := (l.filter (fun x => x == e)).length

/-! ### The common parts -/

/-- Set the poison bit of a destination: written in part it keeps a bit that was set (R123). -/
def State.cvtPoison (s : State) (p r : Nat) (whole po : Bool) : State :=
  s.setVpois p r (po || (!whole && s.vpois p r))

/-- Owe the counts of a CVT instruction to the die's counters (R184, R185); a jig reports none (R333). -/
def State.oweTel (s : State) (p c : Nat) (d : Cvt) (produced : Nat) (ev : List CvtEvent) : State :=
  if c = jigCtx then s else
  let t : TelDue := {
    ctx := Fin.ofNat 17 c, tag := d.tag.toNat, fmt := fmtCode d.dstf, produced := produced,
    overs := countEvents .overflow ev, van := countEvents .vanish ev, sub := countEvents .subnormal ev }
  s.setCore p { s.core p with tel := (s.core p).tel ++ [t] }

/-- Count scale choices in SCA_QSTAT of the running slot and in VEC_PERF (R104). -/
def State.countPicks (s : State) (p : Nat) (l : List ScalePick) : State :=
  let n := fun (f : ScalePick → Bool) => (l.filter f).length
  let r := R.SCA_QSTAT p (s.activeSlot p)
  let s := s.bump r F.SCA_QSTAT.ZERO_RANGE (n ScalePick.zero)
  let s := s.bump r F.SCA_QSTAT.NAN_SCALE (n ScalePick.nan)
  let s := s.bump r F.SCA_QSTAT.SCALE_CLAMP (n ScalePick.clamp)
  s.count (R.VEC_PERF p) F.VEC_PERF.QUANT_BLOCKS l.length

/-- Run a CVT instruction: `f` writes its results, given whether a source is poisoned (R123). -/
def State.cvtOp (s : State) (p : CoreId) (legal : Bool) (src : List Nat) (parity : Bool) (f : State → Nat → Bool → State) :
    State :=
  s.issue p legal 8 (fun s c =>
    let s := (f s c (src.any (s.vpois p) || parity)).vecDone p
    if parity then s.parityFail p c else s)

/-! ### The instructions -/

/-- CVT.F (R136). -/
def execCvtF (p : CoreId) (d : Cvt) (parity : Bool) (s : State) : Host.Outcome State Fault Refusal :=
  .next (s.cvtOp p (legalCvtF d) [d.ra] parity (fun s c po =>
    let out := (upto 256).map (fun i =>
      encodeElem d.dstf false d.ovf (decodeElem d.srcf (sliceElem d.srcf (s.vreg p d.ra) d.ss.toNat i)))
    let s := s.cvtPoison p d.rd (fmtBits d.dstf == 32) po
    let s := s.setVreg p d.rd (putSlice d.dstf (s.vreg p d.rd) d.ds.toNat (out.map CvtOut.codeOf))
    s.oweTel p c d 256 (out.map CvtOut.eventOf)))

/-- The input values of CVT.Q: slice SS of vs, and of vs + 1 with PAIR. -/
def State.quantInput (s : State) (p : Nat) (d : Cvt) : List Val :=
  let get := fun (r : Nat) => (upto 256).map (fun i => decodeElem d.srcf (sliceElem d.srcf (s.vreg p r) d.ss.toNat i))
  get d.ra ++ (if d.pair then get (d.ra.val + 1) else [])

/-- Put element codes into slice DS of a register, and those of a pair's second register into slice DS + 1 (R137). -/
def putCodes (d : Cvt) (v : VWord) (cs : List Nat) : VWord :=
  let v := putSlice d.dstf v d.ds.toNat (cs.take 256)
  if d.pair then putSlice d.dstf v (d.ds.toNat + 1) (cs.drop 256) else v

/-- CVT.Q with the scale source BLOCK (R137, R138). DESIGN CHOICE: the codes are written before the scales and these before the statistics;
where destinations overlap, the last one stands (log entry 90). -/
def State.quantBlocks (s : State) (p c : Nat) (d : Cvt) (po : Bool) : State :=
  let inp := s.quantInput p d
  let lanes := (upto (blockCount d)).map (blockLanes d.strided d.s32 d.pair)
  let vals := lanes.map (fun l => l.map (fun i => inp.getD i .nan))
  let qs := vals.map (quantBlock d.dstf d.minmax d.ovf)
  let at_ := fun (i : Nat) =>
    let t := blockOfLane d.strided d.s32 d.pair i
    let k := (lanes.getD t []).findIdx (fun x => x == i)
    ((qs[t]?).map (fun q => q.codes.getD k 0)).getD 0
  let s := s.cvtPoison p d.rd false po
  let s := s.setVreg p d.rd (putCodes d (s.vreg p d.rd) ((upto inp.length).map at_))
  let s := s.cvtPoison p d.rb false po
  let s := s.setVreg p d.rb ((qs.zip (upto qs.length)).foldl
    (fun v x => putByte v (scaleByte d.soff.toNat d.sord x.2) x.1.pick.x) (s.vreg p d.rb))
  let s := if d.minmax then
      let st := vals.flatMap (fun l => match rangeCodes l with
        | some (lo, hi) => [lo, hi]
        | none => [canonNaN .fp32, canonNaN .fp32])
      (s.cvtPoison p d.rc true po).setVreg p d.rc (ofElems 32 st)
    else s
  (s.countPicks p (qs.map QBlock.pick)).oweTel p c d inp.length (qs.flatMap QBlock.events)

/-- CVT.Q with the scale source REG (R139). -/
def State.quantLanes (s : State) (p c : Nat) (d : Cvt) (po : Bool) : State :=
  let out := ((s.quantInput p d).zip (upto 256)).map (fun x =>
    quantReg d.dstf d.ovf (byteOf (s.vreg p d.rb) (256 * (d.soff.toNat % 4) + x.2)) x.1)
  let s := s.cvtPoison p d.rd false po
  let s := s.setVreg p d.rd (putSlice d.dstf (s.vreg p d.rd) d.ds.toNat (out.map Prod.fst))
  s.oweTel p c d 256 (out.map Prod.snd)

/-- CVT.Q (R137 to R139). -/
def execCvtQ (p : CoreId) (d : Cvt) (parity : Bool) (s : State) : Host.Outcome State Fault Refusal :=
  .next (s.cvtOp p (legalCvtQ d)
    ([d.ra.val] ++ (if d.pair then [d.ra.val + 1] else []) ++ (if d.reg then [d.rb.val] else [])) parity
    (fun s c po => if d.reg then s.quantLanes p c d po else s.quantBlocks p c d po))

/-- CVT.QSC (R139). -/
def execCvtQsc (p : CoreId) (d : Cvt) (parity : Bool) (s : State) : Host.Outcome State Fault Refusal :=
  .next (s.cvtOp p (legalCvtQsc d) ([d.ra.val, d.rc.val] ++ (if d.minmax then [d.rb.val] else [])) parity
    (fun s _ po =>
      let ps := (upto 256).map (fun i =>
        channelPick d.dstf d.minmax d.ovf (elemAt (s.vreg p d.ra) 32 i) (elemAt (s.vreg p d.rb) 32 i)
          (elemAt (s.vreg p d.rc) 32 i))
      let s := s.cvtPoison p d.rd false po
      let s := s.setVreg p d.rd (putSlice .int8 (s.vreg p d.rd) d.ss.toNat (ps.map ScalePick.x))
      s.countPicks p ps))

/-- The scale of a lane for CVT.DQ (R140). -/
def dqScale (d : Cvt) (vsc : VWord) (l : Nat) : Nat :=
  if d.reg then byteOf vsc (256 * (d.soff.toNat % 4) + l % 256)
  else byteOf vsc (scaleByte d.soff.toNat d.sord (blockOfLane d.strided d.s32 d.pair l))

/-- One dequantised element (R140): rounded as R127 rounds. -/
def dqElem (src dst : Fmt) (code x : Nat) : Nat :=
  match decodeScaled src code x with
  | .nan => canonNaN dst
  | .inf n => infElem dst n
  | .fin n m e => match floatInfo dst with
    | some i => roundFp i (dyOf n m e) n
    | none => 0

/-- CVT.DQ (R140). -/
def execCvtDq (p : CoreId) (d : Cvt) (parity : Bool) (s : State) : Host.Outcome State Fault Refusal :=
  .next (s.cvtOp p (legalCvtDq d) [d.ra.val, d.rb.val] parity (fun s _ po =>
    let vs := s.vreg p d.ra
    let vsc := s.vreg p d.rb
    let out := fun (k : Nat) => (upto 256).map (fun i =>
      dqElem d.srcf d.dstf (sliceElem d.srcf vs (d.ss.toNat + k) i) (dqScale d vsc (256 * k + i)))
    let whole := fmtBits d.dstf == 32
    let put := fun (s : State) (r k : Nat) =>
      let s := s.cvtPoison p r whole po
      s.setVreg p r (putSlice d.dstf (s.vreg p r) d.ds.toNat (out k))
    let s := put s d.rd 0
    if d.pair then put s (d.rd.val + 1) 1 else s))

/-! ### Telemetry -/

/-- Add to a telemetry counter of a die; a full one stays full and says so (R185). -/
def State.telAdd (s : State) (d c tag fmt kind n : Nat) : State :=
  if n = 0 then s else
  let r := R.TEL_CNT d c tag fmt kind
  let v := s.rd r F.TEL_CNT.COUNT + n
  let s := s.wr r F.TEL_CNT.COUNT (min v (2 ^ 48 - 1))
  if 2 ^ 48 - 1 ≤ v then s.wr (R.TEL_CTX d c) F.TEL_CTX.SATURATED 1 else s

/-- TEL_DELIVER: the oldest counts a core owes reach its die's counters (R185). -/
def execTelDeliver (p : CoreId) (s : State) : Host.Outcome State Fault Refusal :=
  .next (match (s.core p).tel with
    | [] => s
    | t :: rest =>
      let d := p.val / 52
      let s := s.setCore p { s.core p with tel := rest }
      let s := s.telAdd d t.ctx t.tag t.fmt 0 t.produced
      let s := s.telAdd d t.ctx t.tag t.fmt 1 t.overs
      let s := s.telAdd d t.ctx t.tag t.fmt 2 t.van
      s.telAdd d t.ctx t.tag t.fmt 3 t.sub)

end Sys2Proof.Machine
end

