-- ==== Sys2Proof/Machine/Sca.lean ====
section
/-!
DEFINITION. SCA instructions: the loss scale (R173 to R176), scale-history slots (R177 to R183) and telemetry reads (R186), and
what context start does to the scaling state.
-/
namespace Sys2Proof.Machine

/-- What only a context has, its loss scale and its telemetry, a jig's pattern cannot use: an illegal encoding there (log entry 94). -/
def State.ofCtx (s : State) (p c : Nat) (f : State) : State :=
  if c = jigCtx then s.raiseInsn p c cIllegalInsn (s.pc p).toNat 0 else f

/-! ### The loss scale -/

/-- An exponent limit: an 8-bit code, −128 and −127 taken as −126 (R173). -/
def expOf (v : Nat) : Int := max (-126) (sgn 8 v)

/-- Clamp an exponent (R173, R174). -/
def clampExp (e lo hi : Int) : Int := min (max e lo) (max lo hi)

/-- The pending values of N, MIN_EXP and MAX_EXP come into force (R175). -/
def State.lsBoundary (s : State) (c : Nat) : State :=
  let x := s.ctx c
  let r := R.SCA_LS_CTRL c
  if x.lsN.isNone && x.lsMin.isNone && x.lsMax.isNone then s else
  let put := fun (s : State) (f : Field) (v : Option Nat) => match v with | some n => s.wr r f n | none => s
  let s := put s F.SCA_LS_CTRL.N (x.lsN.map BitVec.toNat)
  let s := put s F.SCA_LS_CTRL.MIN_EXP (x.lsMin.map BitVec.toNat)
  let s := put s F.SCA_LS_CTRL.MAX_EXP (x.lsMax.map BitVec.toNat)
  s.setCtx c { s.ctx c with lsN := none, lsMin := none, lsMax := none }

/-- Lowest and highest exponent in force. -/
def State.lsLimits (s : State) (c : Nat) : Int × Int :=
  (expOf (s.rd (R.SCA_LS_CTRL c) F.SCA_LS_CTRL.MIN_EXP), expOf (s.rd (R.SCA_LS_CTRL c) F.SCA_LS_CTRL.MAX_EXP))

/-- The loss-scale exponent. -/
def State.lsExp (s : State) (c : Nat) : Int := sgn 8 (s.rd (R.SCA_LS_STATUS c) F.SCA_LS_STATUS.EXP)

/-- The loss scale at context start (R173). -/
def State.lsStart (s : State) (c : Nat) : State :=
  let s := s.lsBoundary c
  let (lo, hi) := s.lsLimits c
  let e := clampExp (expOf (s.rd (R.SCA_LS_CTRL c) F.SCA_LS_CTRL.INIT_EXP)) lo hi
  (s.wr (R.SCA_LS_STATUS c) F.SCA_LS_STATUS.EXP (wrap 8 e)).wr (R.SCA_LS_STATUS c) F.SCA_LS_STATUS.CLEAN 0

/-- SCA.LSGET (R173). -/
def execScaLsget (p : CoreId) (rd : SReg) (s : State) : Host.Outcome State Fault Refusal :=
  .next (s.issue p true 8 (fun s c => s.ofCtx p c (s.commitReg p rd (BitVec.ofInt 64 (s.lsExp c)))))

/-- Close the loss-scale window with an outcome word (R174). -/
def State.lsUpdate (s : State) (c word : Nat) : State :=
  let s := s.lsBoundary c
  let st := R.SCA_LS_STATUS c
  let (lo, hi) := s.lsLimits c
  let e := s.lsExp c
  let put := fun (s : State) (e : Int) => s.wr st F.SCA_LS_STATUS.EXP (wrap 8 (clampExp e lo hi))
  let s := if bits word 0 1 = 1 then
      let s := if e = lo then s.bump (R.SCA_LS_COUNT c) F.SCA_LS_COUNT.FLOOR_HITS 1 else s
      ((put s (e - 1)).wr st F.SCA_LS_STATUS.CLEAN 0).bump st F.SCA_LS_STATUS.HALVINGS 1
    else if bits word 1 1 = 0 then
      let n := s.rd (R.SCA_LS_CTRL c) F.SCA_LS_CTRL.N
      let k := min (s.rd st F.SCA_LS_STATUS.CLEAN + 1) 0xFFFF
      if n ≠ 0 ∧ n ≤ k then ((put s (e + 1)).wr st F.SCA_LS_STATUS.CLEAN 0).bump st F.SCA_LS_STATUS.DOUBLINGS 1
      else (put s e).wr st F.SCA_LS_STATUS.CLEAN k
    else put s e
  s.count (R.SCA_LS_COUNT c) F.SCA_LS_COUNT.UPDATES 1

/-- SCA.LSUPD: only the owner core may issue it (R174). -/
def execScaLsupd (p : CoreId) (ra : SReg) (s : State) : Host.Outcome State Fault Refusal :=
  .next (s.issue p true 8 (fun s c => s.ofCtx p c (
    if s.logicalOf p = some (s.rd (R.SCA_LS_CTRL c) F.SCA_LS_CTRL.OWNER) then
      (s.lsUpdate c (s.sreg p ra).toNat).commit p
    else s.raiseInsn p c cScaNotOwner (s.pc p).toNat 0)))

/-! ### Scale-history slots -/

/-- A scaling table entry (Table 62). -/
structure ScaEntry where
  fmt   : Fmt
  redo  : Bool
  head  : Nat := 0        -- HEADROOM
  under : Nat
  depth : Nat
  init  : Nat
  cur   : Nat
  redoCode : Nat
  cnt   : Nat
  next  : Nat             -- HEAD
  pend  : Bool
  records : Nat
  overs : Nat
  under_ : Nat
  nonfin : Nat
  hist  : List Nat
  deriving DecidableEq, Repr

/-- Read an entry; none where FMT names no scalable format (Table 62). -/
def scaDecode (d : List Byte) : Option ScaEntry :=
  let w := leAt d 0 4
  let t := leAt d 4 4
  match fmtOf (bits w 0 4) with
  | none => none
  | some f => if !scalable f then none else
    let dep := bits w 12 4
    some {
      fmt := f, redo := bits w 4 1 == 1, head := bits w 5 3, under := bits w 8 4,
      depth := if dep = 0 then 16 else dep, init := bits w 16 8, cur := bits t 0 8, redoCode := bits t 8 8,
      cnt := bits t 16 5, next := bits t 21 4, pend := bits t 25 1 == 1, records := leAt d 8 4,
      overs := leAt d 12 2, under_ := leAt d 14 2, nonfin := leAt d 16 4,
      hist := (upto 16).map (fun i => leAt d (0x40 + 4 * i) 4) }

/-- The device-written bytes of an entry, offsets 0x04 to 0x7F. -/
def scaBytes (e : ScaEntry) : List Byte :=
  natLe (e.cur + e.redoCode * 2 ^ 8 + e.cnt * 2 ^ 16 + e.next * 2 ^ 21 + (if e.pend then 2 ^ 25 else 0)) 4 ++
  natLe e.records 4 ++ natLe e.overs 2 ++ natLe e.under_ 2 ++ natLe e.nonfin 4 ++ natLe 0 44 ++
  e.hist.flatMap (fun h => natLe h 4)

/-- The code R178 derives from a magnitude m × 2^e with a headroom. -/
def codeFor (f : Fmt) (m : Nat) (e : Int) (headroom : Nat) : Nat :=
  if m = 0 then 127 else (min (max (e0Of f m e + 127 + headroom) 0) 254).toNat

/-- Magnitude of a finite FP32 code. -/
def magOf (code : Nat) : Nat × Int :=
  match decodeElem .fp32 code with
  | .fin _ m e => (m, e)
  | .nan => (0, 0)
  | .inf _ => (0, 0)

/-- Enter a magnitude into the history; HEAD runs through the DEPTH entries used (R180, log entry 27). -/
def scaPush (e : ScaEntry) (code : Nat) : ScaEntry :=
  { e with
    hist := e.hist.set e.next code, next := (e.next + 1) % e.depth, cnt := min (e.cnt + 1) e.depth
    records := (e.records + 1) % 2 ^ 32 }

/-- The largest valid history entry. -/
def scaMax (e : ScaEntry) : Nat × Int :=
  ((upto e.cnt).map (fun k => magOf (e.hist.getD ((e.next + 16 * e.depth - 1 - k) % e.depth) 0))).foldl
    (fun b x => if magLe x.1 x.2 b.1 b.2 then b else x) (0, 0)

/-- Record an FP32 value into an entry: the entry afterwards, and whether SCALE_MISS is raised (R180). -/
def scaRecord (e : ScaEntry) (v : Nat) : ScaEntry × Bool :=
  if e.pend then ({ e with pend := false }, false)
  else match decodeElem .fp32 (v % 2 ^ 32) with
  | .nan => ({ e with nonfin := min (e.nonfin + 1) 0xFFFFFFFF }, false)
  | .inf _ => ({ e with nonfin := min (e.nonfin + 1) 0xFFFFFFFF }, false)
  | .fin _ m g =>
    let a := v % 2 ^ 31
    let (n, h) := maxFin e.fmt
    let above := !magLe m g n (h + e.cur - 127)
    let under := m != 0 && e.under != 15 && decide ((codeFor e.fmt m g 0 : Int) < e.cur - e.under)
    let e := if above then { e with overs := min (e.overs + 1) 0xFFFF } else e
    let e := if under then { e with under_ := min (e.under_ + 1) 0xFFFF } else e
    if (above || under) && e.redo then
      let e := scaPush { e with cnt := 0, next := 0, hist := e.hist } a
      ({ e with redoCode := codeFor e.fmt m g 0, cur := codeFor e.fmt m g e.head, pend := true }, true)
    else
      let e := scaPush e a
      let (m, g) := scaMax e
      ({ e with cur := codeFor e.fmt m g e.head }, false)

/-- Local address of a slot's entry. -/
def State.scaAddr (s : State) (c slot : Nat) : Nat := s.rd (R.SCA_TABLE c) F.SCA_TABLE.BASE + 128 * slot

/-- Access a scaling table entry for the instruction at the program counter: a slot out of range, a poisoned entry and a wrong FMT
raise their context errors (R166, R177, Table 62). -/
def State.scaAccess (s : State) (p c slot : Nat) (f : State → Nat → ScaEntry → State) : State :=
  if c = jigCtx ∨ s.rd (R.SCA_TABLE c) F.SCA_TABLE.SLOTS ≤ slot then s.raiseInsn p c cScaleSlotBounds (s.pc p).toNat 0 else
  let a := s.scaAddr c slot
  if (s.ctx c).scaTodo.contains slot then s.scaGoOn c else
  match s.readAs (.eng .seq p c) a 128 with
  | (s, none) => s
  | (s, some (_, true, _)) => s.raiseInsn p c cPoisonConsumed a 0
  | (s, some (d, false, _)) => match scaDecode d with
    | none => s.raiseInsn p c cScaSlotConfig (s.pc p).toNat 0
    | some e => f s a e

/-- SCALE_MISS is raised by the instruction at the program counter, which does not commit (R155). -/
def State.scaleMiss (s : State) (p c : Nat) : State :=
  if s.rd (R.SEQ_HANDLER p) F.SEQ_HANDLER.ADDR = 0 then s.raiseInsn p c cScaleMissUnhandled (s.pc p).toNat 0
  else if s.flag (R.SEQ_HANDLER p) F.SEQ_HANDLER.ACTIVE then s.raiseInsn p c cHandlerState (s.pc p).toNat 0
  else
    let s := (s.setWord (R.SEQ_HRET p) (s.pc p)).wr (R.SEQ_HANDLER p) F.SEQ_HANDLER.ACTIVE 1
    s.setPc p (BitVec.ofNat 64 (8 * s.rd (R.SEQ_HANDLER p) F.SEQ_HANDLER.ADDR))

/-- SCA.HREC (R180). -/
def execScaHrec (p : CoreId) (ra rb : SReg) (s : State) : Host.Outcome State Fault Refusal :=
  .next (s.issue p true 8 (fun s c =>
    s.scaAccess p c (s.sreg p ra).toNat (fun s a e =>
      let (e, miss) := scaRecord e (bits (s.sreg p rb).toNat 0 32)
      match s.tryWrite (a + 4) (scaBytes e) false none with
      | (s, none) => s
      | (_, some s) => if miss then s.scaleMiss p c else s.commit p)))

/-- SCA.HGET (R179). -/
def execScaHget (p : CoreId) (rd ra : SReg) (s : State) : Host.Outcome State Fault Refusal :=
  .next (s.issue p true 8 (fun s c =>
    s.scaAccess p c (s.sreg p ra).toNat (fun s _ e =>
      s.commitReg p rd (BitVec.ofNat 64 (if e.pend then e.redoCode else e.cur)))))

/-- Context start: every slot's CUR_CODE is the INIT_CODE of its CFG word at that moment (R177). A poisoned tile stays. A slot whose tile
is held, or of which the host holds a line, is set when it can be; until then accesses to it wait. -/
def State.scaStart (s : State) (c : Nat) : State :=
  (s.setCtx c { s.ctx c with scaTodo := upto (s.rd (R.SCA_TABLE c) F.SCA_TABLE.SLOTS) }).scaGoOn c

/-! ### Telemetry -/

/-- Code of a counter kind (R166). -/
def telCode : TelKind → Nat
  | .produced => 0
  | .overflow => 1
  | .vanish => 2
  | .subnormal => 3

/-- SCA.TREAD: waits for the counts of every earlier CVT of the core to be delivered and for a clear in progress on either die (R186, R187). -/
def execScaTread (p : CoreId) (rd : SReg) (tag : BitVec 6) (fmt : BitVec 4) (kind : TelKind) (s : State) :
    Host.Outcome State Fault Refusal :=
  .next (s.issue p (legalTread fmt) 8 (fun s c => s.ofCtx p c (
    if !(s.core p).tel.isEmpty || (s.ctx c).telBusy != 0 then s else
    let v := fun d => s.rd (R.TEL_CNT d c tag.toNat fmt.toNat (telCode kind)) F.TEL_CNT.COUNT
    s.commitReg p rd (BitVec.ofNat 64 (v 0 + v 1)))))

end Sys2Proof.Machine
end

