-- ==== Sys2Proof/Machine/Mailbox.lean ====
section
/-!
DEFINITION. Mailbox requests (R309 to R313): the framework that every request is served by, GET_VERSION, LOAD and UNLOAD (R56, R311,
R312, Table 19), SET_PARTITION_MODE (R418), the START entry (R172, Table 95), and the wake and gating of cores (R57 to R59).
-/
namespace Sys2Proof.Machine

/-! ### Serving a request -/

/-- Types of major 1 (Table 99). -/
def knownTypes : List Nat :=
  [0x0001, 0x0100, 0x0101, 0x0110, 0x0120, 0x0121, 0x0200, 0x0201, 0x0210, 0x0211, 0x0220, 0x0300, 0x0301]

/-- TYPE of the request in a channel. -/
def State.reqType (s : State) (ch : Nat) : Nat := s.reqNat ch 4 2

/-- Bytes `off` on of a request's payload. -/
def State.payload (s : State) (ch off n : Nat) : Nat := s.reqNat ch (32 + off) n

/-- Whether both image slots have failed: the boot ROM serves channel 0 (R394). -/
def State.noImage (s : State) : Bool := s.rd R.MGT_BOOT F.MGT_BOOT.STAGE == 9

/-- The types that the firmware that serves requests now defines; the boot ROM has four (R394). -/
def State.types (s : State) : List Nat := if s.noImage then [0x0001, 0x0200, 0x0201, 0x0210] else knownTypes

/-- Whether firmware can serve channel `ch` now: the chip is ready, a request waits there, and it is not one that firmware has taken up
and will answer later (a load whose cores wake, a restart whose manifests are read, a reset). -/
def State.mbxWaits (s : State) (ch : Nat) : Bool :=
  (s.flag R.MGT_BOOT F.MGT_BOOT.READY || (s.noImage && ch == 0)) && s.flag (R.MBX_CTRL ch) F.MBX_CTRL.BUSY &&
  s.ctxs.all (fun kc => kc.2.loadCh.all (fun c => c.val != ch) && kc.2.biv.rst.all (fun r => r.ch.val != ch)) && s.recov.mboxReset.all (fun e => e.1.val != ch)

/-- The checks every request meets before its own meaning (R310, R313): `need` is the shortest payload of its type. -/
def State.mbxServe (s : State) (ch need : Nat) (f : State → State) : State :=
  if 2016 < s.reqNat ch 12 4 then s.reply ch msLength 0 []
  else if s.reqNat ch 0 2 ≠ 1 ∧ s.reqType ch ≠ 1 then s.reply ch msVersion 0 (natLe 1 2 ++ natLe 1 2)
  else if !s.types.contains (s.reqType ch) then s.reply ch msUnknown 0 []
  else if s.reqNat ch 12 4 < need then s.reply ch msLength 0 []
  else f s

/-- Serve the request in channel `ch` if it is of type `typ`. -/
def State.mbxRequest (s : State) (ch typ need : Nat) (f : State → State) : State :=
  if !s.mbxWaits ch || s.reqType ch != typ then s else s.mbxServe ch need f

/-- GET_VERSION: firmware version and the majors and minors it accepts (R313). A request of a type that is not defined is answered
here too. -/
def execGetVersion (ch : MbxId) (s : State) : Host.Outcome State Fault Refusal :=
  .next (
    if !s.mbxWaits ch || (s.reqType ch != 1 && s.types.contains (s.reqType ch)) then s
    else s.mbxServe ch 0 (fun s =>
      s.reply ch msOk 0 (natLe (s.rd R.MGT_FW F.MGT_FW.VERSION) 8 ++ natLe 1 2 ++ natLe 1 2 ++ natLe 0 2)))

/-! ### Admission -/

/-- The LOAD request in a channel (Table 100). -/
def State.loadReq (s : State) (ch : Nat) : LoadReq :=
  { bytes := s.payload ch 8 4, part := s.payload ch 0xC 1, groups := s.payload ch 0xE 2, hbm := s.payload ch 0x18 8,
    slots := s.payload ch 0x20 2, tags := s.payload ch 0x22 1, ports := s.payload ch 0x24 4,
    cores := (upto (s.payload ch 0xD 1)).map (fun i =>
      let o := 0x30 + 8 * i
      let g := s.payload ch (o + 4) 2
      { core := s.payload ch o 2, slot := s.payload ch (o + 2) 1, gran := g, cells := s.payload ch (o + 6) 2, room := g * 0x10000 }) }

/-- Whether no core is named twice. -/
def coresOnce : List LoadCore → Bool
  | [] => true
  | k :: l => l.all (fun x => x.core != k.core) && coresOnce l

/-- Whether a LOAD payload breaks its own layout (R312). -/
def State.badLoad (s : State) (ch : Nat) (r : LoadReq) : Bool :=
  decide (r.cores.length < 1) || decide (96 < r.cores.length) || decide (256 < r.groups) || !coresOnce r.cores ||
  r.cores.any (fun k => decide (1 < k.slot) || decide (k.gran < 1) || decide (384 < k.gran) || decide (1024 < k.cells)) ||
  r.hbm % 0x200000 != 0 || s.payload ch 0x23 1 != 0 || s.payload ch 0x28 8 != 0 ||
  (upto r.cores.length).any (fun i => s.payload ch (0x30 + 8 * i + 3) 1 != 0)

/-- The core entries of the contexts that hold a slot of core `p`, with the context's groups that this core issues. -/
def State.entriesOn (s : State) (p : Nat) : List (CtxCore × Nat) :=
  s.ctxs.flatMap (fun kc => (kc.2.cores.filter (fun k => k.phys.val == p)).map (fun k =>
    (k, (kc.2.groups.filter (fun g => g.2.phys.val == p)).length)))

/-- Lowest place for `n` units in `0 ≤ x < lim` beside the taken ranges (first fit). -/
def firstFit (taken : List (Nat × Nat)) (lim n : Nat) : Option Nat :=
  ((0 :: taken.map (fun t => t.1 + t.2)).filter (fun b =>
    decide (b + n ≤ lim) && taken.all (fun t => t.2 == 0 || n == 0 || decide (b + n ≤ t.1) || decide (t.1 + t.2 ≤ b)))).foldl
      (fun m b => match m with | none => some b | some x => some (min x b)) none

/-- Granules of staging for `g` groups (R268). -/
def stagingGran (g : Nat) : Nat := 8 * g

/-- Scratchpad base of a core entry, if allocation, staging and save area fit (R54, R56, R268). -/
def State.spdFit (s : State) (p : Nat) (k : LoadCore) (groups : Nat) : Option Nat :=
  let others := s.entriesOn p
  let save := if others.isEmpty then 0 else 2
  if k.gran < stagingGran groups + save ∨ others.any (fun e => decide (e.1.granules < stagingGran e.2 + 2)) then none
  else firstFit (others.map (fun e => (e.1.base, e.1.granules))) 384 k.gran

/-- First cell of a core entry, if its cells fit in one run. -/
def State.cellFit (s : State) (p : Nat) (k : LoadCore) : Option Nat :=
  firstFit ((s.entriesOn p).map (fun e => (e.1.cellBase, e.1.cells))) 1024 k.cells

/-- Put a range into a list of ranges in ascending order. -/
def insertRange (e : Nat × Nat) : List (Nat × Nat) → List (Nat × Nat)
  | [] => [e]
  | x :: l => if e.1 ≤ x.1 then e :: x :: l else x :: insertRange e l

/-- The gaps between taken ranges, in ascending order, from `lo` to `hi`. -/
def gapsFrom (lo hi : Nat) : List (Nat × Nat) → List (Nat × Nat)
  | [] => if lo < hi then [(lo, hi - lo)] else []
  | (b, n) :: l => (if lo < min b hi then [(lo, min b hi - lo)] else []) ++ gapsFrom (max lo (b + n)) hi l

/-- HBM range of a partition: base and bytes (R193). -/
def State.partRange (s : State) (q : Nat) : Nat × Nat :=
  (s.rd (R.MEM_PART q) F.MEM_PART.BASE * 0x40000000, s.rd (R.MEM_PART q) F.MEM_PART.SIZE * 0x40000000)

/-- The free HBM ranges of a partition: not in a context's extents or reserve, and not quarantined (R354). -/
def State.freeHbm (s : State) (q : Nat) : List (Nat × Nat) :=
  let used := s.ctxs.flatMap (fun kc => kc.2.extents ++ kc.2.reserve) ++ s.recov.quar.flatMap Prod.snd
  let (b, n) := s.partRange q
  gapsFrom b (b + n) (used.foldl (fun l e => insertRange e l) [])

/-- Put a gap into a list of gaps, largest first. -/
def insertGap (e : Nat × Nat) : List (Nat × Nat) → List (Nat × Nat)
  | [] => [e]
  | x :: l => if x.2 < e.2 then e :: x :: l else x :: insertGap e l

/-- Take `n` bytes from gaps in their order. -/
def takeGaps (n : Nat) : List (Nat × Nat) → Option (List (Nat × Nat))
  | [] => if n = 0 then some [] else none
  | (b, k) :: l => if n = 0 then some [] else (takeGaps (n - min n k) l).map (fun t => (b, min n k) :: t)

/-- Take `n` bytes of HBM: from the first gap that holds them whole, else from the largest gaps. -/
def takeHbm (gaps : List (Nat × Nat)) (n : Nat) : Option (List (Nat × Nat)) :=
  if n = 0 then some [] else
  match gaps.find? (fun g => decide (n ≤ g.2)) with
  | some g => some [(g.1, n)]
  | none => takeGaps n (gaps.foldl (fun l e => insertGap e l) [])

/-- Extents of a load: the HBM asked for and, where scale slots are asked for, 2 MiB that hold the scaling table (R177), at most eight in
all (R312). -/
def State.hbmFit (s : State) (r : LoadReq) : Option (List (Nat × Nat)) :=
  let gaps := s.freeHbm r.part
  match takeHbm gaps r.hbm with
  | none => none
  | some l =>
    if r.slots = 0 then (if l.length ≤ 8 then some l else none) else
    let (b, n) := s.partRange r.part
    let used := l ++ s.ctxs.flatMap (fun kc => kc.2.extents ++ kc.2.reserve) ++ s.recov.quar.flatMap Prod.snd
    match takeHbm (gapsFrom b (b + n) (used.foldl (fun l e => insertRange e l) [])) 0x200000 with
    | some [t] => if l.length ≤ 7 then some (l ++ [t]) else none
    | _ => none

/-- Group descriptor `i` of the list the load names. -/
def groupDesc (gl : List Byte) (i : Nat) : Nat := leAt gl (16 * i) 16

/-- Groups of a load that core `n` issues. -/
def groupsOf (r : LoadReq) (gl : List Byte) (n : Nat) : Nat :=
  ((upto r.groups).filter (fun i => bits (groupDesc gl i) 81 7 == n)).length

/-- Lowest free context number (R56: at most 16). -/
def State.freeCtx (s : State) : Option Nat := (upto 16).find? (fun c => (s.ctx c).phase == .absent)

/-- The refusal of a load (Table 18) with its DETAIL, if any: the applicable code with the lowest encoding. -/
def State.refusal (s : State) (r : LoadReq) (im gl : List Byte) : Option (Nat × Nat) :=
  let img := imageFails im r false
  let grp := ((upto r.groups).map (fun i => s.groupFails (s.freeCtx.getD 0) (groupDesc gl i) r)).find? (fun x => x != 0)
  let ports := onesOf r.ports 32
  let phys := r.cores.map (fun k => (k, s.physOf k.core))
  let need := fun (d : Nat) => ((upto r.groups).filter (fun i => (match s.physOf (bits (groupDesc gl i) 81 7) with
    | some p => p.val / 52 == d | none => false))).length
  if img ≠ 0 then some (0x101, img)
  else if let some x := grp then some (0x101, x)
  else if s.mode ≤ r.part then some (0x102, 0)
  else if phys.any (fun e => match e.2 with | none => true | some p => s.isFenced p) || ports.any (fun w => !s.portPresent w) then some (0x103, 0)
  else if r.cores.any (fun k => s.partOfLogical k.core != r.part) || ports.any (fun w => s.partOfPort w != r.part) then some (0x104, 0)
  else if s.freeCtx.isNone then some (0x105, 0)
  else if phys.any (fun e => (s.entriesOn (e.2.getD 0)).any (fun x => x.1.slot.val == e.1.slot)) then some (0x106, 0)
  else if phys.any (fun e => (s.spdFit (e.2.getD 0) e.1 (groupsOf r gl e.1.core)).isNone) then some (0x107, 0)
  else if phys.any (fun e => (s.cellFit (e.2.getD 0) e.1).isNone) then some (0x108, 0)
  else if 4096 < r.slots then some (0x109, 0)
  else if 64 < r.tags then some (0x10A, 0)
  else if (s.hbmFit r).isNone then some (0x10B, 0)
  else if (upto 2).any (fun d => decide (128 < s.rd (R.SPL_STATUS d) F.SPL_STATUS.GROUPS + need d)) then some (0x10C, 0)
  else none

/-! ### The load -/

/-- Record the allocations of an admitted load (Table 19 step 2). -/
def State.recordLoad (s : State) (ch c : Nat) (r : LoadReq) (im gl : List Byte) : State :=
  let cores : List CtxCore := r.cores.map (fun k =>
    let p := (s.physOf k.core).getD 0
    let e := (coreTable im).find? (fun e => e.core == k.core && e.slot == k.slot)
    let va := match e with
      | none => 0
      | some e => (((codeTable im)[e.code]?).map CodeSec.va).getD 0 + e.off
    { logical := k.core, phys := p, slot := Fin.ofNat 2 k.slot, granules := k.gran, cells := k.cells,
      base := (s.spdFit p k (groupsOf r gl k.core)).getD 0, cellBase := (s.cellFit p k).getD 0,
      entry := BitVec.ofNat 64 va, arg := BitVec.ofNat 64 ((e.map EntrySec.arg).getD 0) })
  let groups : SMap Group := (upto r.groups).map (fun i =>
    let d := groupDesc gl i
    let p := (s.physOf (bits d 81 7)).getD 0
    (i, { desc := BitVec.ofNat 128 d, phys := p, die := Fin.ofNat 2 (p.val / 52) }))
  s.setCtx c {
    phase := .loading, part := Fin.ofNat 4 r.part, cores := cores, extents := (s.hbmFit r).getD [], tags := r.tags,
    check := BitVec.ofNat 32 (leAt im 12 4), imageBytes := r.bytes, ports := BitVec.ofNat 32 r.ports, groups := groups,
    slots := r.slots, loadCh := some (Fin.ofNat 7 ch) }

/-- Wake a core for a load (R58). A jig run on a gated core is abandoned first (R332). -/
def State.wakeCore (s : State) (p : Nat) : State :=
  let s := if (s.core p).jig.any (fun j => j.gated) then s.abandonRun p else s
  if s.coreState p = csGated then (s.setCoreState p csWaking).showAwake (p / 52) else s

/-- Put a loaded context into its slot of a core (Table 19 step 4): its belay cells are zero and its scratchpad tiles UNWRITTEN. -/
def State.fillSlot (s : State) (c : Nat) (k : CtxCore) : State :=
  let p := k.phys.val
  let i := k.slot.val
  let r := R.CORE_STATUS p
  let s := if i = 0 then (s.wr r F.CORE_STATUS.RES0_CTX c).wr r F.CORE_STATUS.RES0_VALID 1
    else (s.wr r F.CORE_STATUS.RES1_CTX c).wr r F.CORE_STATUS.RES1_VALID 1
  let s := (s.wr (R.CORE_SPD_ALLOC p i) F.CORE_SPD_ALLOC.BASE k.base).wr (R.CORE_SPD_ALLOC p i) F.CORE_SPD_ALLOC.SIZE k.granules
  let s := (s.wr (R.BLY_ALLOC p i) F.BLY_ALLOC.BASE k.cellBase).wr (R.BLY_ALLOC p i) F.BLY_ALLOC.COUNT k.cells
  let s := (s.zeroCells p i).setWord (R.SCA_QSTAT p i) 0
  let s := s.setCore p ((s.core p).setSlot i {})
  s.setSpd p ((s.core p).spd.erase (32 * k.base) (32 * k.granules))

/-- Reserve the groups of a context (R268): the accepted descriptors show, SEQ is 0 and every group is IDLE. -/
def State.fillGroups (s : State) (c : Nat) : State :=
  (s.ctx c).groups.foldl (fun s g =>
    let d := g.2.die.val
    let s := s.setWord (R.SPL_GDESC d c g.1 0) (BitVec.ofNat 64 (g.2.desc.toNat % 2 ^ 64))
    let s := s.setWord (R.SPL_GDESC d c g.1 1) (BitVec.ofNat 64 (g.2.desc.toNat / 2 ^ 64))
    let s := s.wr (R.SPL_GSTATE d c g.1) F.SPL_GSTATE.STATE 1
    s.wr (R.SPL_STATUS d) F.SPL_STATUS.GROUPS (s.rd (R.SPL_STATUS d) F.SPL_STATUS.GROUPS + 1)) s

/-- Finish a load whose cores are awake (Table 19 steps 4 to 6): registers of domain context and the context's log are at reset, slots,
groups, the scaling table and the HBM extents are the context's, and the reply is written. -/
def State.completeLoad (s : State) (c : Nat) : State :=
  let x := s.ctx c
  if x.fenced then s else
  let s := ((s.resetCtxRegs c).setLog c {}).setWord (R.ERR_LOG_ACK c) 0
  let s := x.cores.foldl (fun s k => s.fillSlot c k) s
  let s := s.fillGroups c
  let s := if x.slots = 0 then s else
    (s.wr (R.SCA_TABLE c) F.SCA_TABLE.BASE ((x.extents.getLast?).getD (0, 0)).1).wr (R.SCA_TABLE c) F.SCA_TABLE.SLOTS x.slots
  let hbm := x.extents.foldl (fun (h : Tiled) e => h.erase (e.1 / 2048) (e.2 / 2048)) s.hbm
  let s := { s with hbm := hbm }
  let s := s.setCtx c { x with phase := .loaded, loadCh := none }
  match x.loadCh with
  | none => s
  | some ch => s.reply ch msOk 0 (natLe c 1 ++ natLe x.extents.length 1 ++ natLe 0 6 ++
      x.extents.flatMap (fun e => natLe e.1 8 ++ natLe e.2 8))

/-- Whether some core of a context still wakes. -/
def State.wakes (s : State) (c : Nat) : Bool := (s.ctx c).cores.any (fun k => s.coreState k.phys == csWaking)

/-- Whether a reset in progress holds a part of a load's cores; firmware serves the load when it is over (log entry 33). -/
def State.loadWaits (s : State) (r : LoadReq) : Bool :=
  s.recov.runs.any (fun x => x.level == 4 || (x.level == 3 && x.target == r.part) ||
    (x.level == 2 && r.cores.any (fun k => (s.physOf k.core).any (fun p => coreOfUnit x.target == some p.val))))

/-- LOAD: the admission check (R56), the wake of gated cores and, once all are awake, the reply (Table 19). `image` and `groups` are the
image and the group list as read from host memory. -/
def execLoad (ch : MbxId) (image groups : List Byte) (s : State) : Host.Outcome State Fault Refusal :=
  .next (s.mbxRequest ch 0x100 0x30 (fun s =>
    let r := s.loadReq ch
    if s.reqNat ch 12 4 < 0x30 + 8 * r.cores.length then s.reply ch msLength 0 []
    else if s.loadWaits r then s
    else if s.badLoad ch r then s.reply ch msArg 0 []
    else
      let im := slice image 0 r.bytes
      match s.refusal r im groups, s.freeCtx with
      | some (code, detail), _ => s.reply ch code detail []
      | none, none => s
      | none, some c =>
        let s := s.recordLoad ch c r im groups
        let s := (((s.ctx c).cores.foldl (fun s k => s.wakeCore k.phys) s).admitWakes 0).admitWakes 1
        if s.wakes c then s else s.completeLoad c))

/-- UNLOAD: remove a context that has halted or not started (Table 99). The payload's first byte names it (log entry 30). -/
def execUnload (ch : MbxId) (s : State) : Host.Outcome State Fault Refusal :=
  .next (s.mbxRequest ch 0x101 1 (fun s =>
    let c := s.payload ch 0 1
    let x := s.ctx c
    if 16 ≤ c then s.reply ch msArg 0 []
    else if !x.live || x.fenced || !(x.phase == .loaded || s.ctxHalted c) then s.reply ch msState 0 []
    else (s.removeCtx c).reply ch msOk 0 []))

/-! ### Core power -/

/-- CORE_WAKE: a core's wake ends in IDLE (R58); the loads that waited for it go on, or the jig run it was woken for (R330). -/
def execCoreWake (p : CoreId) (s : State) : Host.Outcome State Fault Refusal :=
  .next (
    if !s.clamp.waking.contains p.val || s.coreState p ≠ csWaking then s else
    let s := ((s.setCoreState p csIdle).admitWakes (p.val / 52)).beginJig p
    s.ctxs.foldl (fun s kc => if kc.2.phase == .loading && !s.wakes kc.1 then s.completeLoad kc.1 else s) s)

/-- CORE_GATE: a core that no resident context is left on goes to GATED (R59). -/
def execCoreGate (p : CoreId) (s : State) : Host.Outcome State Fault Refusal :=
  .next (
    if s.coreState p ≠ csIdle ∨ !(s.residents p).isEmpty ∨ (s.core p).jig.isSome ∨ !(s.entriesOn p).isEmpty then s
    else (s.gateCore p).showAwake (p.val / 52))

/-! ### Start -/

/-- Copy a data section into the scratchpad of the cores it names, before the context runs (R172). -/
def State.copyData (s : State) (c : Nat) (im : List Byte) (d : DataSec) : State :=
  (s.ctx c).cores.foldl (fun s k =>
    if d.core = 0xFFFF ∨ d.core = k.logical then
      s.spdWrite k.phys (some c) (k.base * 0x10000 + d.addr) (slice im d.off d.bytes) false
    else s) s

/-- Set up a core entry (R172): s1 is ARG, everything else zero, and the program counter is the entry point. It runs at once on a core
that runs no other program; else its initial state goes to its save area (R53). -/
def State.startCore (s : State) (k : CtxCore) : State :=
  let p := k.phys.val
  let i := k.slot.val
  let m : SaveImage := { sregs := SMap.putD [] 1 k.arg 0, pc := k.entry }
  let c := s.core p
  let s := s.setCore p (c.setSlot i { c.slot i with started := true, fresh := true })
  let s := match (s.core p).seedP i with
    | none => s
    | some v => (s.setCore p ((s.core p).dropSeed i)).wr (R.CUBE_SR_SEED p i) F.CUBE_SR_SEED.SEED v.toNat
  if s.coreState p = csIdle then s.runSlot p i m else s.saveSlot p i m

/-- Start a context (R172, R173, R177). After a restart its E and C stand (R383). -/
def State.startCtx (s : State) (c : Nat) (im : List Byte) : State :=
  let s := (dataTable im).foldl (fun s d => s.copyData c im d) s
  let s := if (s.ctx c).biv.restored then s.lsBoundary c else s.lsStart c
  let s := s.scaStart c
  let s := s.setCtx c { s.ctx c with phase := .running }
  (s.ctx c).cores.foldl State.startCore s

/-- SQ_START: the front entry starts the bound context (Table 95), after its image has been read again and its CHECK compared. -/
def execSqStart (q : QueueId) (image : List Byte) (s : State) : Host.Outcome State Fault Refusal :=
  .next (s.runEntry q (fun o => o == 1) (fun s _ =>
    let c := s.queueCtx q
    let x := s.ctx c
    let im := slice image 0 x.imageBytes
    if x.phase ≠ .loaded ∨ s.rd (R.BIV_STATUS c) F.BIV_STATUS.STATE = 3 then (s, cqBadState)
    else if imageCheck im ≠ x.check.toNat ∨ leAt im 12 4 ≠ x.check.toNat then (s, cqImageChanged)
    else (s.startCtx c im, cqOk)))

/-! ### Partition mode -/

/-- The partitions' HBM ranges for the mode in force (R193): 92 GiB for each stack, in ascending partition number from 0. -/
def State.layMemory (s : State) : State :=
  let mask := fun (q : Nat) => (upto 8).foldl (fun m i => if s.stackPresent i && s.partOfSite i == q then m + 2 ^ i else m) 0
  let count := fun (q : Nat) => if q < s.mode then popCount (mask q) 8 else 0
  (upto 4).foldl (fun s q =>
    let r := R.MEM_PART q
    if s.mode ≤ q then s.setWord r 0 else
    let base := (upto q).foldl (fun b j => b + 92 * count j) 0
    let s := (s.wr r F.MEM_PART.BASE base).wr r F.MEM_PART.SIZE (92 * count q)
    (s.wr r F.MEM_PART.STACK_MASK (mask q)).wr r F.MEM_PART.S (count q)) s

/-- SET_PARTITION_MODE (R418): with no context loaded and no repair migrating, the new mode lays the HBM out anew, every tile UNWRITTEN. -/
def execSetPartitionMode (ch : MbxId) (s : State) : Host.Outcome State Fault Refusal :=
  .next (s.mbxRequest ch 0x110 8 (fun s =>
    let m := s.payload ch 0 1
    if !s.recov.runs.isEmpty then s else
    let b := if m = 1 then 1 else if m = 2 then 2 else if m = 4 then 4 else 0
    if s.rd R.CHIP_CAP_LIMITS F.CHIP_CAP_LIMITS.PART_MODES &&& b = 0 then s.reply ch msArg 0 []
    else if s.ctxs.any (fun kc => kc.2.phase != .absent) ||
        (upto 8).any (fun i => s.rd (R.PLN_STATUS i) F.PLN_STATUS.REPAIR_STATE == 1) then s.reply ch msState 0 []
    else if m = s.mode then s.reply ch msOk 0 []
    else
      let s := (s.wr R.CHIP_PART F.CHIP_PART.MODE m).layMemory
      let plinths : SMap Plinth := s.plinths.map (fun (kp : Nat × Plinth) => (kp.1, { kp.2 with wcb := [], merging := [] }))
      let s := { s with hbm := {}, plinths := plinths }
      s.reply ch msOk 0 []))

/-! ### Telemetry counters -/

/-- Clear a context's counters on a die (R187): the clear has begun, and its counters are zero. -/
def State.telClear (s : State) (d c : Nat) : State :=
  let lo := R.TEL_CNT d c 0 0 0
  let s := s.resetSlots (fun a => decide (lo ≤ a) && decide (a < lo + 0x8000))
  let x := s.ctx c
  (s.setCtx c { x with telBusy := x.telBusy ||| BitVec.ofNat 2 (2 ^ d) }).wr (R.TEL_CTX d c) F.TEL_CTX.CLEAR_BUSY 1

/-- TEL_CLEAR: the host driver writes TEL_CTX.CLEAR = 1. -/
def execTelClear (die : DieId) (ctx : CtxId) (s : State) : Host.Outcome State Fault Refusal := .next (s.telClear die ctx)

/-- TEL_CLEAR_DONE: the clear completes (R187). -/
def execTelClearDone (die : DieId) (ctx : CtxId) (s : State) : Host.Outcome State Fault Refusal :=
  .next (
    let x := s.ctx ctx
    (s.setCtx ctx { x with telBusy := x.telBusy &&& ~~~(BitVec.ofNat 2 (2 ^ die.val)) }).wr (R.TEL_CTX die ctx) F.TEL_CTX.CLEAR_BUSY 0)

end Sys2Proof.Machine
end

