-- ==== Sys2Proof/Machine/Sha3.lean ====
section
/-!
DEFINITION. SHA3-512, which the manual names for measurements (R396) and takes from FIPS 202: the Keccak permutation over 25
lanes of 64 bits, rate 72 bytes, padding 0x06 … 0x80. PRESUMED: FIPS 202 stands outside the manual (log entry 11).
-/
namespace Sys2Proof.Machine

/-- Rotate a 64-bit lane left. -/
def rotl64 (v n : Nat) : Nat := ((v <<< n) % 2 ^ 64) ||| (v >>> (64 - n))

/-- Lane `x + 5 y` of a Keccak state. -/
def lane (a : List Nat) (x y : Nat) : Nat := a.getD (x % 5 + 5 * (y % 5)) 0

/-- Rotation offsets of the rho step, lane `x + 5 y` in place `x + 5 y`. -/
def keccakRot : List Nat :=
  [0, 1, 62, 28, 27, 36, 44, 6, 55, 20, 3, 10, 43, 25, 39, 41, 45, 15, 21, 8, 18, 2, 61, 56, 14]

/-- Round constants of the iota step. -/
def keccakRc : List Nat :=
  [0x0000000000000001, 0x0000000000008082, 0x800000000000808A, 0x8000000080008000, 0x000000000000808B,
   0x0000000080000001, 0x8000000080008081, 0x8000000000008009, 0x000000000000008A, 0x0000000000000088,
   0x0000000080008009, 0x000000008000000A] ++
  [0x000000008000808B, 0x800000000000008B, 0x8000000000008089, 0x8000000000008003, 0x8000000000008002,
   0x8000000000000080, 0x000000000000800A, 0x800000008000000A, 0x8000000080008081, 0x8000000000008080,
   0x0000000080000001, 0x8000000080008008]

/-- One Keccak round. -/
def keccakRound (a : List Nat) (rc : Nat) : List Nat :=
  let c := (upto 5).map (fun x => lane a x 0 ^^^ lane a x 1 ^^^ lane a x 2 ^^^ lane a x 3 ^^^ lane a x 4)
  let d := (upto 5).map (fun x => c.getD ((x + 4) % 5) 0 ^^^ rotl64 (c.getD ((x + 1) % 5) 0) 1)
  let t := (upto 25).map (fun i => rotl64 (a.getD i 0 ^^^ d.getD (i % 5) 0) (keccakRot.getD i 0))
  -- pi: lane (x, y) comes from lane (x + 3 y, x)
  let b := (upto 25).map (fun i => lane t (i % 5 + 3 * (i / 5)) (i % 5))
  let e := (upto 25).map (fun i =>
    lane b (i % 5) (i / 5) ^^^ ((2 ^ 64 - 1 - lane b (i % 5 + 1) (i / 5)) &&& lane b (i % 5 + 2) (i / 5)))
  match e with
  | [] => []
  | l :: ls => (l ^^^ rc) :: ls

/-- The Keccak permutation. -/
def keccakF (a : List Nat) : List Nat := keccakRc.foldl keccakRound a

/-- The lanes of one 72-byte block. -/
def keccakLanes (blk : List Byte) : List Nat := (upto 9).map (fun i => leAt blk (8 * i) 8)

/-- XOR a block into a state and permute. -/
def absorb (a : List Nat) (blk : List Byte) : List Nat :=
  let ls := keccakLanes blk
  keccakF ((upto 25).map (fun i => a.getD i 0 ^^^ ls.getD i 0))

/-- The padded message: 0x06, zeros, and 0x80 in the last byte of the last block. -/
def sha3Pad (m : List Byte) : List Byte :=
  let r := 72 - m.length % 72
  if r = 1 then m ++ [0x86] else m ++ [0x06] ++ List.replicate (r - 2) 0 ++ [0x80]

/-- SHA3-512 of a message, as 64 bytes. -/
def sha3_512 (m : List Byte) : List Byte :=
  let p := sha3Pad m
  let a := (chunksOf 72 (p.length / 72 + 1) p).foldl absorb (List.replicate 25 0)
  (a.take 8).flatMap (fun l => natLe l 8)

end Sys2Proof.Machine
end

