-- ==== Sys2Proof/Machine/Boot.lean ====
section
/-!
DEFINITION. What starts and resets share: the measurement log (R396), removal of contexts by a larger reset (R354, R357), the end of a
reset (R347, R358, R359), the domains that a chip reset clears (R389, R413), numbering of cores (R30, R342) and the last steps of a
start (Tables 128 and 129).
-/
namespace Sys2Proof.Machine

/-- Ticks of the local counter in a microsecond, a millisecond and a second (R317). -/
def tickUs : Nat := 100
def tickMs : Nat := 100000
def tickS : Nat := 100000000

/-! ### Measurement log -/

/-- Whether the measurement log is full. -/
def State.mlogFull (s : State) : Bool := decide (256 ≤ s.fw.mlog.length)

/-- A measurement entry (R396): 128 bytes. -/
def measureEntry (index kind slot version svn : Nat) (ts : Word) (digest : List Byte) : List Byte :=
  natLe index 4 ++ natLe kind 1 ++ natLe slot 1 ++ natLe 0 2 ++ natLe version 8 ++ natLe svn 4 ++ natLe 0 4 ++ natLe ts.toNat 8 ++
  slice digest 0 64 ++ List.replicate 32 0

/-- Append a measurement entry and extend LOG_DIGEST (R396). -/
def State.measure (s : State) (kind slot version svn : Nat) (digest : List Byte) : State :=
  if s.mlogFull then s else
  let e := measureEntry s.fw.mlog.length kind slot version svn s.time digest
  let s := { s with fw := { s.fw with
    mlog := s.fw.mlog ++ [BitVec.ofNat 1024 (leNat e)]
    digest := BitVec.ofNat 512 (leNat (sha3_512 (natLe s.fw.digest.toNat 64 ++ e))) } }
  s.wr R.MGT_FW F.MGT_FW.LOG_ENTRIES s.fw.mlog.length

/-- The digest of section `kind` of the image in a flash slot. -/
def State.sectionDigest (s : State) (slot kind : Nat) : BitVec 512 :=
  match SMap.look s.flash.digests slot with
  | some l => l.getD (kind - 1) 0
  | none => Config.factoryDigest (slot * 4 + kind)

/-- Measure and load the image of a flash slot (R394, R396). -/
def State.loadImage (s : State) (slot : Nat) : State :=
  let version := (SMap.lookD s.flash.version slot 0).toNat
  let svn := SMap.lookD s.flash.imgSvn slot 0
  let s := [1, 2, 3].foldl (fun s k => s.measure k slot version svn.toNat (natLe (s.sectionDigest slot k).toNat 64)) s
  let s := { s with
    flash := { s.flash with active := slot == 1 }
    fw := { s.fw with
      activatedAt := some s.time
      raiseSvn := SMap.lookD s.flash.raise slot false
      imgSvn := svn } }
  (s.wr R.MGT_FW F.MGT_FW.VERSION version).wr R.MGT_BOOT F.MGT_BOOT.ACTIVE_SLOT slot

/-! ### Contexts that a larger reset removes -/

/-- A reset above context level removes a context (R347, R357): a context with no error of its own takes a record of `cause`, QUEUED; its
event tells the level (R367). A load in progress is answered BAD_STATE (log entry 33). -/
def State.wipeCtx (s : State) (c cause unit level : Nat) : State :=
  let x := s.ctx c
  match x.phase with
  | .absent => s
  | .loading =>
    let s := match x.loadCh with
      | some ch => s.reply ch msState 0 []
      | none => s
    s.setCtx c {}
  | _ => ((if x.cause.isSome then s else s.raiseFrom c cause unit 0 0 false).ctxErrorEvent c level).removeCtx c

/-! ### The end of a reset -/

/-- Whether a reset removes the context or unit of a record (R347). -/
def State.inDomain (s : State) (run : ResetRun) (d : Nat) (r : ErrRec) : Bool :=
  let own := s.runOf d r
  run.level == 4 || (own.level == run.level && own.target == run.target) || s.contains run own

/-- QUEUED records of a reset's domain become COVERED (R347); `pre` is the state before the reset removed anything. -/
def State.coverIn (s pre : State) (run : ResetRun) : State :=
  let one := fun (d : Nat) (e : Nat × ErrRec) =>
    if e.2.st == .queued && decide (1 ≤ e.2.sev) && pre.inDomain run d e.2 then (e.1, { e.2 with st := .covered }) else e
  let logs : SMap ErrLog := s.logs.map (fun (kl : Nat × ErrLog) => (kl.1, { kl.2 with entries := kl.2.entries.map (one kl.1) }))
  { s with logs := logs }

/-- The reset in progress of a level and target. -/
def State.runAt (s : State) (level target : Nat) : Option ResetRun :=
  s.recov.runs.find? (fun x => x.level == level && x.target == target)

/-- SEQ of the cairn that a reset in progress has collected, all ones if it has collected none (R359). -/
def State.cairnSeqOf (s : State) (run : ResetRun) : Nat :=
  match (s.runAt run.level run.target).bind ResetRun.cseq with
  | some n => n.toNat
  | none => 0xFFFFFFFF

/-- Whether LOST_ACTION of log `d` clears with the end of a reset (R349): it is the reset that LOST_ACTION demands, or a chip reset that has
taken that one's place (R358). -/
def State.clearsLost (s : State) (run : ResetRun) (d : Nat) : Bool :=
  ((s.runAt run.level run.target).any ResetRun.lost && d == run.log.val) ||
    (run.level == 4 && decide (16 ≤ d) && decide (d < 20) && (s.log d).active.isNone)

/-- A reset's domain is ready (R347, R358, R359): its run ends, the records it covers are marked, LOST_ACTION clears where this reset was
demanded by it (R349), and the RESET requests it has served are answered with the level done. `pre` is the state before the reset removed
anything. -/
def State.resetDone (s pre : State) (run : ResetRun) : State :=
  let served := fun (e : MbxId × Nat × Nat) =>
    (e.2.1 == run.level && e.2.2 == run.target) || pre.contains run { level := e.2.1, target := e.2.2, log := 0, start := 0 }
  let done := s.recov.mboxReset.filter served
  let s := s.coverIn pre run
  let seq := s.cairnSeqOf run
  let logs : SMap ErrLog := s.logs.map (fun (kl : Nat × ErrLog) => (kl.1, if s.clearsLost run kl.1 then { kl.2 with lost := false } else kl.2))
  let s := { s with logs := logs }
  let s := { s with recov := { s.recov with
    runs := s.recov.runs.filter (fun x => !(x.level == run.level && x.target == run.target))
    mboxReset := s.recov.mboxReset.filter (fun e => !served e) } }
  let s := done.foldl (fun s e => s.reply e.1 msOk 0 (natLe (run.level - 1) 2 ++ natLe 0 2 ++ natLe seq 4)) s
  s.showEsc

/-! ### The domains of a chip reset -/

/-- Registers whose value is fused: CHIP_ID, the masks of CHIP_CAP_UNITS, CHIP_CAP_LIMITS, and CLP_CTRL at the caps. -/
def State.setFused (s : State) : State :=
  let f := s.fuses
  let cap := f.clkCap + f.pwrCap * 2 ^ 11
  let s := s.setWord R.CHIP_ID (BitVec.ofNat 64 (f.part.toNat + f.stepping.toNat * 2 ^ 16 + 2 * 2 ^ 24))
  let s := s.setWord R.CHIP_CAP_UNITS (BitVec.ofNat 64 (f.stackMask.toNat * 2 ^ 16 + f.ropes.toNat * 2 ^ 24 + f.ridges.toNat * 2 ^ 48))
  let s := s.setWord R.CHIP_CAP_LIMITS (BitVec.ofNat 64 (cap + f.modes.toNat * 2 ^ 22 + 16 * 2 ^ 25))
  let s := s.setWord R.CLP_CTRL (BitVec.ofNat 64 cap)
  s.wr R.MGT_FW F.MGT_FW.SVN_FLOOR f.svn.toNat

/-- Writes that a plinth has accepted reach their tiles before the plinth is reset (R352, R354); those of a STOPPED stack stay. -/
def State.flushPlinth (s : State) (i : Nat) : State :=
  if s.stopped i then s else
  let s := (s.setPlinth i { s.plinth i with hold := none }).replayShelf i
  (s.plinth i).wcb.foldl (fun s e => s.wcbMerge e.tile) s

/-- All plinths. -/
def State.flushPlinths (s : State) : State := (upto 8).foldl State.flushPlinth s

/-- What a plinth keeps through a reset of its controller: accepted writes of a STOPPED stack, and its saved channel settings (R356). -/
def Plinth.afterReset (k : Plinth) : Plinth :=
  { wcb := k.wcb, stamp := k.stamp, parked := k.parked.filter (fun x => match x with | .read .. => false | .merge .. => true | .whole .. => true), stoppedAt := k.stoppedAt, notices := k.notices, chans := k.chans,
    trained := k.trained, temp := k.temp }

/-- Return a plinth's registers to their reset values; RWS fields stay (R413), and the sensors' reading with the state it gives. -/
def State.resetPlinth (s : State) (i : Nat) : State :=
  let r := R.PLN_STATUS i
  let t := s.rd r F.PLN_STATUS.TEMP
  let h := s.rd r F.PLN_STATUS.THERM_STATE
  let s := s.resetSlotsKeep (fun a => decide (r ≤ a) && decide (a < r + 0x100000))
  ((s.wr r F.PLN_STATUS.TEMP t).wr r F.PLN_STATUS.THERM_STATE h).setPlinth i (s.plinth i).afterReset

/-- A stack's channels are retrained with their saved settings at a partition reset (R356). -/
def State.retrainStack (s : State) (i : Nat) : State :=
  let t := s.rd (R.PLN_STATUS i) F.PLN_STATUS.TEMP
  s.setPlinth i { s.plinth i with chans := [], trained := s.time, temp := (s.plinth i).temp.map (fun _ => t) }

/-- Return a port's registers to their reset values and train it again on the fast path (R245, R356). -/
def State.resetPort (s : State) (w : Nat) : State :=
  let r := R.LNK_STATUS w
  let s := s.portLeave w psDown
  let s := s.resetSlotsKeep (fun a => decide (r ≤ a) && decide (a < r + 0x10000))
  if s.mayTrain w then s.startTraining w true else s

/-- Jig runs are abandoned (R332), contexts leave, and what plinths have accepted reaches DRAM, before a chip reset clears the domains (R389, R390). The events of the
contexts are written when the chip is ready. -/
def State.clearContexts (s : State) : State :=
  let s := (upto 104).foldl State.abandonRun s
  let s := (upto 16).foldl (fun s c => s.wipeCtx c cPartitionReset 0 4) s
  s.flushPlinths

/-- Every domain except the always-on domain is reset (R389, R413). A warm reset keeps RWS fields, the logs, HBM contents, saved training
settings and the CXL link; a cold one keeps none of these but what flash holds. -/
def State.resetDomains (s : State) (cold : Bool) : State :=
  let link := s.word R.CXL_LINK
  let s :=
    if cold then s.resetSlots (fun a => match domOf a with
      | some .aon => false
      | none => false
      | _ => true)
    else s.resetSlotsKeep (fun a => match domOf a with
      | some .chip => true
      | some .engine => true
      | some .context => true
      | _ => false)
  let s := s.setFused
  let s := if cold then s else s.setWord R.CXL_LINK (BitVec.ofNat 64 (bits link.toNat 0 3))
  let cores : SMap Core := (s.cores.filter (fun (kc : Nat × Core) => !cold && !kc.2.unfenceLeft.isEmpty)).map
    (fun (kc : Nat × Core) => (kc.1, { unfenceLeft := kc.2.unfenceLeft }))
  let plinths : SMap Plinth := if cold then [] else s.plinths.map (fun (kp : Nat × Plinth) => (kp.1, kp.2.afterReset))
  let ports : SMap Port := s.ports.filterMap (fun (kp : Nat × Port) =>
    if kp.2.settings.isSome && !cold then some (kp.1, { settings := kp.2.settings, saveDue := kp.2.saveDue }) else none)
  { s with
    cores := cores
    logical := []
    ctxs := []
    hbm := if cold then {} else s.hbm
    ue := if cold then [] else s.ue
    plinths := plinths
    out := []
    nextTag := 0
    prog := []
    retry := []
    incs := []
    ports := ports
    pauses := []
    seen := []
    noticeSeq := 0
    wits := []
    queues := []
    msix := if cold then [] else s.msix
    evtLost := false
    mbx := if cold then [] else s.mbx
    snoop := []
    biSent := []
    lineReqs := []
    biWait := []
    logs := if cold then [] else s.logs
    jig := { s.jig with lastStart := none, awaiting := [], results := [], unf := if cold then [] else s.jig.unf } }

/-- Put the fields that a cold start takes from flash in place (R212, R337, R342). -/
def State.fromFlash (s : State) : State :=
  let f := s.flash
  let s := (s.wr R.JIG_PKG F.JIG_PKG.EPOCH f.epoch.toNat).wr R.JIG_PKG F.JIG_PKG.UNF_EPOCH f.unfEpoch.toNat
  let s := s.setWord (R.JIG_FENCED 0) (BitVec.ofNat 64 (f.fenced.toNat % 2 ^ 64))
  let s := s.setWord (R.JIG_FENCED 1) (BitVec.ofNat 64 (f.fenced.toNat / 2 ^ 64))
  let s := (onesOf f.fenced.toNat 104).foldl (fun s p => s.wr (R.JIG_CORE_STATUS p) F.JIG_CORE_STATUS.HEALTH 2) s
  let s := f.links.foldl (fun s e =>
    (s.setPort e.1 { s.port e.1 with settings := some e.2 }).wr (R.LNK_STATUS e.1) F.LNK_STATUS.SAVED_VALID 1) s
  f.repair.foldl (fun s e =>
    let (st, ch, ex, _) := e.2
    let r := R.PLN_STATUS e.1
    let s := s.wr r F.PLN_STATUS.EXHAUSTED (if ex then 1 else 0)
    if st = 0 then s else
    let s := (s.wr r F.PLN_STATUS.REPAIR_STATE 2).wr r F.PLN_STATUS.REPAIR_CH ch.toNat
    let s := s.wr (R.PLN_REPAIR e.1) F.PLN_REPAIR.WATERMARK 12189696
    s.wr (R.PLN_CHAN_ERR e.1 ch.toNat) F.PLN_CHAN_ERR.IN_SERVICE 0) s

/-! ### Numbering -/

/-- The cores of a die that serve, in ascending physical order (R30, R342): enabled cores that are not fenced, and as many free spares as
enabled ones are fenced. -/
def State.serving (s : State) (d : Nat) : List Nat :=
  let here := (natsFrom (52 * d) 52).filter s.corePresent
  let spare := fun (p : Nat) => s.fuses.spares.getLsbD p
  let fenced := here.filter (fun p => !spare p && s.isFenced p)
  let used := (here.filter (fun p => spare p && !s.isFenced p)).take fenced.length
  here.filter (fun p => (!spare p && !s.isFenced p) || used.contains p)

/-- Number the cores (R30, R342), and show each core's place in its CORE_PHYS. -/
def State.number (s : State) : State :=
  let put := fun (d : Nat) => (s.serving d).zip (natsFrom (d * s.perDie) s.perDie)
  let logical := (put 0 ++ put 1).foldl (fun (m : SMap CoreId) e => SMap.put m e.2 (Fin.ofNat 104 e.1)) []
  let s := { s with logical := logical }
  let s := ((upto 104).filter s.corePresent).foldl (fun s p =>
    let spare := s.fuses.spares.getLsbD p && (s.logicalOf p).isSome
    let v := corePhysWord p + (if spare then 2 ^ 14 else 0)
    let s := s.setWord (R.CORE_PHYS p) (BitVec.ofNat 64 v)
    if s.isFenced p then s.setCoreState p csFenced else s) s
  s.showCap

/-! ### The last steps of a start -/

/-- The core and network-on-chip PLLs of both dies lock and the bridge comes up (Table 128 step 6, Table 129 step 3). -/
def State.lockClocks (s : State) : State :=
  let s := (upto 2).foldl (fun s d =>
    let r := R.DIE_STATUS d
    ((s.wr r F.DIE_STATUS.CORE_PLL_LOCK 1).wr r F.DIE_STATUS.NOC_PLL_LOCK 1).wr r F.DIE_STATUS.BRIDGE_UP 1) s
  s.clampStart

/-- All ports that can train start to: cold in a cold start, on the fast path in a warm one (R245; Table 128 step 9, Table 129 step 6). -/
def State.trainPorts (s : State) (fast : Bool) : State :=
  (upto 32).foldl (fun s w => if s.mayTrain w && !s.portUp w then s.startTraining w fast else s) s

/-- Show the step of a start in progress. -/
def State.stage (s : State) (v : Nat) : State := s.wr R.MGT_BOOT F.MGT_BOOT.STAGE v

/-- A core fails its self-test (Table 128): a record of its check's class, and the fence (R340). -/
def State.failTest (s : State) (p cls : Nat) : State := (s.file cls 0 (uCore p) none 0 0).fenceCore p

end Sys2Proof.Machine
end

