-- ==== Sys2Proof/Machine/Jigs.lean ====
section
/-!
DEFINITION. Jig packages and runs (R328 to R338), health windows (R325), and the substitution of fenced cores (R340, R341). A jig's
pattern leaves no trace in any context (R333): the commands that core `p` executes between the start and the end of a run are the
pattern's.
-/
namespace Sys2Proof.Machine

/-- A register field whose 0 selects a default. -/
def State.orDefault (s : State) (r : Nat) (f : Field) (d : Nat) : Nat :=
  let v := s.rd r f
  if v = 0 then d else v

/-- PERIOD_S in ticks (R334). -/
def State.jigPeriod (s : State) : Nat := s.orDefault R.JIG_CTRL F.JIG_CTRL.PERIOD_S 60 * tickS

/-- Variants per pattern of the installed package: 16 for the factory's default package (R339). -/
def State.jigVariants (s : State) : Nat := if s.jig.store.isEmpty then 16 else leAt s.jig.store 0x14 2

/-- Whether a jig runs on the chip. -/
def State.jigRuns (s : State) : Bool := s.cores.any (fun kc => kc.2.jig.isSome)

/-- Local counter value at the last completed run of core `p`. -/
def State.lastRun (s : State) (p : Nat) : Nat := s.rd (R.JIG_CORE_TIME p) F.JIG_CORE_TIME.LAST_RUN

/-- Whether core `p` offers a slot for a run (R329, R338): GATED, or in WAIT_IDLE for at least ENTRY_US, or fenced and under test, with
its die at the clock cap and no stack of the die in THROTTLE or STOPPED. The cubes of a core in WAIT_IDLE have nothing left to do for the
waiting context: its accumulators are saved and used (DEDUCED, log entry 94). -/
def State.offersSlot (s : State) (p : Nat) : Bool :=
  let d := p / 52
  let idle := match s.waiting p with
    | some (_, w) => (match w.idleAt with
      | some t => s.coreState p == csWaitIdle &&
          decide (s.orDefault R.JIG_CTRL F.JIG_CTRL.ENTRY_US 90 * tickUs ≤ (s.time - t).toNat) &&
          (s.core p).cubeQ.isEmpty && (s.core p).upds.isEmpty
      | none => false)
    | none => false
  let free := if s.isFenced p then !(s.core p).unfenceLeft.isEmpty && s.coreState p == csFenced else s.coreState p == csGated || idle
  s.corePresent p && free && s.clock d == s.rd R.CHIP_CAP_LIMITS F.CHIP_CAP_LIMITS.CLK_CAP_MHZ && decide (s.stackHeat d < 2)

/-- Whether a run may start on the chip (R329): EN, a package, no run in progress, and GAP_US since the last start. -/
def State.jigMayStart (s : State) : Bool :=
  let gap := match s.jig.lastStart with
    | some t => decide (s.orDefault R.JIG_CTRL F.JIG_CTRL.GAP_US 500 * tickUs ≤ (s.time - t).toNat)
    | none => true
  s.flag R.MGT_BOOT F.MGT_BOOT.READY && s.flag R.JIG_CTRL F.JIG_CTRL.EN && !s.jig.inject.isEmpty && !s.jigRuns && gap

/-- Whether core `p` is the one the base-camp core starts (R329): a targeted one first, else the oldest LAST_RUN, ties to the lower number. -/
def State.jigChosen (s : State) (p : Nat) : Bool :=
  let l := (upto 104).filter s.offersSlot
  let t := l.filter (fun q => s.flag (R.JIG_CORE_STATUS q) F.JIG_CORE_STATUS.TARGETED)
  if t.isEmpty then
    l.contains p && l.all (fun q => decide (s.lastRun p < s.lastRun q) || (s.lastRun p == s.lastRun q && decide (p ≤ q)))
  else t.contains p

/-- JIG_RUN_START: the base-camp core starts a run on an eligible core (R329, R330). `variant` comes from the on-die random generator. A core
without power is woken first, under the limits of R58; its pattern begins with CORE_WAKE. -/
def execJigRunStart (p : CoreId) (variant : BitVec 4) (s : State) : Host.Outcome State Fault Refusal :=
  .next (
    let k := s.core p
    let test := s.isFenced p
    if !s.jigMayStart || !s.jigChosen p || (!test && decide (s.jigVariants ≤ variant.toNat)) then s else
    let runs := s.rd (R.JIG_CORE_STATUS p) F.JIG_CORE_STATUS.RUNS
    let j := if test then (k.unfenceLeft.head?).getD 0 else runs % s.jig.inject.length
    let run : JigRun := {
      start := s.time, pattern := j, variant := if test then 0 else variant.toNat,
      inject := (if test then (patTable s.jig.unf).map JigPat.inject else s.jig.inject).getD j 0, gated := s.coreState p != csWaitIdle, unfence := test }
    let s := { s.setCore p { k with jig := some run } with jig := { s.jig with lastStart := some s.time } }
    let s := (s.wr R.JIG_STATUS F.JIG_STATUS.STATE 1).wr R.JIG_STATUS F.JIG_STATUS.CORE p
    if run.gated then ((s.setCoreState p csWaking).showAwake (p.val / 52)).admitWakes (p.val / 52) else s.beginJig p)

/-- Count the cores marked OVERDUE (R334). -/
def State.countOverdue (s : State) : State :=
  s.wr R.JIG_STATUS F.JIG_STATUS.OVERDUE
    ((upto 104).filter (fun p => s.flag (R.JIG_CORE_STATUS p) F.JIG_CORE_STATUS.OVERDUE)).length

/-- HEALTH CLEAR: the 24 h counts are zero (R325). -/
def State.clearHealth (s : State) (p : Nat) : State :=
  let r := R.JIG_CORE_STATUS p
  ((s.wr r F.JIG_CORE_STATUS.HEALTH 0).wr r F.JIG_CORE_STATUS.RESIDUE_24H 0).wr r F.JIG_CORE_STATUS.STORE_24H 0

/-- A core that passed every pattern of an UNFENCE package leaves the fence list and is a free spare (R338): a logical number that no spare
has taken yet goes on waiting for one. -/
def State.unfence (s : State) (p : Nat) : State :=
  let r := R.JIG_FENCED (p / 64)
  let s := s.wr r F.JIG_FENCED.MASK (s.rd r F.JIG_FENCED.MASK - 1 <<< (p % 64))
  let s := (s.clearHealth p).setCoreState p csGated
  { s with
    jig := { s.jig with fenceDue := true }
    logical := s.logical.filter (fun e => e.2.val != p) }.showCap

/-- A test run has ended: the core goes on to the next pattern, leaves the fence list after the last, or stays fenced (R338). -/
def State.testEnd (s : State) (p : Nat) (pass : Bool) : State :=
  let k := s.core p
  let left := if pass then k.unfenceLeft.drop 1 else []
  let s := s.setCore p { k with unfenceLeft := left }
  if !pass then s.wr (R.JIG_CORE_STATUS p) F.JIG_CORE_STATUS.HEALTH 2
  else if left.isEmpty then s.unfence p else s

/-- A run has completed with PASS (1), FAIL (2) or TIMEOUT (3) (R330, R331): the counts, the core's way back, and the fence of a core
that did not pass (R340). -/
def State.jigEnd (s : State) (p result : Nat) : State :=
  match (s.core p).jig with
  | none => s
  | some run =>
    let r := R.JIG_CORE_STATUS p
    let s := (s.count r F.JIG_CORE_STATUS.RUNS 1).count R.JIG_STATUS F.JIG_STATUS.RUNS 1
    let s := ((s.wr r F.JIG_CORE_STATUS.LAST_RESULT result).wr r F.JIG_CORE_STATUS.TARGETED 0).wr r F.JIG_CORE_STATUS.OVERDUE 0
    let s := (s.wr (R.JIG_CORE_TIME p) F.JIG_CORE_TIME.LAST_RUN s.time.toNat).countOverdue
    let s := { s with jig := { s.jig with results := SMap.put s.jig.results p result } }
    let s := s.leaveJig p
    if run.unfence then s.testEnd p (result == 1) else if result = 1 then s else s.fenceCore p

/-- Whether the output region holds the expected signature (Table 105 step 5), and whether a seal of it fails or it is poisoned. -/
def State.jigOutput (s : State) (p : Nat) (r : JigRun) : State × Bool :=
  let x := s.runPat r
  match s.spdRead p (some jigCtx) (benchWork + x.out) x.outN with
  | (s, d, po) =>
    let s := if po then s.onJig p (fun r => { r with bench := true }) else s
    (s, crc64 0 d == leNat (s.pkgBytes r.unfence (x.exp + 8 * r.variant) 8))

/-- Whether a seal of the save area fails or a tile of it is poisoned: its contents are the waiting context's and are read back. -/
def State.benchBad (s : State) (p : Nat) : Bool :=
  let t := (s.core p).spd
  (upto 66).any (fun j => (t.info (benchSave / 2048 + j)).st != .sealed ||
    sealOf (t.data (benchSave / 2048 + j)) != (t.info (benchSave / 2048 + j)).sl)

/-- JIG_RUN_END: the pattern has halted and its work has drained, or it has raised a context error; its signature is compared and the outcome
follows (R331). -/
def execJigRunEnd (p : CoreId) (s : State) : Host.Outcome State Fault Refusal :=
  .next (
    match (s.core p).jig with
    | none => s
    | some r =>
      if !s.jigging p || !(r.ctxErr || (r.halted && s.drained p jigCtx)) then s else
      let (s, sig) := s.jigOutput p r
      match (s.core p).jig with
      | none => s
      | some r =>
        let residues := r.cubes == (if r.inject = 1 then 1 else 0) && r.vecs == (if r.inject = 2 then 1 else 0)
        let bench := r.bench || (!r.gated && s.benchBad p)
        s.jigEnd p (if sig && !bench && !r.ctxErr && r.parity == 0 && residues then 1 else 2))

/-- JIG_TIMEOUT: the pattern of a run, step 4 of Table 105, exceeds 400 µs (R331). -/
def execJigTimeout (p : CoreId) (s : State) : Host.Outcome State Fault Refusal :=
  .next (
    match (s.core p).jig with
    | none => s
    | some r => match r.began with
      | none => s
      | some t => if (s.time - t).toNat ≤ 400 * tickUs then s else s.jigEnd p 3)

/-- Request a targeted run on core `p` (R334). -/
def State.target (s : State) (p : Nat) : State :=
  if s.corePresent p && !s.isFenced p then s.wr (R.JIG_CORE_STATUS p) F.JIG_CORE_STATUS.TARGETED 1 else s

/-- JIG_CMD_RUN: the host writes JIG_CMD with RUN 1 and a core. -/
def execJigCmdRun (p : CoreId) (s : State) : Host.Outcome State Fault Refusal :=
  .next ((s.wr R.JIG_CMD F.JIG_CMD.CORE p).target p)

/-- JIG_OVERDUE: the last completed run of a core lies more than PERIOD_S in the past (R334). -/
def execJigOverdue (p : CoreId) (s : State) : Host.Outcome State Fault Refusal :=
  .next (
    if !s.corePresent p || decide (s.time.toNat ≤ s.lastRun p + s.jigPeriod) then s
    else (s.wr (R.JIG_CORE_STATUS p) F.JIG_CORE_STATUS.OVERDUE 1).countOverdue)

/-- JIG_PKG_FLASH: the installed package is copied to both flash devices, then FLASHED is set (R337). -/
def execJigPkgFlash (s : State) : Host.Outcome State Fault Refusal :=
  .next (
    if !s.jig.flashDue then s else
    let s := { s with
      jig := { s.jig with flashDue := false }
      flash := { s.flash with pkg := some s.jig.store, epoch := BitVec.ofNat 32 (s.rd R.JIG_PKG F.JIG_PKG.EPOCH) } }
    (s.wr R.JIG_PKG_INFO F.JIG_PKG_INFO.FLASHED 1).emit (.flash 1))

/-- HEALTH_WINDOW_EXPIRE: the 24 h window of a SUSPECT core passes with no failure after the one that opened it (R325). -/
def execHealthWindowExpire (p : CoreId) (s : State) : Host.Outcome State Fault Refusal :=
  .next (
    let r := R.JIG_CORE_STATUS p
    let n := s.rd r F.JIG_CORE_STATUS.RESIDUE_24H + s.rd r F.JIG_CORE_STATUS.STORE_24H
    if s.rd r F.JIG_CORE_STATUS.HEALTH ≠ 1 ∨ s.inWindow p ∨ 1 < n then s
    else s.clearHealth p)

/-- Whether a free spare qualifies (R341): its last result is a PASS within PERIOD_S. An abandoned run is no result (R331). -/
def State.qualifies (s : State) (q : Nat) : Bool :=
  SMap.lookD s.jig.results q 0 == 1 && decide (s.time.toNat ≤ s.lastRun q + s.jigPeriod)

/-- The fenced core of a die whose logical number is served next: the one fenced first, of several in one cycle the one with the lowest
number (R342). -/
def State.nextAwaiting (s : State) (d : Nat) : Option (CoreId × Nat × Word) :=
  let l := s.jig.awaiting.filter (fun e => e.1.val / 52 == d)
  l.find? (fun e => l.all (fun x => decide (e.2.2.toNat < x.2.2.toNat) || (e.2.2 == x.2.2 && decide (e.2.1 ≤ x.2.1))))

/-- SPARE_SUBSTITUTE: a fenced core's logical number goes to the lowest qualifying spare of its die; a free spare that does not qualify
first runs a targeted jig; with no free spare the number stays vacant (R31, R341, R342). A core that has left the fence list since is a
spare like any other (R338). -/
def execSpareSubstitute (p : CoreId) (s : State) : Host.Outcome State Fault Refusal :=
  .next (
    let d := p.val / 52
    match s.nextAwaiting d with
    | none => s
    | some (q, n, _) =>
      if q ≠ p ∨ s.coreState p = csFencing then s else
      let free := s.freeSpares d
      let s' := { s with jig := { s.jig with awaiting := s.jig.awaiting.filter (fun e => e.1 != p) } }
      match free.find? s.qualifies, free.head? with
      | some x, _ =>
        let s := { s' with logical := SMap.put s'.logical n (Fin.ofNat 104 x) }
        (s.wr (R.CORE_PHYS x) F.CORE_PHYS.SPARE_IN_USE 1).showCap
      | none, some x => s.target x
      | none, none => { s' with logical := SMap.del s'.logical n }.showCap)

/-- FENCE_LIST_FLASH: the fence list is copied to both flash devices (Table 108 step 7). -/
def execFenceListFlash (s : State) : Host.Outcome State Fault Refusal :=
  .next (
    if !s.jig.fenceDue then s else
    let m := s.rd (R.JIG_FENCED 0) F.JIG_FENCED.MASK + s.rd (R.JIG_FENCED 1) F.JIG_FENCED.MASK * 2 ^ 64
    let s := { s with
      jig := { s.jig with fenceDue := false }
      flash := { s.flash with fenced := BitVec.ofNat 104 m } }
    s.emit (.flash 2))

/-! ### Packages -/

/-- JIG_BOUNDS (Table 107 order 2) for a package that was asked for with `req` bytes: sizes, counts, every table and image within the
package, and every output region, of at most 64 KiB, within the workspace (log entry 94). -/
def jigBounds (k : List Byte) (req : Nat) : Bool :=
  let n := leAt k 0xC 4
  let pats := leAt k 0x12 2
  let vars := leAt k 0x14 2
  let inside := fun (a b : Nat) => decide (a + b ≤ n)
  n == req && decide (n ≤ 0x400000) && decide (0x1C80 ≤ n) && decide (1 ≤ pats) && decide (pats ≤ 64) && decide (1 ≤ vars) &&
  decide (vars ≤ 16) && inside (leAt k 0x38 4) (32 * pats) &&
  (patTable k).all (fun x => inside x.img x.bytes && decide (x.bytes ≤ 0x40000) && decide (x.outN ≤ 0x10000) && decide (x.out + x.outN ≤ benchRoom) &&
    inside x.exp (8 * vars) && decide (x.inject ≤ 2))

/-- JIG_DECODE (Table 107 order 8): each image passes Table 60, orders 1 to 8, against the 352 KiB workspace. -/
def jigDecode (k : List Byte) : Bool :=
  (patTable k).all (fun x =>
    let im := slice k x.img x.bytes
    let cores : List LoadCore := match coreTable im with
      | [e] => [{ core := e.core, slot := e.slot, gran := 5, cells := 1024, room := 0x58000 }]
      | _ => []
    let r : LoadReq := {
      bytes := x.bytes, part := 0, hbm := 0, slots := 0, tags := 0, ports := 0, groups := 0, cores := cores }
    imageFails im r true == 0)

/-- Whether identity record 0 fails its CHECK. -/
def State.identBad (s : State) (i : Nat) : Bool := bits (s.rd R.CHIP_IDENT_BAD F.CHIP_IDENT_BAD.BAD) i 1 == 1

/-- The bytes that the signature of a package or firmware image covers: all but 0x0A60 to 0x1C7F (R335, R394). -/
def signedBytes (k : List Byte) : List Byte := k.take 0xA60 ++ k.drop 0x1C80

/-- Whether the key of a package or image is the one whose hash is fused. -/
def keyFits (k : List Byte) (fused : BitVec 512) : Bool := sha3_512 (slice k 0x40 2592) == natLe fused.toNat 64

/-- Whether the signature of a package or image verifies under its key. -/
def sigFits (k : List Byte) : Bool := Config.sigVerifies (slice k 0x40 2592) (signedBytes k) (slice k 0xA60 4627)

/-- The sub-code of the first package check that fails (Table 107), 0 if all pass. -/
def State.pkgFails (s : State) (k : List Byte) (req : Nat) : Nat :=
  let un := bits (leAt k 6 2) 0 1 == 1
  let epoch := leAt k 8 4
  let ident := (s.word (R.CHIP_IDENT 0)).toNat + (s.word (R.CHIP_IDENT 0 + 8)).toNat * 2 ^ 64
  if leAt k 0 4 ≠ 0x5047494A ∨ leAt k 4 2 ≠ 1 then 1
  else if !jigBounds k req then 2
  else if !keyFits k s.fuses.jigKey then 3
  else if !sigFits k then 4
  else if (if un then epoch ≤ s.rd R.JIG_PKG F.JIG_PKG.UNF_EPOCH else epoch < s.rd R.JIG_PKG F.JIG_PKG.EPOCH) then 5
  else if leAt k 0x10 2 ≠ s.rd R.CHIP_ID F.CHIP_ID.STEPPING then 6
  else if un ∧ (leAt k 0x28 16 ≠ ident ∨ s.identBad 0) then 7
  else if !jigDecode k then 8
  else 0

/-- Show the installed package (JIG_PKG_INFO). -/
def State.showPkg (s : State) : State :=
  (s.wr R.JIG_PKG_INFO F.JIG_PKG_INFO.N_PAT s.jig.inject.length).wr R.JIG_PKG_INFO F.JIG_PKG_INFO.N_VAR s.jigVariants

/-- Sub-code LOG_FULL (R396). -/
def subLogFull : Nat := (Config.subCode 1).toNat

/-- JIG_INSTALL: read a package through the host window and check it (R336); install it (R337), or put the fenced cores it names under
test (R338). -/
def execJigInstall (ch : MbxId) (pkg : List Byte) (s : State) : Host.Outcome State Fault Refusal :=
  .next (s.mbxRequest ch 0x220 12 (fun s =>
    if s.mlogFull then s.reply ch msState subLogFull [] else
    let k := slice pkg 0 (s.payload ch 8 4)
    let code := s.pkgFails k (s.payload ch 8 4)
    if code ≠ 0 then s.reply ch msArg code [] else
    let inj := (patTable k).map JigPat.inject
    let epoch := leAt k 8 4
    if bits (leAt k 6 2) 0 1 = 1 then
      let s := { s with
        jig := { s.jig with unf := k }
        flash := { s.flash with unfEpoch := BitVec.ofNat 32 epoch } }
      let s := s.wr R.JIG_PKG F.JIG_PKG.UNF_EPOCH epoch
      let s := ((onesOf (leAt k 0x18 16) 104).filter s.isFenced).foldl (fun s p =>
        (s.setCore p { s.core p with unfenceLeft := upto inj.length }).wr (R.JIG_CORE_STATUS p) F.JIG_CORE_STATUS.HEALTH 3) s
      s.reply ch msOk 0 []
    else
      let s := { s with jig := { s.jig with store := k, default := false, inject := inj, flashDue := true } }
      let s := (s.wr R.JIG_PKG F.JIG_PKG.EPOCH epoch).wr R.JIG_PKG_INFO F.JIG_PKG_INFO.FLASHED 0
      let s := s.showPkg.measure 4 0xFF epoch 0 (sha3_512 k)
      s.reply ch msOk 0 []))

end Sys2Proof.Machine
end

