-- ==== Sys2Proof/Machine/RegFile.lean ====
section
/-!
DEFINITION. The register file as the host reaches it through BAR0 (R4, R9 to R11, R405 to R416): what a register reads, what a write
does, accesses that cross into a stopped clock domain (R386), and the read-back apertures (R419 to R422).
-/
namespace Sys2Proof.Machine

/-! ### Windows -/

/-- A BAR0 offset with a logical core window replaced by the physical window it names (Table 138); none where the logical number is
vacant. -/
def State.unalias (s : State) (off : Nat) : Option Nat :=
  if 0x04000000 ≤ off ∧ off < 0x04600000 then
    (s.physOf ((off - 0x04000000) / 0x10000)).map (fun p => coreWindow p.val + off % 0x10000)
  else some off

/-- Whether an offset lies in the window of an absent core, plinth site or port (R4). -/
def State.absentWindow (s : State) (off : Nat) : Bool :=
  match coreOfOff off with
  | some p => !s.corePresent p
  | none =>
    if 0x08000000 ≤ off ∧ off < 0x08800000 then !s.stackPresent ((off - 0x08000000) / 0x100000)
    else if 0x09000000 ≤ off ∧ off < 0x09200000 then !s.portPresent ((off - 0x09000000) / 0x10000)
    else false

/-- The die that an access to an offset crosses into, and whether it needs that die's core clock; none for the always-on domain, the
mailbox pages and the chip-global window. -/
def dieOfOff (off : Nat) : Option (Nat × Bool) :=
  match coreOfOff off with
  | some p => some (p / 52, true)
  | none =>
    if 0x01000000 ≤ off ∧ off < 0x02000000 then some ((off - 0x01000000) / 0x800000, false)
    else if 0x08000000 ≤ off ∧ off < 0x08800000 then some ((off - 0x08000000) / 0x400000, false)
    else if 0x09000000 ≤ off ∧ off < 0x09200000 then
      let w := (off - 0x09000000) / 0x10000
      some (if w < 24 then w / 12 else (w - 24) / 4, false)
    else if 0x0A000000 ≤ off ∧ off < 0x0A200000 then some ((off - 0x0A000000) / 0x100000, false)
    else none

/-- Whether a die's clock domain that an access crosses into is stopped (R386); the south die lies behind the bridge. -/
def State.dieStopped (s : State) (d : Nat) (core : Bool) : Bool :=
  let r := R.DIE_STATUS d
  !s.flag r F.DIE_STATUS.NOC_PLL_LOCK || (core && !s.flag r F.DIE_STATUS.CORE_PLL_LOCK) ||
  (d == 1 && !s.flag r F.DIE_STATUS.BRIDGE_UP)

/-- Whether the chip-global window is in the reset of a warm start (R414). -/
def State.inReset (s : State) : Bool := s.rd R.MGT_BOOT F.MGT_BOOT.STAGE == 10

/-- Whether an access to an offset meets a stopped clock (R386), or a domain in reset (R414). The window of an absent unit in such a domain
stands under R4 too, which asks for zero or a drop: DESIGN CHOICE, the crossing comes first, and the access waits there (log entry 75). -/
def State.offStopped (s : State) (off : Nat) : Bool :=
  (s.inReset && decide (0x01000000 ≤ off)) ||
  match dieOfOff off with
  | none => false
  | some (d, core) => s.dieStopped d core

/-! ### What a register reads -/

/-- CHIP_WI_SUMMARY (R416): one bit for each block with a WRITE_IGNORED bit set. -/
def State.wiSummary (s : State) : Word :=
  let any := fun (n : Nat) (r : Nat → Nat) (f : Field) => (upto n).any (fun i => s.flag (r i) f)
  let b := fun (x : Bool) (i : Nat) => if x then 2 ^ i else 0
  BitVec.ofNat 64 (b (any 104 R.CORE_STATUS F.CORE_STATUS.WRITE_IGNORED) 0 + b (any 16 R.SCA_LS_COUNT F.SCA_LS_COUNT.WRITE_IGNORED) 1 +
    b (s.flag R.JNR_ERR F.JNR_ERR.WRITE_IGNORED) 2 + b (any 16 R.JNR_CTX_CMD F.JNR_CTX_CMD.WRITE_IGNORED) 3 +
    b (any 32 R.LNK_ERR F.LNK_ERR.WRITE_IGNORED) 4 + b (any 64 R.CXL_Q_STATUS F.CXL_Q_STATUS.WRITE_IGNORED) 5)

/-- ERR_LOG_STATUS of a log. -/
def ErrLog.status (l : ErrLog) : Word :=
  let queued := (l.entries.filter (fun e => e.2.st == .queued)).length
  let act := match l.active with
    | some (i, _) => i * 2 ^ 14 + 2 ^ 20
    | none => 0
  BitVec.ofNat 64 (l.entries.length + queued * 2 ^ 7 + act + (if l.lost then 2 ^ 21 else 0) + l.overflows * 2 ^ 32)

/-- What the 64-bit slot at an offset reads (R10, R408): the value in force. -/
def State.readSlot (s : State) (a : Nat) : Word :=
  if a = R.MGT_TIME then s.time
  else if a = R.CHIP_WI_SUMMARY then s.wiSummary
  else if R.ERR_LOG_STATUS 0 ≤ a ∧ a < R.ERR_LOG_STATUS 21 then (s.log ((a - R.ERR_LOG_STATUS 0) / 8)).status
  else if R.ERR_LOG 0 0 ≤ a ∧ a < R.ERR_LOG 21 0 then
    let o := a - R.ERR_LOG 0 0
    match SMap.look (s.log (o / 0x800)).entries (o % 0x800 / 0x20) with
    | some r => BitVec.ofNat 64 (leAt r.bytes (o % 0x20) 8)
    | none => 0
  else s.word a

/-- What a naturally aligned read of 4 or 8 bytes returns (R4, R407, R409). -/
def State.busRead (s : State) (off width : Nat) : Word :=
  if width ≠ 4 ∧ width ≠ 8 ∨ off % width ≠ 0 then 0 else
  match s.unalias off with
  | none => 0
  | some x =>
    if s.absentWindow x || (regRow (x / 8 * 8)).isNone then 0
    else if width = 8 then s.readSlot x
    else BitVec.ofNat 64 (bits (s.readSlot (x / 8 * 8)).toNat (8 * (x % 8)) 32)

/-! ### STATIC and BOUNDARY fields -/

/-- Whether some context exists on the chip. -/
def State.anyCtx (s : State) : Bool := s.ctxs.any (fun kc => kc.2.phase != .absent)

/-- Whether a cube of core `p` is not QUIET. -/
def State.anyRamp (s : State) (p : Nat) : Bool := (upto 16).any (fun c => s.rd (R.CUBE_STATUS p c) F.CUBE_STATUS.RAMP_STATE != 0)

/-- Whether the unit that owns the STATIC fields at a slot is active, and where a dropped write is counted (Table 141): the register,
WRITE_IGNORED and the counter. -/
def State.staticAt (s : State) (a : Nat) : Bool × Option (Nat × Field × Field) :=
  match coreOfOff a with
  | some p => (s.anyRamp p, some (R.CORE_STATUS p, F.CORE_STATUS.WRITE_IGNORED, F.CORE_STATUS.IGNORED_WRITES))
  | none =>
    if 0x00400000 ≤ a ∧ a < 0x00410000 then
      let c := (a - 0x00400000) / 0x1000
      ((s.ctx c).phase == .running, some (R.SCA_LS_COUNT c, F.SCA_LS_COUNT.WRITE_IGNORED, F.SCA_LS_COUNT.IGNORED_WRITES))
    else if 0x00500000 ≤ a ∧ a < 0x00510000 then
      let c := (a - 0x00500000) / 0x1000
      ((s.ctx c).phase == .running, some (R.JNR_CTX_CMD c, F.JNR_CTX_CMD.WRITE_IGNORED, F.JNR_CTX_CMD.IGNORED_WRITES))
    else if 0x00050000 ≤ a ∧ a < 0x00060000 then
      (s.anyCtx, some (R.JNR_ERR, F.JNR_ERR.WRITE_IGNORED, F.JNR_ERR.IGNORED_WRITES))
    else if 0x09000000 ≤ a ∧ a < 0x09200000 then
      let w := (a - 0x09000000) / 0x10000
      (s.portState w != psDown, some (R.LNK_ERR w, F.LNK_ERR.WRITE_IGNORED, F.LNK_ERR.IGNORED_WRITES))
    else if 0x00071000 ≤ a ∧ a < 0x00072000 then
      let q := (a - 0x00071000) / 0x40
      (s.flag (R.CXL_Q_CFG q) F.CXL_Q_CFG.EN, some (R.CXL_Q_STATUS q, F.CXL_Q_STATUS.WRITE_IGNORED, F.CXL_Q_STATUS.IGNORED_WRITES))
    else (s.anyCtx, none)

/-- A STATIC write of an active unit is dropped and counted (R10). -/
def State.ignoreWrite (s : State) (at_ : Option (Nat × Field × Field)) : State :=
  match at_ with
  | none => s
  | some (r, f, n) => (s.wr r f 1).bump r n 1

/-- The value that a BOUNDARY field holds pending after a write: the written one where it differs from the value in force, else what was
pending (R410, R412). -/
def pendField {n : Nat} (old v : Nat) (f : Field) (was : Option (BitVec n)) : Option (BitVec n) :=
  if bits old f.lo f.n = bits v f.lo f.n then was else some (BitVec.ofNat n (bits v f.lo f.n))

/-- The BOUNDARY fields at a slot take a written value as pending (R412). -/
def State.pendAt (s : State) (a old v : Nat) : State :=
  match coreOfOff a with
  | some p =>
    let k := s.core p
    let o := a - coreWindow p
    if o = 0x100 then
      let (e, d, h) := k.seqP
      s.setCore p { k with seqP := (pendField old v F.SEQ_CTRL.RUNAHEAD_EN e, pendField old v F.SEQ_CTRL.RUNAHEAD_DEPTH d,
        pendField old v F.SEQ_CTRL.SPEC_HBM_EN h) }
    else if o = 0x1400 then s.setCore p { k with seedP0 := pendField old v F.CUBE_SR_SEED.SEED k.seedP0 }
    else if o = 0x1408 then s.setCore p { k with seedP1 := pendField old v F.CUBE_SR_SEED.SEED k.seedP1 }
    else s
  | none =>
    if 0x00400000 ≤ a ∧ a < 0x00410000 then
      let c := (a - 0x00400000) / 0x1000
      let x := s.ctx c
      s.setCtx c { x with
        lsN := pendField old v F.SCA_LS_CTRL.N x.lsN
        lsMin := pendField old v F.SCA_LS_CTRL.MIN_EXP x.lsMin
        lsMax := pendField old v F.SCA_LS_CTRL.MAX_EXP x.lsMax }
    else s

/-! ### Commands and effects of single registers -/

/-- Free the DONE and COVERED entries of log `d` up to a SEQ (R348). A write of the value in force is no write (R410). -/
def State.ackLog (s : State) (d : Nat) (v : BitVec 32) : State :=
  let r := R.ERR_LOG_ACK d
  if s.rd r F.ERR_LOG_ACK.SEQ = v.toNat then s else
  let s := s.wr r F.ERR_LOG_ACK.SEQ v.toNat
  let l := s.log d
  let freed := fun (e : ErrRec) => (e.st == .done || e.st == .covered) && decide ((v - e.seq).toNat < 2 ^ 31)
  s.setLog d { l with entries := l.entries.filter (fun e => !freed e.2) }

/-- GO of a request channel (R309): BUSY, or dropped and counted while BUSY. -/
def State.go (s : State) (ch : Nat) : State :=
  let r := R.MBX_CTRL ch
  if s.flag r F.MBX_CTRL.BUSY then s.bump r F.MBX_CTRL.GO_IGNORED 1 else s.wr r F.MBX_CTRL.BUSY 1

/-- ENABLE of a port (LNK_CTRL): 0 takes it down and holds it down, 1 lets it train. DESIGN CHOICE: it then trains cold (log entry 74). -/
def State.enablePort (s : State) (w : Nat) : State :=
  if !s.flag (R.LNK_CTRL w) F.LNK_CTRL.ENABLE then
    (if s.portState w = psDown ∧ (s.port w).train.isNone then s else s.portLeave w psDown)
  else if s.portState w = psDown ∧ (s.port w).train.isNone ∧ s.mayTrain w then s.startTraining w false else s

/-- The commands that a write to the WO bits of a slot issues, in ascending bit order (R410). -/
def State.command (s : State) (a wo : Nat) : State :=
  if wo = 0 then s
  else if 0x0B000000 ≤ a ∧ a < 0x0B007000 then s.go ((a - 0x0B000000) / 0x1000)
  else if 0x00500000 ≤ a ∧ a < 0x00510000 then s.invalidate ((a - 0x00500000) / 0x1000)
  else if 0x01000000 ≤ a ∧ a < 0x02000000 then s.telClear ((a - 0x01000000) / 0x800000) ((a % 0x800000 - 0x480000) / 8)
  else if 0x08000000 ≤ a ∧ a < 0x08800000 then
    let site := (a - 0x08000000) / 0x100000
    let ch := s.rd (R.PLN_CMD site) F.PLN_CMD.CH
    let s := if bits wo 0 1 = 1 then s.queueRetrain site ch else s
    if bits wo 1 1 = 1 then s.requestRepair site ch else s
  else if 0x09000000 ≤ a ∧ a < 0x09200000 then s.retrainPort ((a - 0x09000000) / 0x10000)
  else if a = R.JIG_CMD then s.target (s.rd R.JIG_CMD F.JIG_CMD.CORE)
  else s

/-- What follows a change of a LIVE field at a slot. -/
def State.afterWrite (s : State) (a : Nat) : State :=
  if a = R.CLP_CTRL then s.clampApply
  else if 0x09000000 ≤ a ∧ a < 0x09200000 ∧ a % 0x10000 = 8 then s.enablePort ((a - 0x09000000) / 0x10000)
  else s

/-- Bits of `v` where the mask `m` has ones, and of `old` elsewhere. -/
def under (old v m : Nat) : Nat := (v &&& m) ||| (old &&& (2 ^ 64 - 1 - m))

/-- A write to a whole mapped slot (R10, R410 to R412). -/
def State.writeSlot (s : State) (a : Nat) (r : RegRow) (v : Nat) : State :=
  let old := (s.word a).toNat
  let q := (a - 0x00071000) / 0x40
  let cfg := decide (0x00071000 ≤ a) && decide (a < 0x00072000) && a == R.CXL_Q_CFG q
  if a = R.MGT_CDC then s.cdcMode (v % 2)
  else if R.ERR_LOG_ACK 0 ≤ a ∧ a < R.ERR_LOG_ACK 21 then s.ackLog ((a - R.ERR_LOG_ACK 0) / 8) (BitVec.ofNat 32 v)
  else
    let v := if a % 0x10000 = 0x1000 ∧ (coreOfOff a).isSome then
        setBits v 0 8 (max (bits v 0 8) (s.rd R.CLP_LIMITS F.CLP_LIMITS.MIN_RAMP_STEP))
      else v
    let ch := (old ^^^ v) &&& r.rw
    let (active, at_) := s.staticAt a
    let dropped := active && ch &&& r.static != 0
    let hold := r.boundary ||| (if active then r.static else 0) ||| (if cfg then 1 else 0) |||
      (if a = R.MBX_EVT then 0x3F00 else 0)
    let live := ch &&& (2 ^ 64 - 1 - hold)
    let new := (under old v live) &&& (2 ^ 64 - 1 - (v &&& r.w1c))
    let s := s.setWord a (BitVec.ofNat 64 new)
    let s := if dropped then s.ignoreWrite at_ else s
    let s := if r.boundary = 0 then s else s.pendAt a old v
    let s := if a = R.MBX_EVT ∧ bits old 8 6 ≠ bits v 8 6 then s.moveEvtHead (bits v 8 6) else s
    let s := if !cfg then s else if v % 2 = 1 then s.enableQueue q else s.disableQueue q
    let s := if live = 0 then s else s.afterWrite a
    s.command a (v &&& r.wo)

/-! ### Bus writes -/

/-- Count an access of a wrong size (R407). -/
def State.sizeDrop (s : State) : State := s.bump R.CHIP_BAR_ERR F.CHIP_BAR_ERR.SIZE_DROPS 1

/-- Whether an offset lies in the request or response area of a request channel, or in the event entries (R309, R316). -/
def mailboxArea (off : Nat) : Bool :=
  decide (0x0B000000 ≤ off) && decide (off < 0x0B008000) &&
  (if off < 0x0B007000 then decide (0x100 ≤ off % 0x1000) else decide (0x40 ≤ off % 0x1000))

/-- A write to a mailbox page (R309): the request area takes it; the response area and the event entries are the device's to write. -/
def State.mailboxWrite (s : State) (off width : Nat) (v : Word) : State :=
  if off < 0x0B007000 ∧ off % 0x1000 < 0x900 then { s with mbx := Memory.write s.mbx (off - 0x0B000000) (natLe v.toNat width) } else s

/-- A 4-byte write to the MSI-X table (R308, R407): message address, message data, vector control with the mask bit and HOLDOFF_US. -/
def State.msixWord (s : State) (off : Nat) (v : BitVec 32) : State :=
  let i := (off - 0x00078000) / 16
  let x := s.vector i
  let k := off % 16 / 4
  if k = 0 then s.setVector i { x with addr := BitVec.ofNat 64 (setBits x.addr.toNat 0 32 v.toNat) }
  else if k = 1 then s.setVector i { x with addr := BitVec.ofNat 64 (setBits x.addr.toNat 32 32 v.toNat) }
  else if k = 2 then s.setVector i { x with data := v }
  else
    let s := s.setVector i { x with masked := v.getLsbD 0, holdoff := BitVec.ofNat 16 (v.toNat / 2 ^ 16) }
    if x.masked && !v.getLsbD 0 && x.pend && !s.inHoldoff i then s.announce i else s

/-- A write of 4 or 8 bytes at a naturally aligned offset, past the crossing (R4, R407, R409, R414). -/
def State.busWrite (s : State) (off width : Nat) (v : Word) : State :=
  match s.unalias off with
  | none => s
  | some x =>
    let a := x / 8 * 8
    if s.absentWindow x then s else
    match regRow a with
    | none => s.bump R.CHIP_BAR_ERR F.CHIP_BAR_ERR.UNMAPPED 1
    | some r =>
      if width = 4 ∧ !r.narrow then s.sizeDrop
      else if width = 4 ∧ x % 8 = 4 then s
      else if s.inReset ∧ x < 0x01000000 ∧ r.dom ≠ .aon ∧ r.dom ≠ .log then s
      else match coreOfOff x with
        | some p =>
          let st := s.coreState p
          if st = csGated ∨ st = csWaking ∨ st = csFenced then s else s.writeSlot a r v.toNat
        | none => s.writeSlot a r v.toNat

/-- REGISTER_WRITE: a write arrives at BAR0 (R405 to R416). One that meets a stopped clock waits at the crossing (R386). -/
def execRegisterWrite (off : BitVec 28) (width : BitVec 4) (value : BitVec 64) (s : State) : Host.Outcome State Fault Refusal :=
  .next (
    let o := off.toNat
    let w := width.toNat
    let ok := w == 4 || w == 8
    let wait := fun (s : State) =>
      let x : CdcWait := { off := o, width := w, value := value, since := s.time, timed := s.flag R.MGT_CDC F.MGT_CDC.MODE }
      { s with cdc := s.cdc ++ [x] }
    if mailboxArea o ∧ (w = 1 ∨ w = 2 ∨ ok) ∧ o % w = 0 then
      if s.offStopped o then wait s else s.mailboxWrite o w value
    else if 0x00078000 ≤ o ∧ o < 0x00078400 ∧ ok ∧ o % w = 0 then
      let s := s.msixWord o (BitVec.ofNat 32 value.toNat)
      if w = 8 then s.msixWord (o + 4) (BitVec.ofNat 32 (value.toNat / 2 ^ 32)) else s
    else if 0x0007C000 ≤ o ∧ o < 0x0007C008 then s
    else if !ok || o % w != 0 then s.sizeDrop
    else if 0x0C000000 ≤ o then s.bump R.CHIP_BAR_ERR F.CHIP_BAR_ERR.RB_WRITE_DROPS 1
    else if s.offStopped ((s.unalias o).getD o) then wait s
    else s.busWrite o w value)

/-! ### Read-back apertures -/

/-- What a read of a space answers (R420, R422): no such space, not now, or eight bytes, of which those the manual gives no contents for are
free values; `ue` tells that one lies in an uncorrectable sector. -/
inductive RbAns where
  | noSpace | busy | gated
  | waits
  | data (b : List (Option Byte)) (ue : Bool)
  deriving DecidableEq, Repr

/-- Bytes of a space that lies in a list of bytes; past its end there is none. -/
def rbList (l : List Byte) (o : Nat) : RbAns :=
  if l.length ≤ o then .noSpace else .data ((slice l o 8).map some) false

/-- Bytes of a space of `n` bytes whose contents the manual does not lay out. -/
def rbFree (n o : Nat) : RbAns := if n ≤ o then .noSpace else .data (List.replicate 8 none) false

/-- One byte of a cube's 8 KiB of the CUBE space (Table 142). -/
def cubeByte (k : Cube) (o : Nat) : Byte :=
  let at_ := fun (v base : Nat) => BitVec.ofNat 8 (v / 256 ^ (o - base))
  if o < 0x400 then at_ k.acc.toNat 0
  else if o < 0x800 then at_ k.block0.toNat 0x400
  else if o < 0xC00 then at_ k.block1.toNat 0x800
  else if o < 0xC20 then at_ k.bsc0.toNat 0xC00
  else if 0xC40 ≤ o ∧ o < 0xC60 then at_ k.bsc1.toNat 0xC40
  else if 0x1000 ≤ o ∧ o < 0x1200 then at_ k.asc0.toNat 0x1000
  else if 0x1200 ≤ o ∧ o < 0x1400 then at_ k.asc1.toNat 0x1200
  else 0

/-- A pending value, and whether there is one, as a PENDING space shows them. -/
def pendShow {n : Nat} (x : Option (BitVec n)) (lo flag : Nat) : Nat :=
  match x with
  | some b => b.toNat * 2 ^ lo + 2 ^ flag
  | none => 0

/-- The spaces of a core (Table 142, R422). -/
def State.rbCore (s : State) (p space o : Nat) : RbAns :=
  let k := s.core p
  let st := s.coreState p
  let off := decide (st = csGated) || decide (st = csWaking) || decide (st = csFenced)
  let still := decide (st = csIdle) || decide (st = csWaitIdle) || decide (st = csFencing)
  let when_ := fun (e : Nat) (r : RbAns) => if e ≤ o then RbAns.noSpace else if off then .gated else if still then r else .busy
  let bytes := fun (f : Nat → Byte) => RbAns.data ((natsFrom o 8).map (fun i => some (f i))) false
  if space = 0 then
    if 0x1880000 ≤ o then .noSpace else if off then .gated else .data ((Memory.read k.spd.bytes o 8).map some) false
  else if space = 1 then
    if 0x10C40 ≤ o then .noSpace else if off then .gated else bytes (sideByte k.spd)
  else if space = 2 then
    when_ 0x10900 (if o < 0x10000 then bytes (fun i => BitVec.ofNat 8 ((SMap.lookD k.vregs (i / 0x400) 0).toNat / 256 ^ (i % 0x400)))
      else if o < 0x10008 then bytes (fun i => BitVec.ofNat 8 ((s.word (R.VEC_POISON p)).toNat / 256 ^ (i - 0x10000)))
      else if o < 0x10100 then bytes (fun _ => 0) else .data (List.replicate 8 none) false)
  else if space = 3 then when_ 0x20000 (bytes (fun i => cubeByte (k.cube (i / 0x2000)) (i % 0x2000)))
  else if space = 4 then
    when_ 0x100 (bytes (fun i => BitVec.ofNat 8 ((SMap.lookD k.sregs (i / 8) 0).toNat / 256 ^ (i % 8))))
  else if space = 5 then
    let w0 := pendShow k.seqP.1 0 8 + pendShow k.seqP.2.1 1 9 + pendShow k.seqP.2.2 7 10
    if 0x18 ≤ o then .noSpace else if off then .gated
    else rbList (natLe w0 8 ++ natLe (pendShow k.seedP0 0 32) 8 ++ natLe (pendShow k.seedP1 0 32) 8) o
  else .noSpace

/-- A byte of what a stack stores at a channel offset that its map names (Table 65): data, seals, states, cairn slots. -/
def State.channelByte (s : State) (site c o : Nat) : Option Byte :=
  if o < 0xB8000000 then
    match s.stackIndex site with
    | none => some 0
    | some (p, k) => some (s.hbm.bytes.byte ((s.rd (R.MEM_PART p) F.MEM_PART.BASE <<< 30) + hbmUnmap (s.sitesOf p).length k c o))
  else if o < 0xB8600000 then
    let x := o - 0xB8000000
    match s.tileAt site (x / 64 * 512 + c * 16 + x % 64 / 4) with
    | none => some 0
    | some t => some (BitVec.ofNat 8 ((s.hbm.info t).sl.toNat / 256 ^ (x % 4)))
  else if o < 0xB8800000 then
    let x := o - 0xB8600000
    let one := fun (j : Nat) => match s.tileAt site (x / 64 * 8192 + c * 256 + 4 * (x % 64) + j) with
      | none => 0
      | some t => tileCode (s.hbm.info t).st
    some (BitVec.ofNat 8 ((upto 4).foldl (fun m j => m + one j * 4 ^ j) 0))
  else if o < 0xBA000000 then
    let x := o - 0xB8800000
    let b := x % 0x200000 / 256 * 8192 + c * 256 + x % 256
    match SMap.look s.recov.slots (12 * (onesOf s.fuses.stackMask.toNat 8).idxOf site + x / 0x200000) with
    | none => some 0
    | some m => some (Memory.byte m b)
  else some 0

/-- A byte of physical channel `c` of a stack: through a repair, the failed channel's pieces lie in the reserves, and what it still holds
itself is not current (R207, R208, R210). -/
def State.rawByte (s : State) (site c o : Nat) : Option Byte :=
  match s.currentAt site c o with
  | some (c, o) => s.channelByte site c o
  | none => if 0xBA000000 ≤ o then some 0 else none

/-- Whether offset `o` of physical channel `c` lies in a sector with an uncorrectable fault. -/
def State.ueAt (s : State) (site c o : Nat) : Bool :=
  match s.stackIndex site, s.currentAt site c o with
  | none, _ => false
  | _, none => false
  | some (p, k), some (c, o) => decide (o < 0xB8000000) &&
      s.ue.contains (((s.rd (R.MEM_PART p) F.MEM_PART.BASE <<< 30) + hbmUnmap (s.sitesOf p).length k c o) / 64)

/-- The spaces of a plinth (Table 142, R422). -/
def State.rbPlinth (s : State) (site space o : Nat) : RbAns :=
  let k := s.plinth site
  let size := if space = 0 then 0x2000000000 else if space = 1 then 0x400000 else if space = 2 then 0x402000 else 0
  if !s.stackPresent site || decide (size ≤ o) then .noSpace
  else if s.stopped site then .busy
  else if space = 0 then
    let c := o / 0x100000000
    let x := o % 0x100000000
    if 0xC0000000 ≤ x then .noSpace
    else if k.hold.any (fun h => h.1 == c) then .waits
    else .data ((natsFrom x 8).map (s.rawByte site c)) (s.ueAt site c x)
  else if space = 1 then
    let x := o % 0x1000
    match k.wcb[o / 0x1000]? with
    | none => .data (List.replicate 8 (some 0)) false
    | some e =>
      if x < 0x800 then .data ((natsFrom x 8).map (fun i => SMap.look e.bytes i)) false
      else if x < 0x900 then .data ((natsFrom (x - 0x800) 8).map (fun i =>
        some (BitVec.ofNat 8 ((upto 8).foldl (fun m j => if (SMap.look e.bytes (8 * i + j)).isSome then m + 2 ^ j else m) 0)))) false
      else .data (List.replicate 8 none) false
  else rbFree size o

/-- The spaces of the chip (Table 142). -/
def State.rbChip (s : State) (space o : Nat) : RbAns :=
  if space = 0 then rbFree 0x4000 o
  else if space = 1 then rbFree 0x200000 o
  else if space = 2 then rbList (slice (s.fw.mlog.flatMap (fun e => natLe e.toNat 128)) 0 0x8000) o
  else if space = 3 then
    rbList ((upto 16).flatMap (fun c =>
      let x := s.ctx c
      natLe (pendShow x.lsN 0 32 + pendShow x.lsMin 16 33 + pendShow x.lsMax 24 34) 8)) o
  else .noSpace

/-- A read of `space` of a unit (R420, Table 142). -/
def State.rbRead (s : State) (unit space o : Nat) : RbAns :=
  let k := bits unit 12 4
  let i := bits unit 0 12
  if k = 1 then (if s.corePresent i then s.rbCore i space o else .noSpace)
  else if k = 5 then (if i < 2 ∧ space = 0 then rbFree 0x8000 o else .noSpace)
  else if k = 6 then s.rbPlinth i space o
  else if k = 8 then (if space = 0 ∧ i < 24 ∧ s.portPresent i then rbFree 0x800 o else .noSpace)
  else if k = 9 then (if space = 0 ∧ i < 8 ∧ s.portPresent (24 + i) then rbFree 0x800 o else .noSpace)
  else if k = 0xB then (if space = 0 ∧ i < 2 then .data (List.replicate 8 none) false else .noSpace)
  else if k = 0xC then (if space = 0 ∧ i = 0 then .data (List.replicate 8 none) false else .noSpace)
  else if k = 0 then (if i = 0 then s.rbChip space o else .noSpace)
  else .noSpace

/-- The die whose clock a read of a unit needs, and whether it needs the core clock. -/
def dieOfUnit (unit : Nat) : Option (Nat × Bool) :=
  let k := bits unit 12 4
  let i := bits unit 0 12
  if k = 1 then some (i / 52, true)
  else if k = 5 then some (i % 2, false)
  else if k = 6 then some (i / 4, false)
  else if k = 8 then some (i / 12, false)
  else if k = 9 then some (i / 4, false)
  else if k = 0xB then some (i % 2, false)
  else none

/-- Whether a read through aperture `k` meets a stopped clock (R422). -/
def State.rbStopped (s : State) (k : Nat) : Bool :=
  match dieOfUnit (s.rd (R.CHIP_RB_SEL k) F.CHIP_RB_SEL.UNIT) with
  | none => false
  | some (d, core) => s.inReset || s.dieStopped d core

/-- Fill the bytes that hold free values. -/
def State.freeBytes (s : State) (l : List (Option Byte)) : State × Nat :=
  ({ s with free := s.free + 8 }, leNat ((l.zip (upto 8)).map (fun e => e.1.getD (Config.freeByte (s.free + e.2)))))

/-- The read ends with a status and a value (CHIP_RB_STATUS). -/
def State.rbEnd (s : State) (k off status v : Nat) : State :=
  let r := R.CHIP_RB_STATUS k
  let s := (s.wr r F.CHIP_RB_STATUS.LAST status).count r F.CHIP_RB_STATUS.READS 1
  let s := if status = 4 then s.wr r F.CHIP_RB_STATUS.UE_SEEN 1 else s
  s.emit (.barRead (0x0C000000 + k * 0x1000000 + off) (BitVec.ofNat 64 v))

/-- A read through aperture `k` that meets no stopped clock (R420 to R422). -/
def State.rbServe (s : State) (k o : Nat) : State :=
  let r := R.CHIP_RB_SEL k
  let at_ := s.rd r F.CHIP_RB_SEL.PAGE * 0x1000000 + o / 8 * 8
  match s.rbRead (s.rd r F.CHIP_RB_SEL.UNIT) (s.rd r F.CHIP_RB_SEL.SPACE) at_ with
  | .noSpace => s.rbEnd k o 1 0
  | .busy => s.rbEnd k o 2 0
  | .gated => s.rbEnd k o 3 0
  | .waits => s
  | .data b ue =>
    let (s, v) := s.freeBytes b
    s.rbEnd k o (if ue then 4 else 0) (if o % 8 = 4 then v / 2 ^ 32 else v)

/-- RB_APERTURE_READ: an aligned read of 8 bytes, or of the upper 4 of them, through aperture `k` (R419 to R422). In a stopped domain it
waits at the crossing (R386). -/
def execRbApertureRead (k : Fin 4) (off : BitVec 24) (s : State) : Host.Outcome State Fault Refusal :=
  .next (
    let o := off.toNat
    let at_ := 0x0C000000 + k.val * 0x1000000 + o
    if o % 4 ≠ 0 then s.sizeDrop.emit (.barRead at_ 0)
    else if s.rbStopped k then
      { s with cdc := s.cdc ++ [{ off := at_, width := 8, value := 0, since := s.time, timed := s.flag R.MGT_CDC F.MGT_CDC.MODE, read := true }] }
    else s.rbServe k o)

/-- The aperture that an offset lies in. -/
def apertureOf (off : Nat) : Option Nat := if 0x0C000000 ≤ off then some ((off - 0x0C000000) / 0x1000000) else none

/-- Whether an access that waits at a crossing still meets a stopped clock (R386). -/
def State.cdcStopped (s : State) (x : CdcWait) : Bool :=
  match apertureOf x.off with
  | some k => s.rbStopped k
  | none => s.offStopped ((s.unalias x.off).getD x.off)

/-- The unit that a waiting access is for. -/
def State.cdcUnit (s : State) (off : Nat) : Nat :=
  match apertureOf off with
  | some k => s.rd (R.CHIP_RB_SEL k) F.CHIP_RB_SEL.UNIT
  | none => unitOfOff ((s.unalias off).getD off)

/-- The die whose crossing an access waits at. -/
def State.cdcDie (s : State) (x : CdcWait) : Option Nat :=
  (match apertureOf x.off with
  | some k => dieOfUnit (s.rd (R.CHIP_RB_SEL k) F.CHIP_RB_SEL.UNIT)
  | none => dieOfOff ((s.unalias x.off).getD x.off)).map Prod.fst

/-- Perform the accesses that waited for a clock which runs again (R386). -/
def State.drainCdc (s : State) : State :=
  let go := s.cdc.filter (fun x => !s.cdcStopped x)
  go.foldl (fun s x =>
    if x.read then s.rbServe ((x.off - 0x0C000000) / 0x1000000) (x.off % 0x1000000)
    else if mailboxArea x.off then s.mailboxWrite x.off x.width x.value
    else s.busWrite x.off x.width x.value) { s with cdc := s.cdc.filter s.cdcStopped }

/-- A domain enters reset: the accesses that wait at its crossings are flushed, each with an error completion (R385). `sel` tells the units
of the domain. -/
def State.flushCdc (s : State) (sel : Nat → Bool) : State :=
  (s.cdc.filter (fun x => sel (s.cdcUnit x.off))).foldl (fun s x => s.emit (.busError x.off))
    { s with cdc := s.cdc.filter (fun x => !sel (s.cdcUnit x.off)) }

/-! ### Crossings and logs -/

/-- CDC_MODE_WRITE: MGT_CDC.MODE is written (R386). -/
def execCdcModeWrite (recovery : Bool) (s : State) : Host.Outcome State Fault Refusal := .next (s.cdcMode (if recovery then 1 else 0))

/-- ERR_LOG_ACK: the host driver frees log entries (R348). -/
def execErrLogAck (d : Fin 21) (seq : BitVec 32) (s : State) : Host.Outcome State Fault Refusal := .next (s.ackLog d seq)

/-- A crossing access times out (R386): counted; FAIL_ADDR keeps the first one since MODE became RECOVERY. -/
def State.cdcCount (s : State) (off : Nat) : State :=
  let r := R.MGT_CDC
  let s := if s.rd r F.MGT_CDC.FAIL_ADDR = 0 then s.wr r F.MGT_CDC.FAIL_ADDR off else s
  s.bump r F.MGT_CDC.TIMEOUTS 1

/-- The collector's present read of a cairn gets no completion (R362): the unit is UNREACHABLE, with the offset of its first failed read. -/
def State.collectorFails (s : State) (c : Cairn) (o : Nat) : State :=
  let u := BitVec.ofNat 16 (cairnUnit c.level (s.cdcUnit o))
  let c := if c.units.any (fun x => x.1 == u) then c else { c with units := c.units ++ [(u, 1, BitVec.ofNat 32 o)] }
  { s with recov := { s.recov with cairn := some c, cairnRead := s.time } }

/-- CDC_TIMEOUT: in RECOVERY mode an access that crosses into a stopped domain ends after 10 µs (R386): a read with an error, a write
dropped. A read that does not wait here is the collector's while a cairn is collected, and its unit is UNREACHABLE (R362); else it is a
register read, whose arrival no row of the table shows (log entry 97). -/
def execCdcTimeout (off : BitVec 28) (isRead : Bool) (s : State) : Host.Outcome State Fault Refusal :=
  .next (
    let o := off.toNat
    let late := fun (t : Word) => decide (10 * tickUs ≤ (s.time - t).toNat)
    let stopped := match apertureOf o with
      | some k => s.rbStopped k
      | none => s.offStopped ((s.unalias o).getD o)
    if !stopped then s else
    match s.cdc.find? (fun x => x.off == o && x.read == isRead && x.timed && late x.since) with
    | some x =>
      let s := { s with cdc := s.cdc.erase x }.cdcCount o
      if isRead then s.emit (.busError o) else s
    | none =>
      if !isRead || !s.flag R.MGT_CDC F.MGT_CDC.MODE then s else
      match s.recov.cairn with
      | some c => if late s.recov.cairnRead then ((s.cdcCount o).emit (.busError o)).collectorFails c o else s
      | none => if (apertureOf o).isSome then s else (s.cdcCount o).emit (.busError o))

end Sys2Proof.Machine
end

