-- ==== Sys2Proof/Machine/Reset.lean ====
section
/-!
DEFINITION. Hang detectors (R350, Table 114), drain budgets (R354, R355), the reset levels (R354 to R357), overruns (R360), the end of
a log's handling (R347, R349), and the mailbox requests RESET (R359) and CAIRN_INFO (R366).
-/
namespace Sys2Proof.Machine

/-! ### Detectors -/

/-- The engine and plinth hang times in force, in milliseconds (ERR_WDOG). -/
def State.engMs (s : State) : Nat :=
  let n := s.rd R.ERR_WDOG F.ERR_WDOG.ENG_MS
  if n = 0 then 50 else n
def State.plnMs (s : State) : Nat :=
  let n := s.rd R.ERR_WDOG F.ERR_WDOG.PLN_MS
  if n = 0 then 10 else n

/-- Whether engine `unit` holds work for context `c` that is not a wait with a timeout of its own (R350). A DMA descriptor that has
something left to do here waits on a plinth refusal or for room at the fabric interface; a collective that has anything left to send or to
receive waits for a message, or on a plinth refusal to send one. -/
def State.engineHolds (s : State) (unit c : Nat) : Bool :=
  let kind := bits unit 12 4
  let i := bits unit 0 12
  let p := i / 16
  if kind = 1 ∨ kind = 3 then
    s.running i == some c && (s.core i).wait.isNone && (s.core i).load.isNone && (s.core i).posted.all (fun x => x.tag.isSome) &&
      !s.anyReader (fun r => r == .eng .seq i c || r == .fetch i c || r == .walk c)
  else if kind = 2 then decide (p < 104) && ((s.core p).cubeQ.any (fun e => e.2.val == c) || (s.core p).upds.any (fun e => e.2.val == c))
  else if kind = 4 then
    let g := s.dmaEng (i / 4) (i % 4)
    (g.active.any (fun a => a.2.val == c && a.1.todo.isEmpty) && s.dmaWaiting (i / 4) (i % 4) == 0) ||
      (g.active.isNone && (match g.queue with
        | (o, x) :: _ => x.val == c && s.dmaReady (i / 4) c o
        | [] => false))
  else kind == 5 && (s.ctx c).groups.any (fun g =>
    g.2.die.val == i && s.stale (uGroup c g.1) s.engMs && (match g.2.cur with
      | some k => s.splFinished c g.1 g.2 k
      | none => false))

/-- Whether an engine other than a splice engine has made no progress for ENG_MS: the cubes of a core count as one, and its vector engine
goes on with its sequencer. -/
def State.engineStale (s : State) (unit : Nat) : Bool :=
  let kind := bits unit 12 4
  let i := bits unit 0 12
  s.stale (if kind = 2 then uCube (i / 16) 0 else if kind = 3 then uCore i else unit) s.engMs

/-- ENGINE_HANG: an engine that holds work has made no progress for ENG_MS. A splice engine's record may name no context. -/
def execEngineHang (unit : BitVec 16) (ctx : Option CtxId) (s : State) : Host.Outcome State Fault Refusal :=
  .next (
    let u := unit.toNat
    let holds := match ctx with
      | some c => !(s.ctx c).fenced && s.engineHolds u c && (bits u 12 4 == 5 || s.engineStale u)
      | none => bits u 12 4 == 5 && s.ctxs.any (fun kc => !kc.2.fenced && s.engineHolds u kc.1)
    if holds then s.file clsEngineHang 2 u (ctx.map Fin.val) 0 0 else s)

/-- PLINTH_HANG: a channel that holds a request, and is neither held for retraining nor of a STOPPED stack, has completed nothing for
PLN_MS. -/
def execPlinthHang (site : SiteId) (ch : ChanId) (s : State) : Host.Outcome State Fault Refusal :=
  .next (
    let held := match (s.plinth site).hold with
      | some (c, _) => c == ch.val
      | none => false
    if !s.stackPresent site || held || s.stopped site || !s.chanHolds site ch || !s.stale (uChannel site ch) s.plnMs then s
    else s.file clsPlinthHang 3 (uChannel site ch) none 0 0)

/-- Whether a transaction of a die's network-on-chip has had no completion for 1 ms: a load whose data a plinth has not sent, or a register
access that waits at its crossing (log entry 97). -/
def State.nocStuck (s : State) (d : Nat) : Bool :=
  let old := fun (t : Word) => decide (tickMs ≤ (s.time - t).toNat)
  s.cores.any (fun kc => kc.1 / 52 == d && (match kc.2.load with
    | some l => old l.since && s.anyReader (fun r => match r with
      | .eng e p _ => e == .seq && p == kc.1
      | _ => false)
    | none => false)) ||
  s.cdc.any (fun x => old x.since && s.cdcDie x == some d)

/-- NOC_TIMEOUT: a transaction of a die's network-on-chip has had no completion for 1 ms. -/
def execNocTimeout (die : DieId) (s : State) : Host.Outcome State Fault Refusal :=
  .next (if s.nocStuck die then
      (s.bump (R.DIE_STATUS die) F.DIE_STATUS.NOC_TIMEOUTS 1).file clsNocTimeout 4 (unitOf 0xD die) none 0 0
    else s)

/-- The die-to-die bridge fails (Table 111). -/
def State.bridgeDown (s : State) : State :=
  let s := (s.wr (R.DIE_STATUS 0) F.DIE_STATUS.BRIDGE_UP 0).wr (R.DIE_STATUS 1) F.DIE_STATUS.BRIDGE_UP 0
  s.file clsBridgeFail 4 (unitOf 0xD 2) none 0 0

/-- BRIDGE_FAIL. -/
def execBridgeFail (s : State) : Host.Outcome State Fault Refusal :=
  .next (if s.flag (R.DIE_STATUS 0) F.DIE_STATUS.BRIDGE_UP then s.bridgeDown else s)

/-! ### Drain budgets and overruns -/

/-- Ticks since a reset was triggered, or since the end of a base-camp restart during it (R358), without those in which a stack of its
partition was STOPPED (R356). -/
def State.runAge (s : State) (run : ResetRun) : Nat :=
  let now := match run.pauseAt with
    | some t => (s.time - t).toNat
    | none => 0
  (s.time - run.bound.getD run.start).toNat - run.paused - now

/-- The drain budget of a level, in ticks (R355). -/
def drainBudget (level : Nat) : Nat := if level = 1 then tickMs else if level = 2 then 5 * tickMs else 50 * tickMs

/-- The severity that a reset of `level` about a unit escalates to: one level up, and CHIP where the unit belongs to no partition
(Table 118). -/
def State.upLevel (s : State) (level unit : Nat) : Nat :=
  if level = 2 && (s.partOfUnit unit).isNone then 4 else level + 1

/-- Mark the record that a reset handles as escalated. -/
def State.markEscalated (s : State) (run : ResetRun) : State :=
  let d := run.log.val
  let l := s.log d
  match l.active with
  | none => s
  | some (i, r) => s.setLog d { l with entries := SMap.put l.entries i { r with escalated := true } }

/-- A reset escalates: a record of the next level about `unit` (R344, R360). A chip reset that overruns asserts FAULT_N (R361). -/
def State.escalate (s : State) (run : ResetRun) (cls unit : Nat) (ctx : Option Nat) : State :=
  let s := (s.markEscalated run).file cls (s.upLevel run.level unit) unit ctx 0 0
  if run.level = 4 then s.assertFault 1 else s

/-- The reset of the highest level that covers a context. -/
def State.runOver (s : State) (c : Nat) : Option ResetRun :=
  let one : ResetRun := { level := 1, target := c, log := 0, start := 0 }
  (s.recov.runs.filter (fun x => (x.level == 1 && x.target == c) || s.contains x one)).foldl
    (fun (b : Option ResetRun) x => match b with
      | none => some x
      | some y => if y.level < x.level then some x else b) none

/-- Whether a DMA engine has something of a context left to issue, or a splice engine still holds its work (Table 116 step 3). Requests
that only wait for a response do not count. -/
def State.undrained (s : State) (unit c : Nat) : Bool :=
  let i := bits unit 0 12
  if bits unit 12 4 = 4 then (s.dmaEng (i / 4) (i % 4)).active.any (fun a => a.2.val == c && !a.1.todo.isEmpty)
  else bits unit 12 4 == 5 && decide (i < 2) && (s.ctx c).groups.any (fun g => g.2.die.val == i && (g.2.cur.isSome || !g.2.queue.isEmpty))

/-- DRAIN_TIMEOUT: the budget of the reset that fences a context passes. Requests that wait for a response are retired; a DMA or splice
engine that has not let go of its work takes a record one level up, except at a chip reset (R354, R355). -/
def execDrainTimeout (ctx : CtxId) (unit : BitVec 16) (s : State) : Host.Outcome State Fault Refusal :=
  .next (
    match s.runOver ctx with
    | none => s
    | some run =>
      if (s.time - run.start).toNat < drainBudget run.level then s else
      let s := { s with out := s.out.filter (fun q => q.ctx != ctx.val) }
      if run.level = 4 || !s.undrained unit.toNat ctx then s else s.escalate run clsDrainTimeout unit.toNat (some ctx.val))

/-- The bound of a level in ticks (Table 117): 10 ms for an engine, 400 ms and 2 s of retraining for a partition, 2.5 s for the chip. -/
def resetBound (level : Nat) : Nat := if level = 2 then 10 * tickMs else if level = 3 then 2400 * tickMs else 2500 * tickMs

/-- RESET_OVERRUN: the reset that a log's record began has missed its bound (R360). A context reset has no such record in Table 118; a
partition's bound does not run while a stack of it is STOPPED (R356). -/
def execResetOverrun (log : Fin 21) (s : State) : Host.Outcome State Fault Refusal :=
  .next (
    match s.recov.runs.find? (fun x => x.log == log && decide (2 ≤ x.level)) with
    | none => s
    | some run =>
      let unit := if run.level = 2 then run.target else if run.level = 3 then s.partUnit run.target else 0
      if run.pauseAt.isSome || decide (s.runAge run < resetBound run.level) then s else s.escalate run clsResetOverrun unit none)

/-- The time limit of a cairn in ticks (R363). -/
def cairnLimit (level : Nat) : Nat := if level = 2 then 3 * tickMs else if level = 3 then 100 * tickMs else 300 * tickMs

/-- CAIRN_TIME_LIMIT: collection stops, TRUNCATED, and the reset proceeds. `bad`: stacks whose cairn slots' writes fail (R364). -/
def execCairnTimeLimit (bad : BitVec 8) (s : State) : Host.Outcome State Fault Refusal :=
  .next (
    match s.recov.cairn, s.recov.cairn.bind (fun c => s.recov.runs.find? (fun x => x.level == c.level && x.target == c.target.toNat)) with
    | some c, some run => if (s.time - s.recov.cairnBase).toNat < cairnLimit c.level then s else s.endCairn run true bad
    | _, _ => s)

/-! ### The levels -/

/-- CONTEXT_RESET: the reset of a context completes (Table 116): its event is written and the context is gone. -/
def execContextReset (ctx : CtxId) (s : State) : Host.Outcome State Fault Refusal :=
  .next (
    match s.runAt 1 ctx with
    | none => s
    | some run => ((s.ctxErrorEvent ctx 1).removeCtx ctx).resetDone s run)

/-- HBM_QUARANTINE_RELEASE: the last held write of a removed context has completed; its extents are free (R354). -/
def execHbmQuarantineRelease (ctx : CtxId) (s : State) : Host.Outcome State Fault Refusal :=
  .next { s with recov := { s.recov with quar := s.recov.quar.filter (fun e => e.1 != ctx || s.stuckWrites e.2) } }

/-- Reset a splice engine (R357): its own registers, and the windows this chip holds as a witness sink (R263). DESIGN CHOICE: the reset of
either splice engine discards them (log entry 92). -/
def State.resetSplice (s : State) (d : Nat) : State :=
  let r := R.SPL_CTRL d
  let s := s.resetSlotsKeep (fun a => decide (r ≤ a) && decide (a < r + 0x100000) && domOf a == some .engine)
  { s with wits := s.wits.filter WitWin.own }

/-- Reset a core: an unfinished jig run is abandoned, and the core is gated, or FENCED if it is on the fence list (R357). -/
def State.resetCore (s : State) (p : Nat) : State := ((s.abandonRun p).gateCore p).showAwake (p / 52)

/-- The contexts that a reset of level 2 or above removes. -/
def State.takenBy (s : State) (run : ResetRun) : List Nat :=
  (s.ctxs.map Prod.fst).filter (fun c => s.contains run { level := 1, target := c, log := 0, start := 0 })

/-- ENGINE_RESET: the reset of a core or splice engine completes (R357): its cairn ends, every context with work on it is removed, and
the engine is reset. It waits for the cairn's turn (R363); `bad`: stacks whose cairn slots' writes fail (R364). -/
def execEngineReset (unit : BitVec 16) (bad : BitVec 8) (s : State) : Host.Outcome State Fault Refusal :=
  .next (
    match s.runAt 2 unit.toNat with
    | none => s
    | some run =>
      if s.cairnWaits run then s else
      let t := s.endCairn run false bad
      let t := (s.takenBy run).foldl (fun t c => t.wipeCtx c cEngineReset unit.toNat 2) t
      let t := match coreOfUnit unit.toNat with
        | some p => t.resetCore p
        | none => t.resetSplice (bits unit.toNat 0 12)
      (t.flushCdc (fun u => match coreOfUnit u with
        | some p => some p == coreOfUnit unit.toNat
        | none => u == unit.toNat)).resetDone s run)

/-- PARTITION_RESET: the reset of a partition completes (Table 117): contexts are removed, its cores, splice engines, plinths and ports are
reset, its channels are retrained and its ports train on the fast path; HBM contents and RWS fields stay. -/
def execPartitionReset (part : PartId) (bad : BitVec 8) (s : State) : Host.Outcome State Fault Refusal :=
  .next (
    match s.runAt 3 part with
    | none => s
    | some run =>
      if s.cairnWaits run then s else
      let unit := s.partUnit part
      let sites := (upto 8).filter (fun i => s.stackPresent i && s.partOfSite i == part.val)
      let cores := (s.logical.filter (fun e => s.partOfLogical e.1 == part.val)).map (fun e => e.2.val)
      let t := s.endCairn run false bad
      let t := (s.takenBy run).foldl (fun t c => t.wipeCtx c cPartitionReset unit 3) t
      let t := cores.foldl State.resetCore t
      let t := (upto 2).foldl (fun t d => if s.partOfUnit (uSplice d) = some part.val then t.resetSplice d else t) t
      let t := sites.foldl (fun t i => ((t.flushPlinth i).resetPlinth i).retrainStack i) t
      let t := ((upto 32).filter (fun w => s.partOfPort w == part.val)).foldl State.resetPort t
      (t.flushCdc (fun u => s.partOfUnit u == some part.val)).resetDone s run)

/-- A chip reset clears every domain but the always-on domain, and flushes the crossings (Table 129 step 2). -/
def State.chipDown (s : State) : State :=
  let s := (s.clearContexts.flushCdc (fun _ => true)).resetDomains false
  let s := if s.inReset then s else s.bump R.ERR_ESC F.ERR_ESC.CHIP_RESETS 1
  let s := if s.flag R.MGT_BOOT F.MGT_BOOT.READY then s.emit .ibi else s
  let s := (s.stage 10).wr R.MGT_BOOT F.MGT_BOOT.READY 0
  let s := { s with fw := { s.fw with clearSince := none } }
  { s with recov := { s.recov with boot := none } }

/-- The channels that fail verification with their saved settings are retrained (Table 129 step 5); `bad` has a bit for each channel of each
site. -/
def State.verifyChannels (s : State) (bad : BitVec 256) : State :=
  ((onesOf bad.toNat 256).filter (fun b => s.stackPresent (b / 32))).foldl (fun s b =>
    s.setChan (b / 32) (b % 32) { (s.plinth (b / 32)).chan (b % 32) with
      trained := some (s.time, s.rd (R.PLN_STATUS (b / 32)) F.PLN_STATUS.TEMP)
      fails := 0 }) s

/-- A chip reset brings the chip up again (Table 129 steps 3 to 6). It is ready when no port trains any more. -/
def State.chipUp (s : State) (bad : BitVec 256) : State :=
  let s := ((s.layMemory.lockClocks).verifyChannels bad).trainPorts true
  let s := s.wr R.CRN_STATUS F.CRN_STATUS.SLOTS s.cairnSlots
  { s with recov := { s.recov with boot := some (true, 0, 0) } }

/-! ### The end of a log's handling -/

/-- The oldest QUEUED record of the highest severity that no reset in progress covers. -/
def State.nextRecord (s : State) (l : ErrLog) : Option (Nat × ErrRec) :=
  (l.entries.filter (fun e => e.2.st == .queued && !s.covered e.2)).foldl
    (fun (b : Option (Nat × ErrRec)) e => match b with
      | none => some e
      | some x =>
        if x.2.sev < e.2.sev || (x.2.sev == e.2.sev && decide ((l.next - x.2.seq).toNat < (l.next - e.2.seq).toNat)) then some e else b) none

/-- Whether a RESET request that asks for a record's reset forbids a cairn (R359). -/
def State.asksNoCairn (s : State) (d : Nat) (r : ErrRec) : Bool :=
  let run := s.runOf d r
  r.cls.toNat == clsHostReset &&
    s.recov.mboxReset.any (fun e => e.2.1 == run.level && e.2.2 == run.target && s.payload e.1 1 1 % 2 == 1)

/-- A log that handles nothing takes up what waits (R347, R349): the reset that a lost record demanded, else the next QUEUED record. -/
def State.takeNext (s : State) (d : Nat) : State :=
  let l := s.log d
  if l.active.isSome then s
  else if s.recov.runs.any (fun x => x.log.val == d) then s
  else if l.lost && decide (16 ≤ d) then s.lostReset d
  else match s.nextRecord l with
    | none => s
    | some (i, r) =>
      let r := { r with st := .active }
      (s.setLog d { l with entries := SMap.put l.entries i r }).beginReset d r (s.asksNoCairn d r)

/-- LOG_HANDLING_DONE: the reset that a log's ACTIVE record demanded is over, so the record is DONE, and the log goes on. A record of
severity POWER is never done: only the power cycle ends it. -/
def execLogHandlingDone (d : Fin 21) (s : State) : Host.Outcome State Fault Refusal :=
  .next (
    let l := s.log d
    match l.active with
    | none => (s.takeNext d).showEsc
    | some (i, r) =>
      let run := s.runOf d r
      if 5 ≤ r.sev.toNat || s.recov.runs.any (fun x => x.log == d || (x.level == run.level && x.target == run.target)) then s else
      ((s.setLog d { l with entries := SMap.put l.entries i { r with st := .done } }).takeNext d).showEsc)

/-! ### Mailbox requests -/

/-- File the HOST_RESET record of a RESET request (R359). -/
def State.hostReset (s : State) (sev unit : Nat) (noCairn : Bool) : State :=
  s.enter (s.logOf unit sev) { cls := BitVec.ofNat 8 clsHostReset, sev := BitVec.ofNat 8 sev, unit := BitVec.ofNat 16 unit } true noCairn

/-- RESET (R359): the request is answered when its domain is ready. -/
def execResetReq (ch : MbxId) (s : State) : Host.Outcome State Fault Refusal :=
  .next (s.mbxRequest ch 0x120 4 (fun s =>
    let level := s.payload ch 0 1
    let no := s.payload ch 1 1 % 2 == 1
    let target := s.payload ch 2 2
    let wait := fun (s : State) (l t : Nat) =>
      { s with recov := { s.recov with mboxReset := s.recov.mboxReset ++ [(ch, l, t)] } }
    if level = 0 then
      if 16 ≤ target then s.reply ch msArg 0 []
      else if !(s.ctx target).live then s.reply ch msState 0 []
      else (wait s 1 target).raise target cHostRequest 0 0 0
    else if level = 1 then
      let k := bits target 12 4
      let i := bits target 0 12
      if (k == 1 && s.corePresent i) || (k == 5 && decide (i < 2)) then (wait s 2 target).hostReset 2 target no
      else s.reply ch msArg 0 []
    else if level = 2 then
      if target < s.mode then (wait s 3 target).hostReset 3 (s.partUnit target) no else s.reply ch msArg 0 []
    else if level = 3 ∧ target = 0 then (wait s 4 0).hostReset 4 0 no
    else s.reply ch msArg 0 []))

/-- CAIRN_INFO (R366): the stored cairns, newest first, at most 16. -/
def execCairnInfo (ch : MbxId) (s : State) : Host.Outcome State Fault Refusal :=
  .next (s.mbxRequest ch 0x121 0 (fun s =>
    let l := s.recov.cairns.take 16
    s.reply ch msOk 0 (natLe l.length 1 ++ natLe 0 7 ++ l.flatMap (fun c =>
      natLe c.slot 2 ++ natLe c.level 1 ++ natLe c.flags.toNat 1 ++ natLe c.seq.toNat 4 ++ natLe c.tsStart.toNat 8))))

end Sys2Proof.Machine
end

