-- ==== Sys2Proof/Machine/Bivouac.lean ====
section
/-!
DEFINITION. Bivouac checkpoints: configuration (R370), trigger and snapshot point (R371, R372), urgent copies (R373), streaming and the
manifest (R374 to R381), and restart (R382, R383).
-/
namespace Sys2Proof.Machine

/-! ### Pages -/

/-- Local address of a page of a context's image, counting 2 MiB pages through the extents (R374). -/
def pageAddr : List (Nat × Nat) → Nat → Option Nat
  | [], _ => none
  | (b, n) :: l, i => if i < n / pageBytes then some (b + i * pageBytes) else pageAddr l (i - n / pageBytes)

/-- Put a page into an ascending list of pages. -/
def insertPage (g : Nat) : List Nat → List Nat
  | [] => [g]
  | h :: l => if g ≤ h then g :: h :: l else h :: insertPage g l

/-- STATE of a context's bivouac: 0 idle, 1 streaming, 2 exporting, 3 restoring. -/
def State.bivState (s : State) (c : Nat) : Nat := s.rd (R.BIV_STATUS c) F.BIV_STATUS.STATE

/-- Show the pages still to be sent. -/
def State.showLeft (s : State) (c : Nat) : State :=
  let b := (s.ctx c).biv
  s.wr (R.BIV_STATUS c) F.BIV_STATUS.PAGES_LEFT (b.toSend.length + b.reserve.length)

/-! ### Configuration -/

/-- Whether a fabric address names a chip of a context's route. -/
def State.inRoute (s : State) (c a : Nat) : Bool := (s.relOf c (bits a 40 17)).isSome

/-- The sub-code of the first check of BIV_CONFIG that a payload fails (R370). -/
def State.bivBad (s : State) (ch c : Nat) : Option Nat :=
  let x := s.ctx c
  let mode := s.payload ch 1 1
  let cap := s.payload ch 2 1
  let tc := s.payload ch 8 2
  let gc := s.payload ch 0xA 2
  let a := s.payload ch 0x18 8
  let b := s.payload ch 0x20 8
  let used := if mode = 2 then [a] else [a, b]
  let cells := (x.cores.find? (fun k => k.logical == s.payload ch 6 2)).map CtxCore.cells
  let pages := s.payload ch 4 2
  if 2 < mode then some subMode
  else if cap < 1 ∨ 100 < cap then some subCap
  else if (match cells with | none => true | some n => decide (n ≤ tc) || decide (n ≤ gc)) || gc == tc then some subCell
  else if used.any (fun t => bits t 0 40 % pageBytes != 0) then some subAlign
  else if used.any (fun t => !s.inRoute c t) then some subTarget
  else if pages < 4 ∨ 1024 < pages then some subReserve
  else none

/-- Keep VALID_IMAGE of a slot whose target stays the same; a new target holds no image yet. -/
def State.setTarget (s : State) (c i t : Nat) : State :=
  let r := R.BIV_TARGET c i
  let same := (s.word r).toNat % 2 ^ 57 == t % 2 ^ 57
  s.setWord r (BitVec.ofNat 64 (t % 2 ^ 57 + (if same && s.flag r F.BIV_TARGET.VALID_IMAGE then 2 ^ 63 else 0)))

/-- BIV_CONFIG (R370). -/
def execBivConfig (ch : MbxId) (s : State) : Host.Outcome State Fault Refusal :=
  .next (s.mbxRequest ch 0x300 0x28 (fun s =>
    let c := s.payload ch 0 1
    if 16 ≤ c then s.reply ch msArg 0 [] else
    let x := s.ctx c
    if !x.live || x.fenced || s.bivState c != 0 || x.biv.rst.isSome then s.reply ch msState 0 [] else
    match s.bivBad ch c with
    | some d => s.reply ch msArg d []
    | none =>
      let n := s.payload ch 4 2
      match takeHbm ((s.setCtx c { x with reserve := [] }).freeHbm x.part) (n * pageBytes) with
      | none => s.reply ch 0x10B 0 []
      | some l =>
        let all := upto x.pages
        let b : Biv := { x.biv with configured := true, dirtyA := all, dirtyB := all }
        let s := s.setCtx c { x with reserve := l, biv := b }
        let cfg := R.BIV_CFG c
        let s := (s.wr cfg F.BIV_CFG.MODE (s.payload ch 1 1)).wr cfg F.BIV_CFG.RESERVE_PAGES n
        let s := s.wr cfg F.BIV_CFG.TRIG_CORE (s.payload ch 6 2)
        let s := (s.wr cfg F.BIV_CFG.TRIG_CELL (s.payload ch 8 2)).wr cfg F.BIV_CFG.GO_CELL (s.payload ch 0xA 2)
        let ctl := R.BIV_CTRL c
        let s := (s.wr ctl F.BIV_CTRL.EN (if s.payload ch 3 1 = 1 then 1 else 0)).wr ctl F.BIV_CTRL.CAP_PCT (s.payload ch 2 1)
        let s := s.wr ctl F.BIV_CTRL.INTERVAL (s.payload ch 0xC 4)
        let s := s.wr (R.BIV_NEXT c) F.BIV_NEXT.NEXT (s.payload ch 0x10 8)
        let s := (s.setTarget c 0 (s.payload ch 0x18 8)).setTarget c 1 (s.payload ch 0x20 8)
        s.reply ch msOk 0 []))

/-! ### What a stream writes -/

/-- Base of the slot of the current stream: chip and local address. -/
def State.slotBase (s : State) (c : Nat) : BitVec 17 × Nat :=
  let i := if s.bivState c = 2 then 0 else s.rd (R.BIV_STATUS c) F.BIV_STATUS.SLOT
  let r := R.BIV_TARGET c i
  (BitVec.ofNat 17 (s.rd r F.BIV_TARGET.CHIP), s.rd r F.BIV_TARGET.LOCAL)

/-- The bivouac engine writes bytes at an offset of its slot: a fabric write, or a host-window write for an export to this chip's host
(R381). Its STREAM is its own. A stream that has failed sends nothing further (R378). -/
def State.bivWrite (s : State) (c off : Nat) (d : List Byte) (whole : Option TileMeta) : State :=
  if s.bivState c = 0 then s else
  let (chip, base) := s.slotBase c
  let x := s.ctx c
  let core := ((s.physOf (s.rd (R.BIV_CFG c) F.BIV_CFG.TRIG_CORE)).map Fin.val).getD 0
  let poison := whole.any (fun m => m.st == .poison)
  let q : OutReq := {
    tag := 0, cls := 2, chip := chip, addr := base + off, len := d.length, core := core, eng := .splice, ctx := c, biv := true,
    deadline := 0, first := 0, data := d, poison := poison, whole := whole }
  let s := s.setCtx c { x with biv := { x.biv with acks := x.biv.acks + 1 } }
  if chip.toNat = s.ownChip then match s.region (base + off) with
    | .host o => s.hostReq { q with cls := 5, addr := s.hostAddr o }
    | _ => s.sendReq q
  else s.sendReq q

/-- Bytes 0x00 to 0xBF of a manifest (Table 123). -/
def State.manifestHead (s : State) (c : Nat) (valid : Bool) : List Byte :=
  let x := s.ctx c
  let b := x.biv
  let inc := if s.rd (R.BIV_CFG c) F.BIV_CFG.MODE = 1 then 2 else 0
  let flags := (if valid then 1 else 0) + inc + (if b.poisonTiles = 0 then 0 else 4)
  let ext := x.extents.flatMap (fun e => natLe e.1 8 ++ natLe e.2 8)
  natLe 0x56434942 4 ++ natLe 1 2 ++ natLe flags 2 ++ natLe b.streamSeq.toNat 4 ++ natLe s.ownChip 4 ++ natLe b.step.toNat 8 ++
  natLe b.tsMark.toNat 8 ++ natLe (if valid then s.time.toNat else 0) 8 ++ natLe x.hbmBytes 8 ++ natLe x.pages 4 ++ natLe b.poisonTiles 4 ++
  natLe (s.key c) 2 ++ natLe (s.rd (R.BIV_STATUS c) F.BIV_STATUS.SLOT) 1 ++ natLe x.extents.length 1 ++ natLe b.exp.toNat 1 ++
  natLe 0 1 ++ natLe b.clean.toNat 2 ++ slice ext 0 128

/-- The manifest tile (R380): CHECK is taken with VALID set. -/
def State.manifestTile (s : State) (c : Nat) (valid : Bool) : List Byte :=
  let h := s.manifestHead c valid
  let flags := leAt h 6 2 / 2 * 2 + 1
  let sum := crc64 0 (h.take 6 ++ natLe flags 2 ++ h.drop 8)
  slice (h ++ natLe sum 8) 0 2048

/-- The D-series header (Table 125). -/
def State.exportHead (s : State) (c : Nat) (complete : Bool) : List Byte :=
  let x := s.ctx c
  let h := natLe 0x30313444 4 ++ natLe 3 2 ++ natLe (if complete then 1 else 0) 2 ++ natLe x.biv.step.toNat 8 ++ natLe x.hbmBytes 8 ++
    natLe (x.hbmBytes / 0x10000) 4 ++ natLe s.ownChip 4
  let z := List.replicate 476 (0 : Byte)
  h ++ natLe (crc32c (h ++ natLe 0 4 ++ z)) 4 ++ z

/-- Write the manifest, or the header of an export. -/
def State.bivHead (s : State) (c : Nat) (done : Bool) : State :=
  if s.bivState c = 2 then s.bivWrite c 0 (s.exportHead c done) none
  else
    let d := s.manifestTile c done
    s.bivWrite c 0 d (some (sealedMeta d))

/-! ### Trigger and snapshot point -/

/-- The slot of the next stream (R375): the one that does not hold the newest valid image; A where neither holds one. Where both hold
one, the last stream's is the newest. -/
def State.nextSlot (s : State) (c : Nat) : Nat :=
  let a := s.flag (R.BIV_TARGET c 0) F.BIV_TARGET.VALID_IMAGE
  let b := s.flag (R.BIV_TARGET c 1) F.BIV_TARGET.VALID_IMAGE
  if a && b then 1 - s.rd (R.BIV_STATUS c) F.BIV_STATUS.SLOT else if a then 1 else 0

/-- The snapshot point (R372): the pages of the snapshot set are PENDING, the slot's dirty set is empty, and the manifest with VALID = 0,
or the header with COMPLETE = 0, is sent. An export leaves dirty sets and slots alone (R381). -/
def State.snapshot (s : State) (c : Nat) (v : Word) : State :=
  let x := s.ctx c
  let mode := s.rd (R.BIV_CFG c) F.BIV_CFG.MODE
  let slot := s.nextSlot c
  let dirty := if slot = 0 then x.biv.dirtyA else x.biv.dirtyB
  let set := if mode = 1 then dirty.foldl (fun l g => insertPage g l) [] else upto x.pages
  let r := R.BIV_STATUS c
  let ls := R.SCA_LS_STATUS c
  let b : Biv := { x.biv with
    pend := set
    toSend := set
    set := set
    dirtyA := if mode ≠ 2 ∧ slot = 0 then [] else x.biv.dirtyA
    dirtyB := if mode ≠ 2 ∧ slot ≠ 0 then [] else x.biv.dirtyB
    streamSeq := x.biv.streamSeq + 1
    step := v
    tsMark := s.time
    poisonTiles := 0
    exp := BitVec.ofNat 8 (s.rd ls F.SCA_LS_STATUS.EXP)
    clean := BitVec.ofNat 16 (s.rd ls F.SCA_LS_STATUS.CLEAN)
    acks := 0
    final := false }
  let s := s.setCtx c { x with biv := b }
  let s := s.wr r F.BIV_STATUS.STATE (if mode = 2 then 2 else 1)
  let s := if mode = 2 then s else (s.wr r F.BIV_STATUS.SLOT slot).wr (R.BIV_TARGET c slot) F.BIV_TARGET.VALID_IMAGE 0
  (s.showLeft c).bivHead c false

/-- BIV_TRIGGER: the bivouac engine acts on one increment of TRIG_CELL to the value V (R371). -/
def execBivTrigger (ctx : CtxId) (s : State) : Host.Outcome State Fault Refusal :=
  .next (
    let c := ctx.val
    let x := s.ctx c
    match x.biv.trig with
    | [] => s
    | v :: rest =>
      let s := s.setCtx c { x with biv := { x.biv with trig := rest } }
      let next := s.rd (R.BIV_NEXT c) F.BIV_NEXT.NEXT
      let s :=
        if !s.flag (R.BIV_CTRL c) F.BIV_CTRL.EN || decide (v.toNat < next) then s else
        let s := if s.bivState c = 0 then s.snapshot c v else s.bump (R.BIV_COUNT c) F.BIV_COUNT.SKIPPED 1
        let k := s.rd (R.BIV_CTRL c) F.BIV_CTRL.INTERVAL
        if k = 0 then s.wr (R.BIV_CTRL c) F.BIV_CTRL.EN 0
        else s.wr (R.BIV_NEXT c) F.BIV_NEXT.NEXT (next + ((v.toNat - next) / k + 1) * k)
      let core := s.rd (R.BIV_CFG c) F.BIV_CFG.TRIG_CORE
      let s := match s.physOf core with
        | none => s
        | some p => s.completeInc c p (some (s.rd (R.BIV_CFG c) F.BIV_CFG.GO_CELL, 1))
      s.settle)

/-! ### Copies and pages -/

/-- Whether a page of a context can be read now. -/
def State.pageFree (s : State) (a : Nat) : Bool := (tilesOf a pageBytes).all (fun i => !s.tileBlocked i)

/-- Read a page: its tiles with their data, seal and state; the engine checks each, and one that is POISON or fails its seal is POISON
(R377). An UNWRITTEN tile is sealed zeros (R227). -/
def State.readPage (s : State) (a : Nat) : State × List (List Byte × TileMeta) :=
  (tilesOf a pageBytes).foldl (fun (r : State × List (List Byte × TileMeta)) i =>
    let (s, bad) := r.1.serveTile i
    let d := s.hbm.data i
    (s, r.2 ++ [(d, carried (s.hbm.info i) d bad)])) (s, [])

/-- A copy of a page, tiles numbered from 0. -/
def pageCopy (l : List (List Byte × TileMeta)) : Tiled :=
  (l.zip (upto l.length)).foldl (fun (t : Tiled) e => t.put e.2 e.1.1 e.1.2) {}

/-- The tiles of a copy of a page. -/
def copyTiles (t : Tiled) : List (List Byte × TileMeta) := (upto (pageBytes / 2048)).map (fun i => (t.data i, t.info i))

/-- Pages that had a write held before a given time, in the partition of a context. -/
def State.heldBefore (s : State) (part : PartId) (t : Word) : Nat :=
  ((s.ctxs.filter (fun kc => kc.2.part == part)).flatMap (fun kc => kc.2.biv.held)).countP (fun h => decide (h.2.toNat < t.toNat))

/-- URGENT_COPY_DONE: a held page has been copied into the reserve; PENDING clears and its writes go on (R373). Four copies run at once in
a partition; one waits while the reserve is full. -/
def execUrgentCopyDone (ctx : CtxId) (page : BitVec 19) (s : State) : Host.Outcome State Fault Refusal :=
  .next (
    let c := ctx.val
    let g := page.toNat
    let x := s.ctx c
    match x.biv.held.find? (fun h => h.1 == g), pageAddr x.extents g with
    | some h, some a =>
      if !x.biv.pend.contains g || 4 ≤ s.heldBefore x.part h.2 || !s.pageFree a ||
          s.rd (R.BIV_CFG c) F.BIV_CFG.RESERVE_PAGES ≤ x.biv.reserve.length then s else
      let (s, l) := s.readPage a
      let x := s.ctx c
      let b : Biv := { x.biv with
        pend := x.biv.pend.filter (fun y => y != g)
        toSend := x.biv.toSend.filter (fun y => y != g)
        held := x.biv.held.filter (fun y => y.1 != g)
        reserve := x.biv.reserve ++ [g]
        copies := SMap.put x.biv.copies g (pageCopy l) }
      let s := s.setCtx c { x with biv := b }
      let s := (s.wr (R.BIV_STATUS c) F.BIV_STATUS.HELD b.held.length).count (R.BIV_COUNT c) F.BIV_COUNT.HELD_PAGES 1
      s.retryAll
    | _, _ => s)

/-- A record of an export (R381): header and payload; a record with a bad tile is VOID. -/
def exportRecord (n : Nat) (l : List (List Byte × TileMeta)) : List Byte :=
  let void := l.any (fun e => e.2.st == .poison)
  let d := if void then List.replicate 0x10000 0 else l.flatMap Prod.fst
  natLe (n * 0x10000) 8 ++ natLe 0x10000 4 ++ natLe (crc32c d) 4 ++ natLe (if void then 1 else 0) 4 ++ List.replicate 44 0 ++ d

/-- Send the tiles of a page: whole tiles into the slot (R374), or the 32 records of an export, cut at 2 KiB boundaries. -/
def State.sendPage (s : State) (c g : Nat) (l : List (List Byte × TileMeta)) : State :=
  if s.bivState c = 2 then
    (upto 32).foldl (fun s i =>
      let n := 32 * g + i
      (pieces (0x200 + n * 0x10040) (exportRecord n ((l.drop (32 * i)).take 32))).foldl (fun s e => s.bivWrite c e.1 e.2 none) s) s
  else
    let x := s.ctx c
    let bad := l.countP (fun e => e.2.st == .poison)
    let s := s.setCtx c { x with biv := { x.biv with poisonTiles := x.biv.poisonTiles + bad } }
    (l.zip (upto l.length)).foldl (fun s e => s.bivWrite c ((g + 1) * pageBytes + 2048 * e.2) e.1.1 (some e.1.2)) s

/-- Whether a context's stream is the one that its partition's bivouac engine runs now: the oldest (one stream at a time). -/
def State.bivTurn (s : State) (c : Nat) : Bool :=
  let x := s.ctx c
  s.ctxs.all (fun kc => kc.1 == c || kc.2.part != x.part || s.bivState kc.1 == 0 || s.bivState kc.1 == 3 ||
    decide (x.biv.tsMark.toNat < kc.2.biv.tsMark.toNat) || (x.biv.tsMark == kc.2.biv.tsMark && decide (c < kc.1)))

/-- BIV_PAGE_SEND: the next page is read and sent (R374): one from the reserve first, else the lowest live page. -/
def execBivPageSend (ctx : CtxId) (s : State) : Host.Outcome State Fault Refusal :=
  .next (
    let c := ctx.val
    let x := s.ctx c
    if (s.bivState c != 1 && s.bivState c != 2) || !s.bivTurn c then s else
    match x.biv.reserve, x.biv.toSend with
    | g :: rest, _ =>
      let l := copyTiles (SMap.lookD x.biv.copies g {})
      let s := s.setCtx c { x with biv := { x.biv with reserve := rest, copies := SMap.del x.biv.copies g } }
      ((s.sendPage c g l).showLeft c).retryAll
    | [], g :: rest => (match pageAddr x.extents g with
      | none => s
      | some a =>
        if !s.pageFree a then s else
        let (s, l) := s.readPage a
        let x := s.ctx c
        let b : Biv := { x.biv with
          toSend := rest
          pend := x.biv.pend.filter (fun y => y != g)
          held := x.biv.held.filter (fun y => y.1 != g) }
        let s := s.setCtx c { x with biv := b }
        let s := s.wr (R.BIV_STATUS c) F.BIV_STATUS.HELD b.held.length
        ((s.sendPage c g l).showLeft c).retryAll)
    | [], [] => s)

/-- BIV_STREAM_COMPLETE: every page is acknowledged; the manifest with VALID = 1, or the header with COMPLETE = 1, is written (R374). The
stream has completed when that write is acknowledged. -/
def execBivStreamComplete (ctx : CtxId) (s : State) : Host.Outcome State Fault Refusal :=
  .next (
    let c := ctx.val
    let x := s.ctx c
    if (s.bivState c != 1 && s.bivState c != 2) || !x.biv.toSend.isEmpty || !x.biv.reserve.isEmpty || x.biv.acks != 0 || x.biv.final then s
    else ((s.setCtx c { x with biv := { x.biv with final := true } }).bivHead c true).settle)

/-! ### Restart -/

/-- BIV_RESTART (R382): the request is checked, and each manifest it names is read with a whole-tile RD_REQ; the answer follows once they
have come. -/
def execBivRestart (ch : MbxId) (s : State) : Host.Outcome State Fault Refusal :=
  .next (s.mbxRequest ch 0x301 0x18 (fun s =>
    let c := s.payload ch 0 1
    let cap := s.payload ch 1 1
    let a := s.payload ch 8 8
    let b := s.payload ch 0x10 8
    if 16 ≤ c then s.reply ch msArg 0 [] else
    let x := s.ctx c
    if x.phase != .loaded || x.fenced || s.bivState c != 0 || x.biv.rst.isSome then s.reply ch msState 0 []
    else if cap < 1 ∨ 100 < cap then s.reply ch msArg subCap []
    else if !s.inRoute c a || (b != 0 && !s.inRoute c b) then s.reply ch msArg rstRoute []
    else
      let t : BivRst := { ch := ch, srcA := a, srcB := b, manB := if b = 0 then some [] else none }
      let s := s.setCtx c { x with biv := { x.biv with rst := some t } }
      let s := s.bivAsk c (.manifest false) a 0
      (if b = 0 then s else s.bivAsk c (.manifest true) b 0).settle))

/-- BIV_RESTART_PULL: the engine requests the next page, 1024 whole tiles (R382). Their responses write them; a page counts as pulled once
every tile of it is written. -/
def execBivRestartPull (ctx : CtxId) (s : State) : Host.Outcome State Fault Refusal :=
  .next (
    let c := ctx.val
    let x := s.ctx c
    match pageAddr x.extents x.biv.pulled with
    | none => s
    | some a =>
      if s.bivState c != 3 || x.biv.pulling != 0 then s else
      let s := s.setCtx c { x with biv := { x.biv with pulling := 1024 } }
      ((upto 1024).foldl (fun s i =>
        s.bivAsk c (.tile (a + 2048 * i)) x.biv.srcSlot.toNat ((x.biv.pulled + 1) * pageBytes + 2048 * i)) s).settle)

/-- BIV_RESTART_FINISH: every page is pulled, and the chosen manifest is read again (R383). -/
def execBivRestartFinish (ctx : CtxId) (s : State) : Host.Outcome State Fault Refusal :=
  .next (
    let c := ctx.val
    let x := s.ctx c
    if s.bivState c != 3 || decide (x.biv.pulled < x.pages) || x.biv.ending then s else
    let s := s.setCtx c { x with biv := { x.biv with ending := true } }
    (s.bivAsk c .again x.biv.srcSlot.toNat 0).settle)

end Sys2Proof.Machine
end

