-- ==== Sys2Proof/Machine/Bringup.lean ====
section
/-!
DEFINITION. Power and bring-up (R19 to R21, R27, R28, R387 to R390), firmware images, staging and activation (R393 to R400), measurement
reports (R396, R397), and restarts of the firmware processors (R391, R392).
-/
namespace Sys2Proof.Machine

/-! ### Starts -/

/-- Ends a start whose ports have left TRAINING (R388, R389): self-test of a cold start, numbering, READY. A chip reset has then ended: its
request is answered, the events of the contexts it removed are written, and the accesses that waited at crossings go on. -/
def State.bootOn (s : State) : State :=
  match s.recov.boot with
  | none => s
  | some (warm, store, residue) =>
    if (upto 32).any (fun w => s.portState w == psTraining) then s else
    let s := { s with recov := { s.recov with boot := none } }
    let test := fun (s : State) (l : BitVec 104) (cls : Nat) =>
      ((onesOf l.toNat 104).filter (fun p => s.corePresent p && !s.isFenced p)).foldl (fun s p => s.failTest p cls) s
    let s := if warm then s else test (test s store clsStorage) residue clsResidue
    let s := ({ s with jig := { s.jig with awaiting := [] } } : State).number
    let s := s.showPkg.wr R.JIG_PKG_INFO F.JIG_PKG_INFO.FLASHED (if s.flash.pkg.any (fun k => k == s.jig.store) then 1 else 0)
    let s := (s.wr R.MGT_BOOT F.MGT_BOOT.READY 1).wr R.MGT_BOOT F.MGT_BOOT.WARM (if warm then 1 else 0)
    let s := (s.stage 8).emit .ibi
    let chip := s.recov.runs.filter (fun r => r.level == 4)
    let s := if warm then { s with recov := { s.recov with chipEnd := some s.time } } else s
    let since := if s.flag R.CLP_STATUS F.CLP_STATUS.EMERGENCY then none else some s.time
    let s := { s with fw := { s.fw with clearSince := since } }
    let s := s.recov.reports.foldl (fun s b => s.event 0x8001 b) s
    let s := { s with recov := { s.recov with reports := [] } }
    (chip.foldl (fun s r => s.resetDone s r) s).drainCdc

/-- A port's training comes to its end or to a turn (R245 to R248): at step 4 with an identity to check, in PENDING_ID on a ridge port
while JNR_CHIP.VALID is 0; at its bound, where it stays DOWN and trains on; or, on the fast path, where its settings fail and it falls back
to cold step 2 with the cold bound. Nothing trains while HOLD_RESET_N is asserted (R390). -/
def State.endTraining (s : State) (w : Nat) (res : TrainEnd) (lanes : BitVec 8) (peer : BitVec 17) : State :=
  let valid := s.flag R.JNR_CHIP F.JNR_CHIP.VALID
  let x := s.port w
  match x.train with
  | none => s
  | some t =>
    if !s.mayTrain w || s.pins.hold then s else
    match res with
    | .timeout => if s.portState w == psTraining && decide (t.bound ≤ (s.time - t.start).toNat)
      then s.wr (R.LNK_STATUS w) F.LNK_STATUS.STATE psDown else s
    | .verifyFail => s.setPort w { x with train := some { t with fast := false } }
    | .idWait => if decide (24 ≤ w) && !valid && laneState lanes != psDown then
          (s.wr (R.LNK_STATUS w) F.LNK_STATUS.LANES lanes.toNat).wr (R.LNK_STATUS w) F.LNK_STATUS.STATE psPendingId
        else s
    | .up => if laneState lanes = psDown ∨ (24 ≤ w ∧ !valid) then s else s.identify w lanes peer
    | .miscabled => if laneState lanes = psDown ∨ (24 ≤ w ∧ !valid) then s else s.identify w lanes peer

/-- PORT_TRAINING: a port's training ends; a start that has waited for it goes on. -/
def execPortTraining (w : PortId) (res : TrainEnd) (lanes : BitVec 8) (peer : BitVec 17) (s : State) :
    Host.Outcome State Fault Refusal :=
  .next (s.endTraining w res lanes peer).bootOn

/-- An identity record once it has been read: VALID is 1 (Table 15). -/
def identRead (r : BitVec 128) : BitVec 128 := r ||| BitVec.ofNat 128 (2 ^ 63)

/-- Whether an identity record's CHECK matches its contents, with VALID taken as 1 (Table 15). -/
def identOk (r : BitVec 128) : Bool := crc16 0xFFFF (natLe (identRead r).toNat 14) == bits r.toNat 112 16

/-- What the identity registers of index `i` show once its record has been read; zero where there is no such die (R16, R27). -/
def State.identShown (s : State) (i : Nat) : BitVec 128 :=
  match SMap.look s.fuses.ident i with
  | some r => identRead r
  | none => 0

/-- Read an identity record from fuses (R27); one whose CHECK does not match is presented as stored and flagged IDENT_BAD (R28). -/
def State.readIdent (s : State) (i : Nat) : State :=
  let r := s.identShown i
  let s := s.setWord (R.CHIP_IDENT i) (BitVec.ofNat 64 (r.toNat % 2 ^ 64))
  let s := s.setWord (R.CHIP_IDENT i + 8) (BitVec.ofNat 64 (r.toNat / 2 ^ 64))
  if (SMap.look s.fuses.ident i).isSome ∧ !identOk r then
    s.wr R.CHIP_IDENT_BAD F.CHIP_IDENT_BAD.BAD (s.rd R.CHIP_IDENT_BAD F.CHIP_IDENT_BAD.BAD ||| 2 ^ i)
  else s

/-- AON_POWER_UP: VDD_AON reaches tolerance (Table 128 step 2): the counter starts at 0, identity records 0, 1, 10 and 11 are read, and
MGT_ADDR is sampled. A failed self-check asserts FAULT_N (R361). -/
def execAonPowerUp (mgtAddr : BitVec 3) (selfCheckOk : Bool) (s : State) : Host.Outcome State Fault Refusal :=
  .next (
    if s.pins.aon then s else
    let s := { s with
      time := 0
      pins := { s.pins with aon := true, mgtAddr := mgtAddr } }
    let s := [0, 1, 10, 11].foldl State.readIdent s
    let s := s.stage 1
    if selfCheckOk then s else s.assertFault 3)

/-- What a loss of power or a cold start takes from the always-on machinery beyond the domains' registers: resets in progress, the cairn
being collected, the cairns in HBM, and a deferred activation (R400). -/
def State.dropWork (s : State) : State :=
  let s := ((s.wr R.CRN_STATUS F.CRN_STATUS.BUSY 0).wr R.MGT_CDC F.MGT_CDC.MODE 0).wr R.MGT_FW F.MGT_FW.PENDING 0
  let s := s.wr R.MGT_BOOT F.MGT_BOOT.READY 0
  { s with
    cdc := []
    prog := []
    recov := { s.recov with
      runs := [], chipEnd := none, cairn := none, cairnQ := [], cairns := [], slots := [], boot := none, reports := [],
      mboxReset := [], quar := [] }
    fw := { s.fw with clearSince := none } }

/-- POWER_GOOD_LOSS: every domain is placed in reset, with no cairn and no summary (R19, R361). -/
def execPowerGoodLoss (s : State) : Host.Outcome State Fault Refusal :=
  .next (
    if !s.pins.pwrGood then s else
    let s := if s.flag R.MGT_BOOT F.MGT_BOOT.READY then s.emit .ibi else s
    let s := ((s.resetDomains true).dropWork).stage 1
    { s with pins := { s.pins with pwrGood := false } })

/-- HOLD_RESET_ASSERT: HOLD_RESET_N goes low. While PWR_GOOD is asserted this is a chip reset without a cairn (R390), with a record of its own
(R343); a cairn in progress is cut off. DESIGN CHOICE: with no valid image the domains are reset too, STAGE stays NO_IMAGE, and nothing is
recorded (log entry 96). -/
def execHoldResetAssert (s : State) : Host.Outcome State Fault Refusal :=
  .next (
    if s.pins.hold then s else
    let s := { s with pins := { s.pins with hold := true } }
    if !s.pins.pwrGood then s
    else if s.noImage then (s.clearContexts.flushCdc (fun _ => true)).resetDomains false
    else
    let r := s.plainRec 4 0
    let s := s.draw.enter 20 r true true
    let s := s.beginReset 20 { r with st := .active } true
    let s := match s.recov.runs.find? (fun x => x.level == 4) with
      | some run => s.endCairn run true 0
      | none => s
    s.chipDown)

/-- The boot ROM selects an image slot (R394): the selected one, else the other, which then becomes the selected one. -/
def State.selectSlot (s : State) (okA okB : Bool) : State × Option Nat :=
  let floor := s.rd R.MGT_FW F.MGT_FW.SVN_FLOOR
  let ok := fun (i : Nat) => (if i = 0 then okA else okB) && decide (floor ≤ (SMap.lookD s.flash.imgSvn i 0).toNat)
  let i := if s.flash.active then 1 else 0
  if ok i then (s, some i) else
  let s := s.bump R.MGT_BOOT F.MGT_BOOT.BOOT_FAILS 1
  if ok (1 - i) then
    (({ s with flash := { s.flash with active := i == 0 } } : State).emit (.flash 0), some (1 - i))
  else (s.bump R.MGT_BOOT F.MGT_BOOT.BOOT_FAILS 1, none)

/-- INJECT of the patterns of the factory's default jig package (log entry 3). -/
def factoryPatterns : List Nat := [0, 0, 0, 0, 0, 0, 1, 2]

/-- Put the default jig package of the active slot in force (R337). -/
def State.defaultPkg (s : State) : State :=
  let i := if s.flash.active then 1 else 0
  let k := SMap.lookD s.flash.defPkg i []
  { s with jig := { s.jig with
    store := k, default := true, inject := if k.isEmpty then factoryPatterns else (patTable k).map JigPat.inject, flashDue := false } }

/-- The jig package of a cold start: from flash, measured (R337, R396), else the default one. -/
def State.coldPkg (s : State) : State :=
  match s.flash.pkg with
  | none => s.defaultPkg
  | some k =>
    let s := { s with jig := { s.jig with store := k, default := false, inject := (patTable k).map JigPat.inject, flashDue := false } }
    s.measure 4 0xFF s.flash.epoch.toNat 0 (sha3_512 k)

/-- A cold start from the boot ROM to the training of the ports (Table 128 steps 5 to 9). -/
def State.coldStart (s : State) (okA okB : Bool) (store residue : BitVec 104) : State :=
  let s := (((s.resetDomains true).dropWork).fromFlash).stage 2
  match s.selectSlot okA okB with
  | (s, none) => s.stage 9
  | (s, some i) =>
    let s := { s with flash := { s.flash with staged := s.flash.staged && s.flash.active != (i == 0) } }
    let s := s.wr R.MGT_FW F.MGT_FW.STAGED (if s.flash.staged then 1 else 0)
    let s := (s.loadImage i).coldPkg
    let s := { s with fw := { s.fw with prevSlot := none, waited := false } }
    let s := s.lockClocks
    let sites := (upto 8).filter s.stackPresent
    let s := sites.foldl (fun s i => s.readIdent (2 + i)) s
    let s := sites.foldl (fun s i => s.setPlinth i { s.plinth i with trained := s.time }) s
    let s := s.layMemory
    let s := s.wr R.CRN_STATUS F.CRN_STATUS.SLOTS s.cairnSlots
    let s := (s.trainPorts false).stage 6
    { s with recov := { s.recov with boot := some (false, store, residue) } }

/-- HOLD_RESET_RELEASE: HOLD_RESET_N goes high. The first time after power it comes with PWR_GOOD, and the chip starts cold (R387, R388);
with PWR_GOOD still asserted Table 129 runs from step 3 (R390), where the channels of `badChans` fail verification. `okA` and `okB` say whether the slots pass the checks of Table 132 other
than that of the SVN; `storeFail` and `residueFail` are the cores that fail the march test and the jigs of a cold start. -/
def execHoldResetRelease (okA okB : Bool) (storeFail residueFail : BitVec 104) (badChans : BitVec 256) (s : State) : Host.Outcome State Fault Refusal :=
  .next (
    if !s.pins.aon || !s.pins.hold then s
    else if !s.pins.pwrGood then
      let s := { s with pins := { s.pins with pwrGood := true, hold := false } }
      (s.coldStart okA okB storeFail residueFail).bootOn
    else
      let s := { s with pins := { s.pins with hold := false } }
      if !s.inReset then s else
      let runs := s.recov.runs.map (fun (x : ResetRun) => { x with bound := some s.time })
      let s := { s with recov := { s.recov with runs := runs } }
      (s.chipUp badChans).bootOn)

/-- WARM_CHIP_RESET: a chip reset in progress ends its cairn and goes through Table 129 to the training of its ports (R389). `bad`: stacks
whose cairn slots' writes fail (R364); `badChans`: channels that fail verification. -/
def execWarmChipReset (bad : BitVec 8) (badChans : BitVec 256) (s : State) : Host.Outcome State Fault Refusal :=
  .next (
    match s.recov.runs.find? (fun x => x.level == 4) with
    | none => s
    | some run =>
      if s.inReset || s.pins.hold || s.cairnWaits run then s
      else ((s.endCairn run false bad).chipDown.chipUp badChans).bootOn)

/-- THERM_TRIP: a sensor reaches its trip point (Table 14) and THERM_TRIP_N latches with its source (R20). -/
def execThermTrip (src : TripSrc) (idx : BitVec 4) (temp : BitVec 8) (s : State) : Host.Outcome State Fault Refusal :=
  .next (s.tripAt src idx.toNat temp.toNat)

/-- VDD_AON_REMOVAL: everything but fuses and flash is lost; the latches of THERM_TRIP_N and FAULT_N release (R20, R21, R317, R396). -/
def execVddAonRemoval (s : State) : Host.Outcome State Fault Refusal :=
  .next (({ State.reset with
    pending := s.pending
    regs := []
    fuses := s.fuses
    flash := s.flash
    free := s.free
    outbox := s.outbox } : State).setFused)

/-- PLL_LOSS_OF_LOCK: the clock domain of a PLL stops (R386); the bridge's loss of lock is a bridge failure (Table 111). -/
def execPllLossOfLock (die : DieId) (pll : Pll) (s : State) : Host.Outcome State Fault Refusal :=
  .next (
    let r := R.DIE_STATUS die
    match pll with
    | .core => ((s.wr r F.DIE_STATUS.CORE_PLL_LOCK 0).setClock die 0).endRuns die
    | .noc => s.wr r F.DIE_STATUS.NOC_PLL_LOCK 0
    | .bridge => if s.flag r F.DIE_STATUS.BRIDGE_UP then s.bridgeDown else s)

/-! ### Firmware processors -/

/-- Times of the last 10 s. -/
def State.last10 (s : State) (l : List Word) : List Word := l.filter (fun t => decide ((s.time - t).toNat ≤ 10 * tickS))

/-- The hut core of a die has restarted (R248): the ports of its die that train begin at step 1 again, and their bounds grow by its restart
time, 50 ms (Table 130). -/
def State.trainAgain (s : State) (d : Nat) : State :=
  (upto 32).foldl (fun s w =>
    let x := s.port w
    if (if w < 24 then w / 12 else (w - 24) / 4) = d ∧ s.portState w ≠ psPendingId then
      s.setPort w { x with train := x.train.map (fun t => { t with extra := t.extra + 5000000 }) } else s) s

/-- A firmware processor has restarted (R391): counted, recorded, and announced. -/
def State.procRestarted (s : State) (proc : FwProc) (cause : FwCause) : State :=
  let code := match proc with
    | .base => 0
    | .hutN => 1
    | .hutS => 2
  let why := match cause with
    | .watchdog => 0
    | .except => 1
    | .activation => 2
  let fld := match proc with
    | .base => F.MGT_FWPROC.BC_RESTARTS
    | .hutN => F.MGT_FWPROC.HUT_N_RESTARTS
    | .hutS => F.MGT_FWPROC.HUT_S_RESTARTS
  let unit := match proc with
    | .base => 0xC000
    | .hutN => 0xB000
    | .hutS => 0xB001
  let t := s.time
  let r := s.recov
  let r := match proc with
    | .base => { r with bcRestarts := r.bcRestarts.filter (fun e => decide ((t - e.1).toNat ≤ 10 * tickS)) ++ [(t, cause == .watchdog)] }
    | .hutN => { r with hutNRestarts := s.last10 r.hutNRestarts ++ [t] }
    | .hutS => { r with hutSRestarts := s.last10 r.hutSRestarts ++ [t] }
  let n := match proc with
    | .base => r.bcRestarts.length
    | .hutN => r.hutNRestarts.length
    | .hutS => r.hutSRestarts.length
  let s := match proc with
    | .base => s
    | .hutN => s.trainAgain 0
    | .hutS => s.trainAgain 1
  let s := ({ s with recov := r } : State).bump R.MGT_FWPROC fld 1
  let s := s.file clsFwRestart 0 unit none 0 0
  s.event 0x8006 (natLe code 1 ++ natLe why 1 ++ natLe n 2 ++ natLe 0 4 ++ natLe t.toNat 8 ++ natLe t.toNat 8)

/-- Mailbox requests in flight complete with FW_RESTARTED (R315); a load goes on without its reply, and a reset too. -/
def State.dropMail (s : State) : State :=
  let s := (upto 7).foldl (fun s ch => if s.flag (R.MBX_CTRL ch) F.MBX_CTRL.BUSY then s.reply ch msRestarted 0 [] else s) s
  let ctxs : SMap Ctx := s.ctxs.map (fun (kc : Nat × Ctx) => (kc.1, { kc.2 with loadCh := none, biv := { kc.2.biv with rst := none } }))
  { s with
    ctxs := ctxs
    recov := { s.recov with mboxReset := [] } }

/-- Whether a reset in progress has steps of the base-camp core before it: a chip reset, or one whose cairn is not stored yet. -/
def State.needsBase (s : State) (x : ResetRun) : Bool :=
  x.level == 4 || s.cairnWaits x || s.recov.cairn.any (fun c => c.level == x.level && c.target.toNat == x.target)

/-- The base-camp core restarts: requests in flight complete, and the bounds of its own steps of a reset count from here, a cairn's time
limit among them; what hardware does goes on (R358, R392). -/
def State.restartBase (s : State) (cause : FwCause) : State :=
  let s := (s.dropMail).procRestarted .base cause
  let runs := s.recov.runs.map (fun (x : ResetRun) =>
    if s.needsBase x then { x with bound := some s.time, paused := 0, pauseAt := x.pauseAt.map (fun _ => s.time) } else x)
  { s with recov := { s.recov with runs := runs, cairnBase := s.time, cairnRead := s.time } }

/-- Write an ACTIVATION_DONE event (Table 134). -/
def State.activationDone (s : State) (result : Nat) (waited : Bool) : State :=
  s.event 0x8005 (natLe result 1 ++ natLe (s.rd R.MGT_BOOT F.MGT_BOOT.ACTIVE_SLOT) 1 ++ natLe (if waited then 1 else 0) 1 ++ natLe 0 5 ++
    natLe (s.rd R.MGT_FW F.MGT_FW.VERSION) 8 ++ natLe s.time.toNat 8)

/-- Put the image of a slot in force: measured, its default jig package in use where no other is installed. -/
def State.runImage (s : State) (i : Nat) : State :=
  let own := s.jig.default
  let s := (s.loadImage i).emit (.flash 0)
  if own then s.defaultPkg.showPkg else s

/-- The watchdog fires within 5 s of an activation: the previous slot runs again (R399). -/
def State.revert (s : State) : State :=
  match s.fw.prevSlot, s.fw.activatedAt with
  | some old, some t =>
    if 5 * tickS < (s.time - t).toNat then s else
    let waited := s.fw.waited
    let s := s.runImage (if old then 1 else 0)
    ({ s with fw := { s.fw with prevSlot := none, activatedAt := none, waited := false } } : State).activationDone 1 waited
  | _, _ => s

/-- Watchdog restarts of the base-camp core in the last 10 s. -/
def State.bcWatchdogs (s : State) : Nat := s.recov.bcRestarts.countP (fun e => e.2 && decide ((s.time - e.1).toNat ≤ 10 * tickS))

/-- The base-camp core restarts for a cause of its own. A watchdog restart ends the clean run of R395, may undo an activation (R399), and
as the third within 10 s asserts FAULT_N (R361). -/
def State.baseFails (s : State) (cause : FwCause) : State :=
  let s := s.restartBase cause
  if cause != .watchdog then s else
  let t := s.revert
  let t : State := { t with fw := { t.fw with activatedAt := none } }
  if decide (3 ≤ t.bcWatchdogs) then t.assertFault 4 else t

/-- FW_PROC_RESTART: a watchdog or an exception restarts a firmware processor (R391, R392). -/
def execFwProcRestart (proc : FwProc) (cause : FwCause) (s : State) : Host.Outcome State Fault Refusal :=
  .next (
    if !s.pins.pwrGood || s.noImage || cause == .activation || (proc != .base && s.pins.hold) then s
    else if proc = .base then s.baseFails cause else s.procRestarted proc cause)

/-! ### Staging and activation -/

/-- Entries of an image's section table (Table 131): KIND, OFF and BYTES. -/
def imageSections (im : List Byte) : List (Nat × Nat × Nat) :=
  (upto 3).map (fun i => (leAt im (0x1C80 + 16 * i) 1, leAt im (0x1C80 + 16 * i + 4) 4, leAt im (0x1C80 + 16 * i + 8) 4))

/-- Bytes of the section of a kind. -/
def imageSection (im : List Byte) (kind : Nat) : List Byte :=
  match (imageSections im).find? (fun e => e.1 == kind) with
  | some (_, o, n) => slice im o n
  | none => []

/-- Largest section of a kind. -/
def sectionLimit (kind : Nat) : Nat := if kind = 2 then 0x200000 else 0x400000

/-- The order number of the first check of Table 132 that an image fails, 0 if it passes. -/
def State.fwFails (s : State) (im : List Byte) : Nat :=
  let secs := imageSections im
  let size := leAt im 0x18 4
  if leAt im 0 4 ≠ 0x57464E52 ∨ leAt im 4 2 ≠ 1 ∨ leAt im 0x16 2 ≠ 3 ∨
      !([1, 2, 3].all (fun k => secs.countP (fun e => e.1 == k) == 1)) then 1
  else if 0x2000000 < size ∨ im.length < size ∨
      !(secs.all (fun e => decide (e.2.1 + e.2.2 ≤ size) && decide (e.2.2 ≤ sectionLimit e.1))) ∨ !disjointRanges (secs.map Prod.snd) then 2
  else if !keyFits im s.fuses.fwKey then 3
  else if !sigFits im then 4
  else if leAt im 0x14 2 ≠ s.rd R.CHIP_ID F.CHIP_ID.STEPPING then 5
  else if leAt im 0x10 4 < s.rd R.MGT_FW F.MGT_FW.SVN_FLOOR then 6
  else 0

/-- Sub-codes FW_READBACK and ATT_BUFFER (R397, R398). -/
def subReadback : Nat := (Config.subCode 0).toNat
def subBuffer : Nat := (Config.subCode 2).toNat

/-- The slot that is not active. -/
def State.spareSlot (s : State) : Nat := if s.flash.active then 0 else 1

/-- FW_STAGE (R398): `image` is the image as read from host memory, `readbackOk`
whether the flash reads back as written. -/
def execFwStage (ch : MbxId) (image : List Byte) (readbackOk : Bool) (s : State) : Host.Outcome State Fault Refusal :=
  .next (s.mbxRequest ch 0x200 16 (fun s =>
    if s.flag R.MGT_FW F.MGT_FW.STAGING || s.flag R.MGT_FW F.MGT_FW.PENDING then s.reply ch msState 0 [] else
    let im := slice image 0 (s.payload ch 8 4)
    let code := s.fwFails im
    if code ≠ 0 then s.reply ch msArg code [] else
    let i := s.spareSlot
    let dig := [1, 2, 3].map (fun k => BitVec.ofNat 512 (leNat (sha3_512 (imageSection im k))))
    let f : Flash := { s.flash with
      version := SMap.put s.flash.version i (BitVec.ofNat 64 (leAt im 8 8))
      imgSvn := SMap.put s.flash.imgSvn i (BitVec.ofNat 32 (leAt im 0x10 4))
      raise := SMap.put s.flash.raise i (leAt im 6 2 % 2 == 1)
      digests := SMap.put s.flash.digests i dig
      defPkg := SMap.put s.flash.defPkg i (imageSection im 3)
      staged := readbackOk }
    let s := ({ s with flash := f } : State).emit (.flash 0)
    let s := s.wr R.MGT_FW F.MGT_FW.STAGED (if readbackOk then 1 else 0)
    if readbackOk then s.reply ch msOk 0 [] else s.reply ch msArg subReadback []))

/-- Steps 2 to 5 of an activation (Table 134). -/
def State.activate (s : State) (verifyOk waited : Bool) : State :=
  let s := (s.wr R.MGT_FW F.MGT_FW.PENDING 0).wr R.MGT_FW F.MGT_FW.STAGED 0
  let i := s.spareSlot
  let s := { s with flash := { s.flash with staged := false } }
  if !verifyOk || decide ((SMap.lookD s.flash.imgSvn i 0).toNat < s.rd R.MGT_FW F.MGT_FW.SVN_FLOOR) then s.activationDone 2 waited else
  let old := s.flash.active
  let s := s.runImage i
  let s := (s.restartBase .activation).procRestarted .hutN .activation
  let s := s.procRestarted .hutS .activation
  let s := { s with fw := { s.fw with prevSlot := some old, waited := waited, activatedAt := some s.time } }
  s.activationDone 0 waited

/-- FW_ACTIVATE (R396, R399, R400): `verifyOk` says whether the staged slot passes Table 132 again. -/
def execFwActivate (ch : MbxId) (verifyOk : Bool) (s : State) : Host.Outcome State Fault Refusal :=
  .next (s.mbxRequest ch 0x201 0 (fun s =>
    if s.mlogFull then s.reply ch msState subLogFull []
    else if s.flag R.MGT_FW F.MGT_FW.PENDING then s.reply ch msDeferred 0 []
    else if !s.flag R.MGT_FW F.MGT_FW.STAGED then s.reply ch msState 0 []
    else if s.flag R.CLP_STATUS F.CLP_STATUS.EMERGENCY then (s.wr R.MGT_FW F.MGT_FW.PENDING 1).reply ch msDeferred 0 []
    else (s.reply ch msOk 0 []).activate verifyOk false))

/-- ACTIVATION_DEFERRED_START: EMERGENCY has read 0 for 1 s while an activation is pending (R400). -/
def execActivationDeferredStart (verifyOk : Bool) (s : State) : Host.Outcome State Fault Refusal :=
  .next (
    let clear := match s.fw.clearSince with
      | some t => decide (tickS ≤ (s.time - t).toNat)
      | none => false
    if s.flag R.MGT_FW F.MGT_FW.PENDING && s.flag R.MGT_BOOT F.MGT_BOOT.READY && clear then s.activate verifyOk true else s)

/-- SVN_FLOOR_RAISE: an image with RAISE_SVN has run for 60 s without a watchdog restart of the base-camp core (R395). -/
def execSvnFloorRaise (s : State) : Host.Outcome State Fault Refusal :=
  .next (
    match s.fw.activatedAt with
    | none => s
    | some t =>
      if !s.fw.raiseSvn || decide ((s.time - t).toNat < 60 * tickS) || decide (s.fw.imgSvn.toNat ≤ s.fuses.svn.toNat) then s else
      ({ s with fuses := { s.fuses with svn := s.fw.imgSvn } } : State).wr R.MGT_FW F.MGT_FW.SVN_FLOOR s.fw.imgSvn.toNat)

/-! ### Reports -/

/-- The measurement log as bytes. -/
def State.mlogBytes (s : State) : List Byte := s.fw.mlog.flatMap (fun e => natLe e.toNat 128)

/-- An attestation report up to its log, of `n` bytes in all (Table 133). -/
def State.attestHead (s : State) (nonce : List Byte) (n : Nat) : List Byte :=
  let ident := (upto 12).flatMap (fun i =>
    natLe (s.word (R.CHIP_IDENT i)).toNat 8 ++ natLe (s.word (R.CHIP_IDENT i + 8)).toNat 8)
  natLe 0x54525441 4 ++ natLe 1 2 ++ natLe 0 2 ++ natLe n 4 ++ natLe s.fw.mlog.length 4 ++ natLe s.time.toNat 8 ++
  natLe s.ownChip 4 ++ natLe (s.rd R.CHIP_ID F.CHIP_ID.PART) 2 ++ natLe (s.rd R.CHIP_ID F.CHIP_ID.STEPPING) 2 ++ nonce ++ ident ++
  natLe (s.rd R.CHIP_IDENT_BAD F.CHIP_IDENT_BAD.BAD) 2 ++ natLe 0 2 ++ natLe (s.rd R.MGT_FW F.MGT_FW.SVN_FLOOR) 4 ++
  natLe (s.rd R.MGT_FW F.MGT_FW.VERSION) 8 ++ natLe (s.rd R.JIG_PKG F.JIG_PKG.EPOCH) 4 ++ natLe 0 12 ++ natLe s.fw.digest.toNat 64

/-- Write bytes to the host's buffer, or answer ATT_BUFFER with the bytes needed where they do not fit (R397). -/
def State.toHost (s : State) (ch hpa room : Nat) (d payload : List Byte) : State :=
  if room < d.length then s.reply ch msArg subBuffer (natLe d.length 4)
  else (s.emit (.hostWrite hpa d)).reply ch msOk 0 payload

/-- ATTEST (R397): `pubkey` is the identity key, `sig` the signature over the report. -/
def execAttest (ch : MbxId) (pubkey sig : List Byte) (s : State) : Host.Outcome State Fault Refusal :=
  .next (s.mbxRequest ch 0x210 80 (fun s =>
    let n := 0x180 + 128 * s.fw.mlog.length + 2592 + 4627
    let d := s.attestHead (s.reqBytes ch 32 64) n ++ s.mlogBytes ++ slice pubkey 0 2592 ++ slice sig 0 4627
    s.toHost ch (s.payload ch 64 8) (s.payload ch 72 4) d (natLe n 4)))

/-- GET_MEASUREMENTS (R397): the log, unsigned. -/
def execGetMeasurements (ch : MbxId) (s : State) : Host.Outcome State Fault Refusal :=
  .next (s.mbxRequest ch 0x211 16 (fun s =>
    s.toHost ch (s.payload ch 0 8) (s.payload ch 8 4) s.mlogBytes
      (natLe s.fw.mlog.length 4 ++ natLe 0 4 ++ natLe s.fw.digest.toNat 64)))

end Sys2Proof.Machine
end

