-- ==== Sys2Proof/Machine/Chk.lean ====
section
/-!
DEFINITION. CHK instructions: stored states of tiles (R165).
-/
namespace Sys2Proof.Machine

/-- The code of a stored state. -/
def stateCode : TState → Nat
  | .unwritten => 0
  | .sealed => 1
  | .poison => 2

/-- Check a scratchpad tile and report its state afterwards; a failing seal turns it to POISON (R41, R165). -/
def State.chkSpd (s : State) (p c i : Nat) : State × Nat :=
  let s := (s.spdCheck p (some c) i).1
  (s, stateCode ((s.core p).spd.info i).st)

/-- Check an HBM tile of this chip and report its state afterwards; none while the tile must wait. -/
def State.chkHbm (s : State) (p c i : Nat) : State × Option Nat :=
  match s.readAs (.eng .seq p c) (2048 * i) 2048 with
  | (s, none) => (s, none)
  | (s, some (_, _, m)) => (s, some (stateCode m.st))


/-- CHK.STATE (R165). It consumes no poison. A host-window address has no tile of which the manual says a state: the result is a
free value (log entry 26). -/
def State.chkState (s : State) (p : CoreId) (rd ra : SReg) (space : Space) (off : BitVec 32) : State :=
  s.issue p true 8 (fun s c =>
    let a := (s.baseOff p ra off).toNat
    match s.dmaAddr p c space a 1 .read with
    | (s, .at (.spd x)) =>
      if s.behindDrain p (.spd x) 1 then s else
      let (s, v) := s.chkSpd p c (x / 2048)
      s.commitReg p rd (BitVec.ofNat 64 v)
    | (s, .at (.hbm x)) =>
      if s.storeAhead p (.hbm x) then s else
      match s.chkHbm p c (x / 2048) with
      | (s, none) => s
      | (s, some v) => s.commitReg p rd (BitVec.ofNat 64 v)
    | (s, .at (.remote chip x)) =>
      if chip.toNat = s.ownChip then
        match s.ownTarget c (x - x % 2048) 2048 with
        | none => s.raiseInsn p c cRemoteError x 0
        | some (.spd q l) =>
          let (s, v) := s.chkSpd q c (l / 2048)
          s.commitReg p rd (BitVec.ofNat 64 v)
        | some (.hbm y) => match s.chkHbm p c (y / 2048) with
          | (s, none) => s
          | (s, some v) => s.commitReg p rd (BitVec.ofNat 64 v)
      else if !s.fabricFree p then s else
        let t := x - x % 2048
        let s := s.setCore p { s.core p with
          load := some { rd := rd, size := 1, signed := false, tgt := .remote chip t, tag := some s.nextTag, chk := true, since := s.time } }
        s.sendReq { seqReq 1 chip t 2048 p c with whole := some {} }
    | (s, .at (.host _)) => s.draw.commitReg p rd (Config.freeWord s.free)
    | (s, r) => s.raiseAccess p c a r)

/-- CHK.STATE. -/
def execChkState (p : CoreId) (rd ra : SReg) (space : Space) (off : BitVec 32) (s : State) :
    Host.Outcome State Fault Refusal := .next (s.chkState p rd ra space off)

/-- Check tiles and count those in POISON state afterwards. -/
def State.verifyTiles (s : State) (p c : Nat) (l : List Nat) : State × Nat :=
  l.foldl (fun (x : State × Nat) i =>
    let (s, v) := x.1.chkSpd p c i
    (s, x.2 + (if v = 2 then 1 else 0))) (s, 0)

/-- CHK.VERIFY: an address that is no multiple of 2 KiB raises MISALIGNED and nothing is checked (R148, R165). -/
def State.chkVerify (s : State) (p : CoreId) (rd ra rb : SReg) : State :=
  s.issue p true 8 (fun s c =>
    let a := (s.sreg p ra).toNat
    let n := (s.sreg p rb).toNat
    if a % 2048 ≠ 0 then s.raiseMisaligned p c a
    else if n = 0 then s.commitReg p rd 0
    else match s.spdAddr p (s.runSlotOf p) a (2048 * n) with
      | none => s.raiseInsn p c cSpdBounds a 0
      | some x =>
        if s.drainAhead p x (2048 * n) then s else
        let (s, v) := s.verifyTiles p c (natsFrom (x / 2048) n)
        s.commitReg p rd (BitVec.ofNat 64 v))

/-- CHK.VERIFY. -/
def execChkVerify (p : CoreId) (rd ra rb : SReg) (s : State) : Host.Outcome State Fault Refusal :=
  .next (s.chkVerify p rd ra rb)

end Sys2Proof.Machine
end

