-- ==== Sys2Proof/Machine/Cub.lean ====
section
/-!
DEFINITION. CUB instructions, the cube queue, loads, ring steps, accumulator updates and drains (R60 to R77, R105 to R118,
R162, R163, R425).
-/
namespace Sys2Proof.Machine

/-! ### The queue -/

/-- Cubes a queued instruction names. -/
def cubMask : CubOp → Nat
  | .lds d _ => d.mask.toNat
  | .ldsc d _ _ => d.mask.toNat
  | .mma d _ _ => d.mask.toNat
  | .drain d _ => d.mask.toNat
  | .reseed _ _ => 0

/-- The slot a queued instruction names. -/
def cubSlot : CubOp → Option Nat
  | .lds d _ => some d.slot.val
  | .ldsc d _ _ => some d.slot.val
  | .mma d _ _ => some d.slot.val
  | .drain _ _ => none
  | .reseed _ _ => none

/-- Whether a queued instruction uses accumulators. -/
def cubAcc : CubOp → Bool
  | .lds _ _ => false
  | .ldsc _ _ _ => false
  | .mma _ _ _ => true
  | .drain _ _ => true
  | .reseed _ _ => false

/-- Tiles, by context address, that a drain writes. -/
def drainTiles (d : CubDrain) (base : Nat) : List Nat :=
  (onesOf d.mask.toNat 16).map (fun c => (base + 1024 * c) % 2 ^ 64 / 2048)

/-- Whether a later instruction waits for an earlier one (R63): the same slot of the same cube, or the same cube's accumulators. Two drains
to one tile keep their order (R126). A seed change stands between the instructions issued before and after it (R115). -/
def cubWaits (later earlier : CubOp) : Bool :=
  match later, earlier with
  | .drain d a, .drain e b => d.mask &&& e.mask != 0 || (drainTiles d a).any (drainTiles e b).contains
  | .reseed _ _, .mma _ _ _ => true
  | .mma _ _ _, .reseed _ _ => true
  | .reseed _ _, .reseed _ _ => true
  | _, _ => cubMask later &&& cubMask earlier != 0 &&
      (((cubSlot later).isSome && cubSlot later == cubSlot earlier) || (cubAcc later && cubAcc earlier))

/-- Whether an instruction waits for updates still in flight: a drain for steps of its cubes, a seed change for all (R70, R115). A load waits
for the grants of its slot's steps and not for their updates (R65). -/
def cubWaitsUpd (o : CubOp) (u : CubUpd) : Bool :=
  match o with
  | .lds _ _ => false
  | .ldsc _ _ _ => false
  | .mma _ _ _ => false
  | .drain d _ => d.mask &&& u.d.mask != 0
  | .reseed _ _ => true

/-- The queued instructions that `sel` selects and that wait for nothing, in issue order: place, instruction and context. -/
def allReady (sel : CubOp → Bool) (upds : List (CubUpd × Owner)) :
    List CubOp → Nat → List (CubOp × Owner) → List (Nat × CubOp × Owner)
  | _, _, [] => []
  | before, i, (o, c) :: l =>
    let rest := allReady sel upds (before ++ [o]) (i + 1) l
    if sel o && !before.any (cubWaits o) && !upds.any (fun u => cubWaitsUpd o u.1) then (i, o, c) :: rest else rest

/-- The queued instructions of core `p` that are ready. -/
def State.cubsReady (s : State) (p : Nat) (sel : CubOp → Bool) : List (Nat × CubOp × Owner) :=
  if s.clocked p then allReady sel (s.core p).upds [] 0 (s.core p).cubeQ else []

/-- The first queued instruction of core `p` that is ready. -/
def State.cubReady (s : State) (p : Nat) (sel : CubOp → Bool) : Option (Nat × CubOp × Owner) := (s.cubsReady p sel).head?

/-- Remove the queue entry at a place. The progress of a core's cubes is noted under its first one (R350). -/
def State.cubPop (s : State) (p i : Nat) : State :=
  (s.setCore p { s.core p with cubeQ := (s.core p).cubeQ.eraseIdx i }).stamp (uCube p 0)

/-- A seed change whose turn has come takes effect (R115). -/
def State.applyReseed (s : State) (p : Nat) : State :=
  match s.cubReady p (fun o => match o with | .reseed _ _ => true | _ => false) with
  | some (i, .reseed sl v, _) => (s.cubPop p i).applySeed p sl.val v
  | _ => s

/-- After cube work: a pending seed change, and the end of a halted program whose work has drained. -/
def State.cubAfter (s : State) (p : Nat) : State := (s.applyReseed p).handOver p

/-- Put an instruction in the cube queue of 16 entries; a full queue stalls the sequencer, which does not commit. -/
def State.cubQueue (s : State) (p c : Nat) (o : CubOp) : State :=
  let k := s.core p
  if 16 ≤ (k.cubeQ.filter (fun e => match e.1 with | .reseed _ _ => false | _ => true)).length then s
  else
    let s := if k.cubeQ.isEmpty && k.upds.isEmpty then s.stamp (uCube p 0) else s
    (s.setCore p { k with cubeQ := k.cubeQ ++ [(o, Fin.ofNat 17 c)] }).commit16 p

/-- CUB.LDS: block addresses are multiples of 256 (R162). -/
def execCubLds (p : CoreId) (d : CubLds) (s : State) : Host.Outcome State Fault Refusal :=
  .next (s.issue p (legalLds d) 16 (fun s c =>
    let a := (s.baseOff p d.ra d.boff).toNat
    if a % 256 ≠ 0 then s.raiseMisaligned p c a else s.cubQueue p c (.lds d a)))

/-- CUB.LDSC: scale addresses are multiples of 16 (R162). -/
def execCubLdsc (p : CoreId) (d : CubLdsc) (s : State) : Host.Outcome State Fault Refusal :=
  .next (s.issue p (legalLdsc d) 16 (fun s c =>
    let b := (s.baseOff p d.rbB d.bsoff).toNat
    let a := (s.baseOff p d.rbA d.asoff).toNat
    if d.ldB ∧ b % 16 ≠ 0 then s.raiseMisaligned p c b
    else if d.ldA ∧ a % 16 ≠ 0 then s.raiseMisaligned p c a
    else s.cubQueue p c (.ldsc d b a)))

/-- CUB.MMA (R66, R162). -/
def execCubMma (p : CoreId) (d : CubMma) (s : State) : Host.Outcome State Fault Refusal :=
  .next (s.issue p (legalMma d) 16 (fun s c =>
    let a := (s.baseOff p d.ra d.aoff).toNat
    if a % 256 ≠ 0 then s.raiseMisaligned p c a else s.cubQueue p c (.mma d a 0)))

/-- CUB.DRAIN: drain addresses are multiples of 1 KiB (R162). -/
def execCubDrain (p : CoreId) (d : CubDrain) (s : State) : Host.Outcome State Fault Refusal :=
  .next (s.issue p (legalDrain d) 16 (fun s c =>
    let a := (s.baseOff p d.ra d.doff).toNat
    if a % 1024 ≠ 0 then s.raiseMisaligned p c a else s.cubQueue p c (.drain d a)))

/-! ### Reads of the scratchpad by the cubes -/

/-- The 256 B blocks that `n` bytes from `a` on lie in. -/
def blocksOf (a n : Nat) : List Nat := (natsFrom (a / 256) ((a + n - 1) / 256 - a / 256 + 1)).map (fun b => 256 * b)

/-- The distinct 256 B blocks of a list of requests: requests for one block are served by one read (R68). -/
def distinct (l : List (Nat × Nat)) : List Nat :=
  (l.flatMap (fun x => blocksOf x.1 x.2)).foldl (fun r x => if r.contains x then r else r ++ [x]) []

/-- Read 256 B blocks of the scratchpad at context addresses for the cubes: the bytes and poison of each, none where one lies outside the
allocation (R43). -/
def State.cubBlocks (s : State) (p c : Nat) : List Nat → State × Option (List (Nat × List Byte × Bool))
  | [] => (s, some [])
  | a :: l =>
    match s.slotOf p c with
    | none => (s, none)
    | some i => match s.spdAddr p i a 256 with
      | none => (s, none)
      | some x =>
        match State.cubBlocks (s.spdRead p (some c) x 256).1 p c l with
        | (t, none) => (t, none)
        | (t, some r) => (t, some ((a, (s.spdRead p (some c) x 256).2) :: r))

/-- Serve the requests of the cubes, each an address and a length (R68). -/
def State.cubRead (s : State) (p c : Nat) (l : List (Nat × Nat)) : State × Option (List (Nat × List Byte × Bool)) :=
  s.cubBlocks p c (distinct l)

/-- The bytes of one 256 B block that was read. -/
def blockAt (l : List (Nat × List Byte × Bool)) (a : Nat) : List Byte × Bool :=
  match l.find? (fun e => e.1 == a) with
  | some e => e.2
  | none => ([], false)

/-- The bytes and poison of the request for `n` bytes at an address. -/
def gotAt (l : List (Nat × List Byte × Bool)) (a n : Nat) : List Byte × Bool :=
  let bs := (blocksOf a n).map (blockAt l)
  (slice (bs.flatMap Prod.fst) (a % 256) n, bs.any Prod.snd)

/-- The cubes of a mask in ascending order. -/
def cubesOf (m : BitVec 16) : List Nat := onesOf m.toNat 16

/-- Show the poison bits of a slot: set while any of its three parts is marked (R71). -/
def State.showSlot (s : State) (p c : Nat) : State :=
  let q := (s.core p).cube c
  (s.wr (R.CUBE_STATUS p c) F.CUBE_STATUS.SLOT0_POISON (if q.mark0 = 0 then 0 else 1)).wr
    (R.CUBE_STATUS p c) F.CUBE_STATUS.SLOT1_POISON (if q.mark1 = 0 then 0 else 1)

/-- Set or clear the poison mark of a part of a slot: bit 0 the block, 1 the B scales, 2 the A scales. -/
def Cube.mark (q : Cube) (slot part : Nat) (poison : Bool) : Cube :=
  let b : BitVec 3 := 1 <<< part
  let f := fun (m : BitVec 3) => if poison then m ||| b else m &&& ~~~b
  if slot = 0 then { q with mark0 := f q.mark0 } else { q with mark1 := f q.mark1 }

/-- Whether a slot is poisoned. -/
def Cube.slotPoison (q : Cube) (slot : Nat) : Bool := if slot = 0 then q.mark0 != 0 else q.mark1 != 0

/-- A bit vector of a byte list. -/
def bvOf (n : Nat) (l : List Byte) : BitVec n := BitVec.ofNat n (leNat l)

/-- Load a stationary block into a slot; every byte beyond it is zero (R64). -/
def State.loadBlock (s : State) (p c slot : Nat) (d : List Byte) (poison : Bool) : State :=
  let q := ((s.core p).cube c).mark slot 0 poison
  let q := if slot = 0 then { q with block0 := bvOf 8192 d } else { q with block1 := bvOf 8192 d }
  let s := s.setCube p c q
  let s := if slot = 0 then s.wr (R.CUBE_STATUS p c) F.CUBE_STATUS.SLOT0_READY 1
    else s.wr (R.CUBE_STATUS p c) F.CUBE_STATUS.SLOT1_READY 1
  s.showSlot p c

/-- Load B scales into a slot (R425). -/
def State.loadBsc (s : State) (p c slot : Nat) (d : List Byte) (poison : Bool) : State :=
  let q := ((s.core p).cube c).mark slot 1 poison
  (s.setCube p c (if slot = 0 then { q with bsc0 := bvOf 256 d } else { q with bsc1 := bvOf 256 d })).showSlot p c

/-- Load a slot's A-scale buffer: 16 entries of 32 bytes (R425). -/
def State.loadAsc (s : State) (p c slot : Nat) (d : List Byte) (poison : Bool) : State :=
  let q := ((s.core p).cube c).mark slot 2 poison
  (s.setCube p c (if slot = 0 then { q with asc0 := bvOf 4096 d } else { q with asc1 := bvOf 4096 d })).showSlot p c

/-- A cube instruction outside the allocation (R43). -/
def State.cubBounds (s : State) (p c a : Nat) : State := s.raise c cSpdBounds (uCore p) a 0

/-- The cubes consume poison (R71, R320). DESIGN CHOICE: a load or step whose lines arrive poisoned at several cubes makes one report, which
names the first of them (log entry 85). -/
def State.cubPoison (s : State) (p c cube a : Nat) : State := s.raise c cPoisonConsumed (uCube p cube) a 0

/-- Perform a CUB.LDS (R64, R71, R162). -/
def State.doLds (s : State) (p c : Nat) (d : CubLds) (base : Nat) : State :=
  let n := blockBytes d.fmt
  let cs := (cubesOf d.mask).zip (upto 16)
  let addr := fun j => (base + j * d.bstr.toNat * 256) % 2 ^ 64
  match s.cubRead p c (cs.map (fun e => (addr e.2, n))) with
  | (s, none) => s.cubBounds p c base
  | (s, some got) =>
    let s := cs.foldl (fun s e => let (b, po) := gotAt got (addr e.2) n; s.loadBlock p e.1 d.slot.val b po) s
    match cs.find? (fun e => (gotAt got (addr e.2) n).2) with
    | some e => s.cubPoison p c e.1 (addr e.2)
    | none => s

/-- Bytes of a scale group (R163). -/
def groupBytes (f : Fmt) (s32 : Bool) : Nat := if stepK f = 32 ∧ !s32 then 32 else 16

/-- Consecutive cubes that share a scale group (R163). -/
def groupShare (f : Fmt) (s32 : Bool) (R : Nat) : Nat := if 2 ≤ R ∧ stepK f = 16 ∧ s32 then 2 else 1

/-- Perform a CUB.LDSC (R163, R425). -/
def State.doLdsc (s : State) (p c : Nat) (d : CubLdsc) (baseB baseA : Nat) : State :=
  let rg := ringSize d.ring
  let G := groupBytes d.fmt d.s32
  let P := groupShare d.fmt d.s32 rg
  let cs := (cubesOf d.mask).zip (upto 16)
  let ab := fun j => (baseB + j / P * G) % 2 ^ 64
  let aa := fun j m => (baseA + (m * rg / P + j % rg / P) * G) % 2 ^ 64
  let reads := (if d.ldB then cs.map (fun e => (ab e.2, G)) else []) ++
    (if d.ldA then cs.flatMap (fun e => (upto rg).map (fun m => (aa e.2 m, G))) else [])
  match s.cubRead p c reads with
  | (s, none) => s.cubBounds p c (if d.ldB then baseB else baseA)
  | (s, some got) =>
    let ga := fun j => (upto rg).map (fun m => gotAt got (aa j m) G)
    let s := if d.ldB then
        cs.foldl (fun s e => let (b, po) := gotAt got (ab e.2) G; s.loadBsc p e.1 d.slot.val b po) s
      else s
    let s := if d.ldA then
        cs.foldl (fun s e =>
          s.loadAsc p e.1 d.slot.val ((ga e.2).flatMap (fun x => slice x.1 0 32)) ((ga e.2).any Prod.snd)) s
      else s
    match cs.find? (fun e => (d.ldB && (gotAt got (ab e.2) G).2) || (d.ldA && (ga e.2).any Prod.snd)) with
    | some e => s.cubPoison p c e.1 (if d.ldB then ab e.2 else aa e.2 0)
    | none => s

/-- Whether a queued instruction is a load. -/
def isLoad : CubOp → Bool
  | .lds _ _ => true
  | .ldsc _ _ _ => true
  | .mma _ _ _ => false
  | .drain _ _ => false
  | .reseed _ _ => false

/-- CUBE_LOAD_GRANT: the oldest pending load is granted and clocked in (R64, R68). -/
def execCubeLoadGrant (p : CoreId) (s : State) : Host.Outcome State Fault Refusal :=
  .next (match s.cubReady p isLoad with
    | some (i, .lds d a, c) => ((s.cubPop p i).doLds p c.val d a).cubAfter p
    | some (i, .ldsc d b a, c) => ((s.cubPop p i).doLdsc p c.val d b a).cubAfter p
    | _ => s)

/-! ### Ramps -/

/-- The ramp state of a cube: 0 QUIET, 1 RAMP_UP, 2 ACTIVE, 3 RAMP_DOWN. -/
def State.rampOf (s : State) (p c : Nat) : Nat := s.rd (R.CUBE_STATUS p c) F.CUBE_STATUS.RAMP_STATE

/-- Issue duty of a cube. -/
def State.dutyOf (s : State) (p c : Nat) : Nat := s.rd (R.CUBE_STATUS p c) F.CUBE_STATUS.DUTY

/-- Put a cube's ramp at a duty, on the way up or down (R76). -/
def State.setRamp (s : State) (p c : Nat) (up : Bool) (d : Nat) : State :=
  let st := if d = 0 then 0 else if up then (if d = 16 then 2 else 1) else 3
  (s.wr (R.CUBE_STATUS p c) F.CUBE_STATUS.RAMP_STATE st).wr (R.CUBE_STATUS p c) F.CUBE_STATUS.DUTY d

/-- A real step becomes ready and is issued in a permitted cycle (R74, R76): a cube that ramps down or is QUIET starts to ramp up,
and the run of idle cycles ends. -/
def State.rampStep (s : State) (p c : Nat) : State :=
  let s := if s.rampOf p c = 0 ∨ s.rampOf p c = 3 then s.setRamp p c true (min 16 (s.dutyOf p c + 1)) else s
  (s.wr (R.CUBE_STATUS p c) F.CUBE_STATUS.IDLE_RUN 0).count (R.CUBE_PERF p c) F.CUBE_PERF.STEPS 1

/-! ### Ring steps -/

/-- The running sum that cube `j` of a mask, at place `j % R` of its ring, holds at step `t` (R66). -/
def sumOf (R j t : Nat) : Nat := (j % R + R - t % R) % R

/-- Address of the streamed block that the `j`-th set cube reads at step `t` (R66). -/
def streamAddr (d : CubMma) (base t j : Nat) : Nat :=
  (base + sumOf (ringSize d.ring) j t * d.mstr.toNat * 256 + j % ringSize d.ring * d.kstr.toNat * 256) % 2 ^ 64

/-- What a cube takes into a step: its streamed block, and its slot as it is at the grant (R65, R69). -/
def State.feed (s : State) (p c slot : Nat) (got : List Byte × Bool) : CubFeed :=
  let q := (s.core p).cube c
  { cube := c, blk := got.1, poison := got.2, b := if slot = 0 then q.block0 else q.block1,
    sb := if slot = 0 then q.bsc0 else q.bsc1, sa := if slot = 0 then q.asc0 else q.asc1, spoison := q.slotPoison slot }

/-- Issue the next ring step of a CUB.MMA: its streamed blocks are read (R66, R67). -/
def State.ringStep (s : State) (p c i : Nat) (d : CubMma) (base t : Nat) : State :=
  let rg := ringSize d.ring
  let n := blockBytes d.fmtA
  let cs := (cubesOf d.mask).zip (upto 16)
  let addr := streamAddr d base t
  match s.cubRead p c (cs.map (fun e => (addr e.2, n))) with
  | (s, none) => (s.cubPop p i).cubBounds p c base
  | (s, some got) =>
    let s := cs.foldl (fun s e =>
      ((s.rampStep p e.1).wr (R.CUBE_STATUS p e.1) F.CUBE_STATUS.RING_SIZE rg).setCube p e.1
        { (s.core p).cube e.1 with lastFmt := some d.fmtA }) s
    let u : CubUpd := { d := d, step := t, blocks := cs.map (fun e => s.feed p e.1 d.slot.val (gotAt got (addr e.2) n)), base := base }
    let k := s.core p
    let q := if t + 1 = rg then k.cubeQ.eraseIdx i else k.cubeQ.set i (.mma d base (t + 1), Fin.ofNat 17 c)
    (s.setCore p { k with cubeQ := q, upds := k.upds ++ [(u, Fin.ofNat 17 c)] }).stamp (uCube p 0)

/-- CUBE_RING_STEP (R67, R74): a step of a ready MMA is granted. `which` counts the ready MMAs in issue order: instructions on disjoint
cubes proceed each on its own conditions (R63). -/
def execCubeRingStep (p : CoreId) (which : Fin 16) (s : State) : Host.Outcome State Fault Refusal :=
  .next (match (s.cubsReady p (fun o => match o with | .mma _ _ _ => true | _ => false))[which.val]? with
    | some (i, .mma d a t, c) => s.ringStep p c.val i d a t
    | _ => s)

/-! ### Accumulator updates -/

/-- A running sum: accumulators, CUBE_ACC_STATUS without the counter, and its poison bit. -/
def State.sumAt (s : State) (p c : Nat) : BitVec 8192 × Nat × Nat × Nat :=
  (((s.core p).cube c).acc, s.rd (R.CUBE_ACC_STATUS p c) F.CUBE_ACC_STATUS.TERMS,
    s.rd (R.CUBE_ACC_STATUS p c) F.CUBE_ACC_STATUS.ACCUM_LONG, s.rd (R.CUBE_STATUS p c) F.CUBE_STATUS.ACC_POISON)

/-- Put a running sum into a cube. -/
def State.putSum (s : State) (p c : Nat) (x : BitVec 8192 × Nat × Nat × Nat) : State :=
  let s := s.setCube p c { (s.core p).cube c with acc := x.1 }
  let s := s.wr (R.CUBE_ACC_STATUS p c) F.CUBE_ACC_STATUS.TERMS x.2.1
  let s := s.wr (R.CUBE_ACC_STATUS p c) F.CUBE_ACC_STATUS.ACCUM_LONG x.2.2.1
  s.wr (R.CUBE_STATUS p c) F.CUBE_STATUS.ACC_POISON x.2.2.2

/-- The running sums of every ring move on by one cube (R66). -/
def State.rotate (s : State) (p : Nat) (d : CubMma) : State :=
  let rg := ringSize d.ring
  let cs := cubesOf d.mask
  let sums := cs.map (s.sumAt p)
  (cs.zip (upto 16)).foldl (fun s e =>
    let j := e.2 / rg * rg + (e.2 % rg + rg - 1) % rg
    match sums[j]? with
    | some x => s.putSum p e.1 x
    | none => s) s

/-- Add a step's terms to a running sum (R118). -/
def State.addTerms (s : State) (p c n : Nat) : State :=
  let r := R.CUBE_ACC_STATUS p c
  let t := s.rd r F.CUBE_ACC_STATUS.TERMS + n
  let s := s.bump r F.CUBE_ACC_STATUS.TERMS n
  if 65536 < t && !s.flag r F.CUBE_ACC_STATUS.ACCUM_LONG then
    ((s.wr r F.CUBE_ACC_STATUS.ACCUM_LONG 1).wr (R.CUBE_ACCSTAT p) F.CUBE_ACCSTAT.ACCUM_LONG_SEEN 1).bump
      (R.CUBE_ACCSTAT p) F.CUBE_ACCSTAT.ACCUM_LONG_COUNT 1
  else s

/-- One group update of a cube's accumulators, with its stochastic counter (R105, R115). -/
def State.cubGroup (s : State) (p c : Nat) (sr : Bool) (seed : BitVec 32) (x : StepIn) (j : Nat) (errs : List CubeErr) : State :=
  let r := R.CUBE_ACC_STATUS p c
  let ctr := BitVec.ofNat 32 (s.rd r F.CUBE_ACC_STATUS.SR_CTR)
  let q := (s.core p).cube c
  let s := s.setCube p c { q with acc := x.group q.acc j (if sr then some (seed, ctr, c) else none) errs }
  if sr then s.count r F.CUBE_ACC_STATUS.SR_CTR 1 else s

/-- The operands of one cube's step. `m` is the running sum the cube holds. -/
def CubFeed.stepIn (f : CubFeed) (d : CubMma) (m : Nat) : StepIn :=
  { fa := d.fmtA, fb := d.fmtB, a := leNat f.blk, b := f.b.toNat, s32 := d.s32,
    sa := if d.scaA then some (bits f.sa.toNat (256 * m) 256) else none, sb := if d.scaB then some f.sb.toNat else none }

/-- The update of one cube by one step (R66, R71, R111, R118). -/
def State.cubUpdate (s : State) (p m : Nat) (d : CubMma) (seed : BitVec 32) (f : CubFeed) (errs : List CubeErr) : State :=
  let c := f.cube
  let x := f.stepIn d m
  let s := if stepK d.fmtA = 32 then (s.cubGroup p c d.sr seed x 0 errs).cubGroup p c d.sr seed x 1 errs
    else s.cubGroup p c d.sr seed x 0 errs
  let s := s.addTerms p c (stepK d.fmtA)
  if f.poison || f.spoison then s.wr (R.CUBE_STATUS p c) F.CUBE_STATUS.ACC_POISON 1 else s

/-- Every running sum of a mask is zero before a START step (R66, R118). -/
def State.startSums (s : State) (p : Nat) (m : BitVec 16) : State :=
  (cubesOf m).foldl (fun s c => s.putSum p c (0, 0, 0, 0)) s

/-- A step's groups update the accumulators (R106, R111), and at its end every running sum moves on by one cube (R66). `errs` are the errors
of the hardware in the step: a cube whose residue check fails poisons the running sum it updated and reports the failure (R72, R322). -/
def State.accumUpdate (s : State) (p c : Nat) (u : CubUpd) (errs : List CubeErr) : State :=
  let d := u.d
  let rg := ringSize d.ring
  let seed := BitVec.ofNat 32 (s.rd (R.CUBE_SR_SEED p (s.activeSlot p)) F.CUBE_SR_SEED.SEED)
  let mine := fun (f : CubFeed) => errs.filter (fun e => e.cube.val == f.cube)
  let fs := u.blocks.zip (upto 16)
  let s := if u.step = 0 && d.start then s.startSums p d.mask else s
  let s := fs.foldl (fun s e => s.cubUpdate p (sumOf rg e.2 u.step) d seed e.1 (mine e.1)) s
  let bad := (fs.filter (fun e => (e.1.stepIn d (sumOf rg e.2 u.step)).fails (mine e.1))).map (fun e => e.1.cube)
  let s := bad.foldl (fun s q => s.wr (R.CUBE_STATUS p q) F.CUBE_STATUS.ACC_POISON 1) s
  let s := s.rotate p d
  let s := bad.foldl (fun s q => s.residueFail p (uCube p q) (some c)) s
  match fs.find? (fun b => b.1.poison) with
  | some b => s.cubPoison p c b.1.cube (streamAddr d u.base u.step b.2)
  | none => s

/-- CUBE_ACCUM_UPDATE: the oldest step in flight updates its accumulators (R69, R106). -/
def execCubeAccumUpdate (p : CoreId) (errs : List CubeErr) (s : State) : Host.Outcome State Fault Refusal :=
  .next (match (s.core p).upds with
    | [] => s
    | (u, c) :: rest => if !s.clocked p then s else ((s.setCore p { s.core p with upds := rest }).accumUpdate p c.val u errs).cubAfter p)

/-! ### Drains -/

/-- The 1 KiB a cube drains, in row order (R70). -/
def State.drainBytes (s : State) (p c : Nat) : List Byte := natLe ((s.core p).cube c).acc.toNat 1024

/-- Whether the running sum in a cube is poisoned. -/
def State.accPoison (s : State) (p c : Nat) : Bool := s.flag (R.CUBE_STATUS p c) F.CUBE_STATUS.ACC_POISON

/-- The writes of a drain: a pair of cubes fills an aligned tile whole, a lone cube writes half a tile (R70). -/
def State.drainWrites (s : State) (p : Nat) (d : CubDrain) (base : Nat) : List (Nat × List Byte × Bool) :=
  (upto 8).flatMap (fun j =>
    let a := (base + 2048 * j) % 2 ^ 64
    let lo := d.mask.getLsbD (2 * j)
    let hi := d.mask.getLsbD (2 * j + 1)
    if lo && hi && base % 2048 == 0 then
      [(a, s.drainBytes p (2 * j) ++ s.drainBytes p (2 * j + 1), s.accPoison p (2 * j) || s.accPoison p (2 * j + 1))]
    else
      (if lo then [(a, s.drainBytes p (2 * j), s.accPoison p (2 * j))] else []) ++
      (if hi then [((a + 1024) % 2 ^ 64, s.drainBytes p (2 * j + 1), s.accPoison p (2 * j + 1))] else []))

/-- Perform a drain (R70, R71); a write outside the allocation is not performed (R43). DESIGN CHOICE: where one cube's 1 KiB lies outside,
the drain writes nothing and clears nothing (log entry 86). -/
def State.doDrain (s : State) (p c : Nat) (d : CubDrain) (base : Nat) : State :=
  match s.slotOf p c with
  | none => s
  | some i =>
    let ws := s.drainWrites p d base
    match ws.find? (fun w => (s.spdAddr p i w.1 w.2.1.length).isNone) with
    | some w => s.cubBounds p c w.1
    | none =>
      let s := ws.foldl (fun s w => match s.spdAddr p i w.1 w.2.1.length with
        | some x => s.spdWrite p (some c) x w.2.1 w.2.2
        | none => s) s
      if d.clear then s.startSums p d.mask else s

/-- CUBE_DRAIN_EXEC (R70). -/
def execCubeDrainExec (p : CoreId) (s : State) : Host.Outcome State Fault Refusal :=
  .next (match s.cubReady p (fun o => match o with | .drain _ _ => true | _ => false) with
    | some (i, .drain d a, c) => ((s.cubPop p i).doDrain p c.val d a).cubAfter p
    | _ => s)

/-! ### Ballast and duty -/

/-- BALLAST_OP: a busy cycle without a real step (R75, R77). `err` is the error in its product: one that the residue check detects (R323) is
a fault of the cube with no context. -/
def execBallastOp (p : CoreId) (c : CubeId) (err : Int) (s : State) : Host.Outcome State Fault Refusal :=
  .next (
    if s.rampOf p c = 0 || !s.clocked p then s else
    let s := s.count (R.CUBE_PERF p c) F.CUBE_PERF.BALLAST_OPS 1
    let s := s.bump (R.CUBE_STATUS p c) F.CUBE_STATUS.IDLE_RUN 1
    if rho err ≠ 0 then s.residueFail p (uCube p c) none else s)

/-- CUBE_RAMP_DOWN_ENTRY: an ACTIVE cube with no real step for 64 consecutive cycles (R75). -/
def execCubeRampDownEntry (p : CoreId) (c : CubeId) (s : State) : Host.Outcome State Fault Refusal :=
  .next (
    if s.clocked p ∧ s.rampOf p c = 2 ∧ 64 ≤ s.rd (R.CUBE_STATUS p c) F.CUBE_STATUS.IDLE_RUN then
      s.wr (R.CUBE_STATUS p c) F.CUBE_STATUS.RAMP_STATE 3
    else s)

/-- CUBE_DUTY_STEP: every RAMP_STEP cycles the duty of a ramping cube moves by one (R76). -/
def execCubeDutyStep (p : CoreId) (c : CubeId) (s : State) : Host.Outcome State Fault Refusal :=
  .next (
    if !s.clocked p then s
    else if s.rampOf p c = 3 then s.setRamp p c false (s.dutyOf p c - 1)
    else if s.rampOf p c = 1 then s.setRamp p c true (min 16 (s.dutyOf p c + 1))
    else s)

end Sys2Proof.Machine
end

