-- ==== Sys2Proof/Machine/Dispatch.lean ====
section
/-!
DEFINITION. The effect of each command on everything but the queue: one arm for each row of the table.
-/
namespace Sys2Proof.Machine

/-- The effect of a command. -/
def exec (i : Instr) (s : State) : Host.Outcome State Fault Refusal :=
  match i with
  | .sclAdd p rd ra rb => Sys2Proof.Machine.execSclAdd p rd ra rb s
  | .sclSub p rd ra rb => Sys2Proof.Machine.execSclSub p rd ra rb s
  | .sclMul p rd ra rb => Sys2Proof.Machine.execSclMul p rd ra rb s
  | .sclAnd p rd ra rb => Sys2Proof.Machine.execSclAnd p rd ra rb s
  | .sclOr p rd ra rb => Sys2Proof.Machine.execSclOr p rd ra rb s
  | .sclXor p rd ra rb => Sys2Proof.Machine.execSclXor p rd ra rb s
  | .sclShl p rd ra rb => Sys2Proof.Machine.execSclShl p rd ra rb s
  | .sclShr p rd ra rb => Sys2Proof.Machine.execSclShr p rd ra rb s
  | .sclSar p rd ra rb => Sys2Proof.Machine.execSclSar p rd ra rb s
  | .sclSlt p rd ra rb => Sys2Proof.Machine.execSclSlt p rd ra rb s
  | .sclSltu p rd ra rb => Sys2Proof.Machine.execSclSltu p rd ra rb s
  | .sclAddi p rd ra imm => Sys2Proof.Machine.execSclAddi p rd ra imm s
  | .sclAndi p rd ra imm => Sys2Proof.Machine.execSclAndi p rd ra imm s
  | .sclOri p rd ra imm => Sys2Proof.Machine.execSclOri p rd ra imm s
  | .sclXori p rd ra imm => Sys2Proof.Machine.execSclXori p rd ra imm s
  | .sclShli p rd ra count => Sys2Proof.Machine.execSclShli p rd ra count s
  | .sclShri p rd ra count => Sys2Proof.Machine.execSclShri p rd ra count s
  | .sclSari p rd ra count => Sys2Proof.Machine.execSclSari p rd ra count s
  | .sclSlti p rd ra imm => Sys2Proof.Machine.execSclSlti p rd ra imm s
  | .sclLi p rd imm => Sys2Proof.Machine.execSclLi p rd imm s
  | .sclLih p rd ra imm => Sys2Proof.Machine.execSclLih p rd ra imm s
  | .sclLd p rd ra size space off => Sys2Proof.Machine.execSclLd p rd ra size space off s
  | .sclLds p rd ra size space off => Sys2Proof.Machine.execSclLds p rd ra size space off s
  | .sclSt p rd ra size space off => Sys2Proof.Machine.execSclSt p rd ra size space off s
  | .sclInfo p rd sel => Sys2Proof.Machine.execSclInfo p rd sel s
  | .seqLoadReturn p => Sys2Proof.Machine.execSeqLoadReturn p s
  | .specReadReturn p => Sys2Proof.Machine.execSpecReadReturn p s
  | .runaheadSquash p => Sys2Proof.Machine.execRunaheadSquash p s
  | .ctlNop p => Sys2Proof.Machine.execCtlNop p s
  | .ctlBr p cond hint ra rb off => Sys2Proof.Machine.execCtlBr p cond hint ra rb off s
  | .ctlJmp p rd off => Sys2Proof.Machine.execCtlJmp p rd off s
  | .ctlJr p rd ra => Sys2Proof.Machine.execCtlJr p rd ra s
  | .ctlStep p => Sys2Proof.Machine.execCtlStep p s
  | .ctlYield p => Sys2Proof.Machine.execCtlYield p s
  | .yieldSwitch p sealFail => Sys2Proof.Machine.execYieldSwitch p sealFail s
  | .ctlHalt p => Sys2Proof.Machine.execCtlHalt p s
  | .ctlFence p scope => Sys2Proof.Machine.execCtlFence p scope s
  | .ctlSeth p ra => Sys2Proof.Machine.execCtlSeth p ra s
  | .ctlReth p => Sys2Proof.Machine.execCtlReth p s
  | .blyInc p cell ra imm => Sys2Proof.Machine.execBlyInc p cell ra imm s
  | .blyInca p ra rb imm => Sys2Proof.Machine.execBlyInca p ra rb imm s
  | .blyWait p cell rb rc coll => Sys2Proof.Machine.execBlyWait p cell rb rc coll s
  | .blyRead p rd cell => Sys2Proof.Machine.execBlyRead p rd cell s
  | .belayWaitResume p => Sys2Proof.Machine.execBelayWaitResume p s
  | .waitIdleEntry p => Sys2Proof.Machine.execWaitIdleEntry p s
  | .belayTimeout p => Sys2Proof.Machine.execBelayTimeout p s
  | .dmaCopy p d => Sys2Proof.Machine.execDmaCopy p d s
  | .dmaShape p eng rn rss rds => Sys2Proof.Machine.execDmaShape p eng rn rss rds s
  | .dmaDescriptorStart p eng => Sys2Proof.Machine.execDmaDescriptorStart p eng s
  | .dmaWaitTimeout p eng => Sys2Proof.Machine.execDmaWaitTimeout p eng s
  | .dmaComplete p eng => Sys2Proof.Machine.execDmaComplete p eng s
  | .cubLds p d => Sys2Proof.Machine.execCubLds p d s
  | .cubLdsc p d => Sys2Proof.Machine.execCubLdsc p d s
  | .cubMma p d => Sys2Proof.Machine.execCubMma p d s
  | .cubDrain p d => Sys2Proof.Machine.execCubDrain p d s
  | .cubeLoadGrant p => Sys2Proof.Machine.execCubeLoadGrant p s
  | .cubeRingStep p which => Sys2Proof.Machine.execCubeRingStep p which s
  | .cubeAccumUpdate p errs => Sys2Proof.Machine.execCubeAccumUpdate p errs s
  | .cubeDrainExec p => Sys2Proof.Machine.execCubeDrainExec p s
  | .ballastOp p c err => Sys2Proof.Machine.execBallastOp p c err s
  | .cubeRampDownEntry p c => Sys2Proof.Machine.execCubeRampDownEntry p c s
  | .cubeDutyStep p c => Sys2Proof.Machine.execCubeDutyStep p c s
  | .vecAdd p fmt rd ra rb ma mb flt => Sys2Proof.Machine.execVecAdd p fmt rd ra rb ma mb flt s
  | .vecSub p fmt rd ra rb ma mb flt => Sys2Proof.Machine.execVecSub p fmt rd ra rb ma mb flt s
  | .vecMul p fmt rd ra rb ma mb flt => Sys2Proof.Machine.execVecMul p fmt rd ra rb ma mb flt s
  | .vecFma p fmt rd ra rb rc ma mb mc flt => Sys2Proof.Machine.execVecFma p fmt rd ra rb rc ma mb mc flt s
  | .vecMax p fmt rd ra rb ma mb flt => Sys2Proof.Machine.execVecMax p fmt rd ra rb ma mb flt s
  | .vecMin p fmt rd ra rb ma mb flt => Sys2Proof.Machine.execVecMin p fmt rd ra rb ma mb flt s
  | .vecIadd p rd ra rb flt => Sys2Proof.Machine.execVecIadd p rd ra rb flt s
  | .vecIsub p rd ra rb flt => Sys2Proof.Machine.execVecIsub p rd ra rb flt s
  | .vecImul p rd ra rb flt => Sys2Proof.Machine.execVecImul p rd ra rb flt s
  | .vecAnd p rd ra rb flt => Sys2Proof.Machine.execVecAnd p rd ra rb flt s
  | .vecOr p rd ra rb flt => Sys2Proof.Machine.execVecOr p rd ra rb flt s
  | .vecXor p rd ra rb flt => Sys2Proof.Machine.execVecXor p rd ra rb flt s
  | .vecNot p rd ra flt => Sys2Proof.Machine.execVecNot p rd ra flt s
  | .vecShl p rd ra rb flt => Sys2Proof.Machine.execVecShl p rd ra rb flt s
  | .vecShr p rd ra rb flt => Sys2Proof.Machine.execVecShr p rd ra rb flt s
  | .vecSar p rd ra rb flt => Sys2Proof.Machine.execVecSar p rd ra rb flt s
  | .vecCmp p fmt rel rd ra rb flt => Sys2Proof.Machine.execVecCmp p fmt rel rd ra rb flt s
  | .vecSel p rd ra rb rc flt => Sys2Proof.Machine.execVecSel p rd ra rb rc flt s
  | .vecClass p fmt slice rd ra flt => Sys2Proof.Machine.execVecClass p fmt slice rd ra flt s
  | .vecRcp p rd ra flt => Sys2Proof.Machine.execVecRcp p rd ra flt s
  | .vecRsq p rd ra flt => Sys2Proof.Machine.execVecRsq p rd ra flt s
  | .vecExp2 p rd ra flt => Sys2Proof.Machine.execVecExp2 p rd ra flt s
  | .vecLog2 p rd ra flt => Sys2Proof.Machine.execVecLog2 p rd ra flt s
  | .vecRed p fmt op k rd ra flt => Sys2Proof.Machine.execVecRed p fmt op k rd ra flt s
  | .vecXfm p d flt => Sys2Proof.Machine.execVecXfm p d flt s
  | .vecLd p rd ra off => Sys2Proof.Machine.execVecLd p rd ra off s
  | .vecLd2 p rd ra off => Sys2Proof.Machine.execVecLd2 p rd ra off s
  | .vecSt p rd ra off parity => Sys2Proof.Machine.execVecSt p rd ra off parity s
  | .vecSt2 p rd ra off parity => Sys2Proof.Machine.execVecSt2 p rd ra off parity s
  | .cvtF p d parity => Sys2Proof.Machine.execCvtF p d parity s
  | .cvtQ p d parity => Sys2Proof.Machine.execCvtQ p d parity s
  | .cvtQsc p d parity => Sys2Proof.Machine.execCvtQsc p d parity s
  | .cvtDq p d parity => Sys2Proof.Machine.execCvtDq p d parity s
  | .telDeliver p => Sys2Proof.Machine.execTelDeliver p s
  | .splRun p d => Sys2Proof.Machine.execSplRun p d s
  | .splBatch p d => Sys2Proof.Machine.execSplBatch p d s
  | .splCounts p d => Sys2Proof.Machine.execSplCounts p d s
  | .chkState p rd ra space off => Sys2Proof.Machine.execChkState p rd ra space off s
  | .chkVerify p rd ra rb => Sys2Proof.Machine.execChkVerify p rd ra rb s
  | .scaLsget p rd => Sys2Proof.Machine.execScaLsget p rd s
  | .scaLsupd p ra => Sys2Proof.Machine.execScaLsupd p ra s
  | .scaHrec p ra rb => Sys2Proof.Machine.execScaHrec p ra rb s
  | .scaHget p rd ra => Sys2Proof.Machine.execScaHget p rd ra s
  | .scaTread p rd tag fmt kind => Sys2Proof.Machine.execScaTread p rd tag fmt kind s
  | .coreWake p => Sys2Proof.Machine.execCoreWake p s
  | .coreGate p => Sys2Proof.Machine.execCoreGate p s
  | .hbmRead addr len spec ce ue => Sys2Proof.Machine.execHbmRead addr len spec ce ue s
  | .hbmWriteWhole addr data sl st => Sys2Proof.Machine.execHbmWriteWhole addr data sl st s
  | .hbmWritePartial addr data poison => Sys2Proof.Machine.execHbmWritePartial addr data poison s
  | .wcbMergeAge site tile => Sys2Proof.Machine.execWcbMergeAge site tile s
  | .wcbMergeDone site tile ue => Sys2Proof.Machine.execWcbMergeDone site tile ue s
  | .specRequestDrop site => Sys2Proof.Machine.execSpecRequestDrop site s
  | .stackThermalEval site temp => Sys2Proof.Machine.execStackThermalEval site temp s
  | .thermalPauseSend site => Sys2Proof.Machine.execThermalPauseSend site s
  | .retrainPeriodic site ch => Sys2Proof.Machine.execRetrainPeriodic site ch s
  | .plnCmdRetrain site ch => Sys2Proof.Machine.execPlnCmdRetrain site ch s
  | .retrainStart site => Sys2Proof.Machine.execRetrainStart site s
  | .retrainConfirm site => Sys2Proof.Machine.execRetrainConfirm site s
  | .retrainHoldTimeout site => Sys2Proof.Machine.execRetrainHoldTimeout site s
  | .plnCmdRepair site ch => Sys2Proof.Machine.execPlnCmdRepair site ch s
  | .repairMigrateGranule site ue => Sys2Proof.Machine.execRepairMigrateGranule site ue s
  | .repairStateSave site => Sys2Proof.Machine.execRepairStateSave site s
  | .rdReq h => Sys2Proof.Machine.execRdReq h s
  | .wrReq h data => Sys2Proof.Machine.execWrReq h data s
  | .blyIncReq h replay => Sys2Proof.Machine.execBlyIncReq h replay s
  | .rdRsp h data => Sys2Proof.Machine.execRdRsp h data s
  | .wrAck h => Sys2Proof.Machine.execWrAck h s
  | .incAck h => Sys2Proof.Machine.execIncAck h s
  | .errRsp h => Sys2Proof.Machine.execErrRsp h s
  | .remoteTimeout tag => Sys2Proof.Machine.execRemoteTimeout tag s
  | .pageWalkComplete p va acc => Sys2Proof.Machine.execPageWalkComplete p va acc s
  | .jnrCtxCmdInval ctx => Sys2Proof.Machine.execJnrCtxCmdInval ctx s
  | .invalDone ctx => Sys2Proof.Machine.execInvalDone ctx s
  | .ridgeForward w rw msg => Sys2Proof.Machine.execRidgeForward w rw msg s
  | .flitReceive w flit corrected uncorr => Sys2Proof.Machine.execFlitReceive w flit corrected uncorr s
  | .nakReceive w seq => Sys2Proof.Machine.execNakReceive w seq s
  | .linkAckTimeout w => Sys2Proof.Machine.execLinkAckTimeout w s
  | .laneLockLoss w lanes => Sys2Proof.Machine.execLaneLockLoss w lanes s
  | .requestReplay tag => Sys2Proof.Machine.execRequestReplay tag s
  | .lnkCtrlRetrain w => Sys2Proof.Machine.execLnkCtrlRetrain w s
  | .portTraining w res lanes peer => Sys2Proof.Machine.execPortTraining w res lanes peer s
  | .settingsFlashCopy => Sys2Proof.Machine.execSettingsFlashCopy s
  | .noticeThermalPause w n => Sys2Proof.Machine.execNoticeThermalPause w n s
  | .noticePauseEnd w n => Sys2Proof.Machine.execNoticePauseEnd w n s
  | .pauseEntryExpire src site => Sys2Proof.Machine.execPauseEntryExpire src site s
  | .witnessReceive m => Sys2Proof.Machine.execWitnessReceive m s
  | .witnessWindowClose key => Sys2Proof.Machine.execWitnessWindowClose key s
  | .splCollectiveStart ctx g => Sys2Proof.Machine.execSplCollectiveStart ctx g s
  | .splReady m => Sys2Proof.Machine.execSplReady m s
  | .splMode m => Sys2Proof.Machine.execSplMode m s
  | .splCredit m => Sys2Proof.Machine.execSplCredit m s
  | .splGrant m => Sys2Proof.Machine.execSplGrant m s
  | .splNoSlot m => Sys2Proof.Machine.execSplNoSlot m s
  | .claimRetry ctx g => Sys2Proof.Machine.execClaimRetry ctx g s
  | .claimFallback ctx g => Sys2Proof.Machine.execClaimFallback ctx g s
  | .splChunk c payload => Sys2Proof.Machine.execSplChunk c payload s
  | .splFenced m => Sys2Proof.Machine.execSplFenced m s
  | .splLost m => Sys2Proof.Machine.execSplLost m s
  | .splRedo m => Sys2Proof.Machine.execSplRedo m s
  | .splAbort m => Sys2Proof.Machine.execSplAbort m s
  | .splComplete ctx g => Sys2Proof.Machine.execSplComplete ctx g s
  | .collDeadline ctx g => Sys2Proof.Machine.execCollDeadline ctx g s
  | .sqWake q tail head readFail entries => Sys2Proof.Machine.execSqWake q tail head readFail entries s
  | .sqStart q image => Sys2Proof.Machine.execSqStart q image s
  | .sqBelayInc q => Sys2Proof.Machine.execSqBelayInc q s
  | .sqNop q => Sys2Proof.Machine.execSqNop q s
  | .contextHalted ctx => Sys2Proof.Machine.execContextHalted ctx s
  | .qEnable q => Sys2Proof.Machine.execQEnable q s
  | .qDisable q => Sys2Proof.Machine.execQDisable q s
  | .msixSend v => Sys2Proof.Machine.execMsixSend v s
  | .msixHoldoffEnd v => Sys2Proof.Machine.execMsixHoldoffEnd v s
  | .hostMemRead off => Sys2Proof.Machine.execHostMemRead off s
  | .hostMemWrite off data poison => Sys2Proof.Machine.execHostMemWrite off data poison s
  | .hostLineRequest line => Sys2Proof.Machine.execHostLineRequest line s
  | .birspReceive line => Sys2Proof.Machine.execBirspReceive line s
  | .getVersion ch => Sys2Proof.Machine.execGetVersion ch s
  | .load ch image groups => Sys2Proof.Machine.execLoad ch image groups s
  | .unload ch => Sys2Proof.Machine.execUnload ch s
  | .setPartitionMode ch => Sys2Proof.Machine.execSetPartitionMode ch s
  | .resetReq ch => Sys2Proof.Machine.execResetReq ch s
  | .cairnInfo ch => Sys2Proof.Machine.execCairnInfo ch s
  | .fwStage ch image readbackOk => Sys2Proof.Machine.execFwStage ch image readbackOk s
  | .fwActivate ch verifyOk => Sys2Proof.Machine.execFwActivate ch verifyOk s
  | .attest ch pubkey sig => Sys2Proof.Machine.execAttest ch pubkey sig s
  | .getMeasurements ch => Sys2Proof.Machine.execGetMeasurements ch s
  | .jigInstall ch pkg => Sys2Proof.Machine.execJigInstall ch pkg s
  | .bivConfig ch => Sys2Proof.Machine.execBivConfig ch s
  | .bivRestart ch => Sys2Proof.Machine.execBivRestart ch s
  | .evtHeadWrite v => Sys2Proof.Machine.execEvtHeadWrite v s
  | .jigRunStart p variant => Sys2Proof.Machine.execJigRunStart p variant s
  | .jigRunEnd p => Sys2Proof.Machine.execJigRunEnd p s
  | .jigTimeout p => Sys2Proof.Machine.execJigTimeout p s
  | .jigCmdRun p => Sys2Proof.Machine.execJigCmdRun p s
  | .jigOverdue p => Sys2Proof.Machine.execJigOverdue p s
  | .jigPkgFlash => Sys2Proof.Machine.execJigPkgFlash s
  | .healthWindowExpire p => Sys2Proof.Machine.execHealthWindowExpire p s
  | .spareSubstitute p => Sys2Proof.Machine.execSpareSubstitute p s
  | .fenceListFlash => Sys2Proof.Machine.execFenceListFlash s
  | .contextReset ctx => Sys2Proof.Machine.execContextReset ctx s
  | .hbmQuarantineRelease ctx => Sys2Proof.Machine.execHbmQuarantineRelease ctx s
  | .engineHang unit ctx => Sys2Proof.Machine.execEngineHang unit ctx s
  | .plinthHang site ch => Sys2Proof.Machine.execPlinthHang site ch s
  | .nocTimeout die => Sys2Proof.Machine.execNocTimeout die s
  | .bridgeFail => Sys2Proof.Machine.execBridgeFail s
  | .drainTimeout ctx unit => Sys2Proof.Machine.execDrainTimeout ctx unit s
  | .engineReset unit bad => Sys2Proof.Machine.execEngineReset unit bad s
  | .partitionReset part bad => Sys2Proof.Machine.execPartitionReset part bad s
  | .warmChipReset bad badChans => Sys2Proof.Machine.execWarmChipReset bad badChans s
  | .resetOverrun log => Sys2Proof.Machine.execResetOverrun log s
  | .cairnTimeLimit bad => Sys2Proof.Machine.execCairnTimeLimit bad s
  | .cdcTimeout off isRead => Sys2Proof.Machine.execCdcTimeout off isRead s
  | .cdcModeWrite recovery => Sys2Proof.Machine.execCdcModeWrite recovery s
  | .errLogAck d seq => Sys2Proof.Machine.execErrLogAck d seq s
  | .logHandlingDone d => Sys2Proof.Machine.execLogHandlingDone d s
  | .bivTrigger ctx => Sys2Proof.Machine.execBivTrigger ctx s
  | .urgentCopyDone ctx page => Sys2Proof.Machine.execUrgentCopyDone ctx page s
  | .bivPageSend ctx => Sys2Proof.Machine.execBivPageSend ctx s
  | .bivStreamComplete ctx => Sys2Proof.Machine.execBivStreamComplete ctx s
  | .bivRestartPull ctx => Sys2Proof.Machine.execBivRestartPull ctx s
  | .bivRestartFinish ctx => Sys2Proof.Machine.execBivRestartFinish ctx s
  | .aonPowerUp mgtAddr selfCheckOk => Sys2Proof.Machine.execAonPowerUp mgtAddr selfCheckOk s
  | .powerGoodLoss => Sys2Proof.Machine.execPowerGoodLoss s
  | .holdResetAssert => Sys2Proof.Machine.execHoldResetAssert s
  | .holdResetRelease okA okB storeFail residueFail badChans => Sys2Proof.Machine.execHoldResetRelease okA okB storeFail residueFail badChans s
  | .thermTrip src idx temp => Sys2Proof.Machine.execThermTrip src idx temp s
  | .fwProcRestart proc cause => Sys2Proof.Machine.execFwProcRestart proc cause s
  | .svnFloorRaise => Sys2Proof.Machine.execSvnFloorRaise s
  | .activationDeferredStart verifyOk => Sys2Proof.Machine.execActivationDeferredStart verifyOk s
  | .clampPowerStep watts => Sys2Proof.Machine.execClampPowerStep watts s
  | .clampCurrentLimit die amps => Sys2Proof.Machine.execClampCurrentLimit die amps s
  | .clampDieThermal die temp => Sys2Proof.Machine.execClampDieThermal die temp s
  | .optThermal eng temp => Sys2Proof.Machine.execOptThermal eng temp s
  | .vidAck addr seq mvN mvS senseN senseS => Sys2Proof.Machine.execVidAck addr seq mvN mvS senseN senseS s
  | .vidTimeout => Sys2Proof.Machine.execVidTimeout s
  | .voltageAlarm die high => Sys2Proof.Machine.execVoltageAlarm die high s
  | .voltageAlarmClear die => Sys2Proof.Machine.execVoltageAlarmClear die s
  | .telClear die ctx => Sys2Proof.Machine.execTelClear die ctx s
  | .telClearDone die ctx => Sys2Proof.Machine.execTelClearDone die ctx s
  | .rbApertureRead k off => Sys2Proof.Machine.execRbApertureRead k off s
  | .registerWrite off width value => Sys2Proof.Machine.execRegisterWrite off width value s
  | .vddAonRemoval => Sys2Proof.Machine.execVddAonRemoval s
  | .cxlLinkTraining res => Sys2Proof.Machine.execCxlLinkTraining res s
  | .pllLossOfLock die pll => Sys2Proof.Machine.execPllLossOfLock die pll s
  | .hostWindowResponse p eng ans data => Sys2Proof.Machine.execHostWindowResponse p eng ans data s

end Sys2Proof.Machine
end

