-- ==== Sys2Proof/Machine/Tick.lean ====
section
/-!
DEFINITION. What the block does when no command waits.
-/
namespace Sys2Proof.Machine

/-- The local counter advances by one tick of 10 ns while the always-on domain runs (R317). DESIGN CHOICE: a tick is what an
empty queue gives (log entry 2). -/
def State.tick (s : State) : State := if s.pins.aon then { s with time := s.time + 1 } else s

end Sys2Proof.Machine
end

