-- ==== Sys2Proof/Safety.lean ====
section
/-!
DEFINITION. What a safe run is, and the terms in which the statements speak of an instruction's operands and results.
-/
namespace Sys2Proof.Machine

/-- An outcome that is a next state. -/
def isNext (o : Host.Outcome State Fault Refusal) : Bool :=
  match o with
  | .next _ => true
  | .fault _ => false
  | .refused _ => false

/-- The canonical form of the state's sparse parts: keys strictly rising, no listed byte zero, no register listed at its reset
value. -/
def State.canon (s : State) : Bool :=
  SMap.rising s.regs && s.regs.all (fun kv => kv.2 != resetWord kv.1) && Memory.wf s.mbx && Memory.wf s.hbm.bytes

/-! ### A core that issues its next instruction -/

/-- Core `p` runs context `c` and commits its next instruction, of `n` bytes; `t` is the state once it has been fetched. A jig's pattern is no
context. -/
def State.issues (s : State) (p n c : Nat) (t : State) : Prop :=
  c < 16 ∧ s.running p = some c ∧ s.mayIssue p = true ∧ s.fetch p c n = (t, .ok)

/-- `t` is `s` but for core `p`'s own state, the register slots at the offsets `l`, and when the units of core `p` last made progress. -/
def sameBut (p : Nat) (l : List Nat) (s t : State) : Prop :=
  t = { s with regs := t.regs, cores := t.cores, prog := t.prog } ∧ (∀ q, q ≠ p → t.core q = s.core q) ∧
  (∀ a, a ∉ l → t.word a = s.word a) ∧ (∀ u, coreOfUnit u ≠ some p → SMap.lookD t.prog u 0 = SMap.lookD s.prog u 0)

/-- The instruction has committed: the program counter has moved past its `n` bytes. -/
def committed (p n : Nat) (s t : State) : Prop := t.pc p = s.pc p + BitVec.ofNat 64 n

/-- The core and the length in bytes of a TIS instruction. -/
def tisAt : Instr → Option (CoreId × Nat)
  | .sclAdd p .. | .sclSub p .. | .sclMul p .. | .sclAnd p .. | .sclOr p .. | .sclXor p .. | .sclShl p .. | .sclShr p ..
  | .sclSar p .. | .sclSlt p .. | .sclSltu p .. | .sclAddi p .. | .sclAndi p .. | .sclOri p .. | .sclXori p ..
  | .sclShli p .. | .sclShri p .. | .sclSari p .. | .sclSlti p .. | .sclLi p .. | .sclLih p .. | .sclInfo p .. | .sclLd p ..
  | .sclLds p .. | .sclSt p .. | .ctlNop p | .ctlBr p .. | .ctlJmp p .. | .ctlJr p .. | .ctlStep p | .ctlYield p
  | .ctlHalt p | .ctlFence p .. | .ctlSeth p .. | .ctlReth p | .blyInc p .. | .blyInca p .. | .blyWait p .. | .blyRead p ..
  | .vecAdd p .. | .vecSub p .. | .vecMul p .. | .vecFma p .. | .vecMax p .. | .vecMin p .. | .vecIadd p .. | .vecIsub p ..
  | .vecImul p .. | .vecAnd p .. | .vecOr p .. | .vecXor p .. | .vecNot p .. | .vecShl p .. | .vecShr p .. | .vecSar p ..
  | .vecCmp p .. | .vecSel p .. | .vecClass p .. | .vecRcp p .. | .vecRsq p .. | .vecExp2 p .. | .vecLog2 p ..
  | .vecRed p .. | .vecXfm p .. | .vecLd p .. | .vecLd2 p .. | .vecSt p .. | .vecSt2 p .. | .cvtF p .. | .cvtQ p ..
  | .cvtQsc p .. | .cvtDq p .. | .chkState p .. | .chkVerify p .. | .scaLsget p .. | .scaLsupd p .. | .scaHrec p ..
  | .scaHget p .. | .scaTread p .. => some (p, 8)
  | .dmaCopy p .. | .dmaShape p .. | .cubLds p .. | .cubLdsc p .. | .cubMma p .. | .cubDrain p .. | .splRun p .. | .splBatch p ..
  | .splCounts p .. => some (p, 16)
  | _ => none

/-! ### Scalar results -/

/-- The value of SCL.INFO selectors 0 to 5 (Table 47): context, logical core, slot, partition, chip index, local counter. -/
def infoTable (s : State) (p c : Nat) : List Word :=
  [BitVec.ofNat 64 c, BitVec.ofNat 64 ((s.logicalOf p).getD 0), BitVec.ofNat 64 (s.activeSlot p),
   BitVec.ofNat 64 (s.ctx c).part.val, BitVec.ofNat 64 s.ownChip, s.time]

/-- What a scalar instruction writes: core, destination, value (Tables 46 and 47, R173). `s` is the state its operands are read
from and `c` the context that runs. -/
def scalarResult (s : State) (c : Nat) : Instr → Option (CoreId × SReg × Word)
  | .sclAdd p rd ra rb => some (p, rd, s.sreg p ra + s.sreg p rb)
  | .sclSub p rd ra rb => some (p, rd, s.sreg p ra - s.sreg p rb)
  | .sclMul p rd ra rb => some (p, rd, s.sreg p ra * s.sreg p rb)
  | .sclAnd p rd ra rb => some (p, rd, s.sreg p ra &&& s.sreg p rb)
  | .sclOr p rd ra rb => some (p, rd, s.sreg p ra ||| s.sreg p rb)
  | .sclXor p rd ra rb => some (p, rd, s.sreg p ra ^^^ s.sreg p rb)
  | .sclShl p rd ra rb => some (p, rd, s.sreg p ra <<< ((s.sreg p rb).toNat % 64))
  | .sclShr p rd ra rb => some (p, rd, s.sreg p ra >>> ((s.sreg p rb).toNat % 64))
  | .sclSar p rd ra rb => some (p, rd, (s.sreg p ra).sshiftRight ((s.sreg p rb).toNat % 64))
  | .sclSlt p rd ra rb => some (p, rd, if (s.sreg p ra).toInt < (s.sreg p rb).toInt then 1 else 0)
  | .sclSltu p rd ra rb => some (p, rd, if (s.sreg p ra).toNat < (s.sreg p rb).toNat then 1 else 0)
  | .sclAddi p rd ra imm => some (p, rd, s.sreg p ra + imm.signExtend 64)
  | .sclAndi p rd ra imm => some (p, rd, s.sreg p ra &&& imm.signExtend 64)
  | .sclOri p rd ra imm => some (p, rd, s.sreg p ra ||| imm.signExtend 64)
  | .sclXori p rd ra imm => some (p, rd, s.sreg p ra ^^^ imm.signExtend 64)
  | .sclShli p rd ra k => some (p, rd, s.sreg p ra <<< k.toNat)
  | .sclShri p rd ra k => some (p, rd, s.sreg p ra >>> k.toNat)
  | .sclSari p rd ra k => some (p, rd, (s.sreg p ra).sshiftRight k.toNat)
  | .sclSlti p rd ra imm => some (p, rd, if (s.sreg p ra).toInt < imm.toInt then 1 else 0)
  | .sclLi p rd imm => some (p, rd, imm.signExtend 64)
  | .sclLih p rd ra imm => some (p, rd, BitVec.ofNat 64 ((s.sreg p ra).toNat % 2 ^ 40 + imm.toNat * 2 ^ 40))
  | .sclInfo p rd sel => some (p, rd, (infoTable s p c).getD sel.toNat 0)
  | .scaLsget p rd => some (p, rd, BitVec.ofInt 64 (sgn 8 (s.rd (R.SCA_LS_STATUS c) F.SCA_LS_STATUS.EXP)))
  | _ => none

/-- Where a branch goes and which register takes its return address (R152, R153): core, link register, target. -/
def branchResult (s : State) : Instr → Option (CoreId × SReg × Word)
  | .ctlBr p cond _ ra rb off =>
    let a := s.sreg p ra
    let b := s.sreg p rb
    let taken := match cond with
      | .eq => decide (a = b)
      | .ne => decide (a ≠ b)
      | .lt => decide (a.toInt < b.toInt)
      | .ge => decide (b.toInt ≤ a.toInt)
      | .ltu => decide (a.toNat < b.toNat)
      | .geu => decide (b.toNat ≤ a.toNat)
    some (p, 0, if taken then s.pc p + off.signExtend 64 * 8 else s.pc p + 8)
  | .ctlJmp p rd off => some (p, rd, s.pc p + off.signExtend 64 * 8)
  | .ctlJr p rd ra => some (p, rd, s.sreg p ra)
  | _ => none

/-! ### Vector results -/

/-- An operand code after its modifiers, as a value (R130). -/
def operand (f : Fmt) (m : VMod) (code : Nat) : Val := modVal f m (absCode f m code)

/-- What a vector instruction writes into an element (R127 to R135): core, destination, element width, source registers, and the
value of each element. -/
def vecResult (s : State) : Instr → Option (CoreId × VReg × Nat × List Nat × (Nat → Nat))
  | .vecAdd p f rd ra rb ma mb _ => let w := fmtBits f
    some (p, rd, w, [ra, rb], fun i => fpAdd f (operand f ma (elemAt (s.vreg p ra) w i)) (operand f mb (elemAt (s.vreg p rb) w i)))
  | .vecSub p f rd ra rb ma mb _ => let w := fmtBits f
    some (p, rd, w, [ra, rb], fun i => fpSub f (operand f ma (elemAt (s.vreg p ra) w i)) (operand f mb (elemAt (s.vreg p rb) w i)))
  | .vecMul p f rd ra rb ma mb _ => let w := fmtBits f
    some (p, rd, w, [ra, rb], fun i => fpMul f (operand f ma (elemAt (s.vreg p ra) w i)) (operand f mb (elemAt (s.vreg p rb) w i)))
  | .vecFma p f rd ra rb rc ma mb mc _ => let w := fmtBits f
    some (p, rd, w, [ra, rb, rc], fun i => fpFma f (operand f ma (elemAt (s.vreg p ra) w i))
      (operand f mb (elemAt (s.vreg p rb) w i)) (operand f mc (elemAt (s.vreg p rc) w i)))
  | .vecMax p f rd ra rb ma mb _ => let w := fmtBits f
    some (p, rd, w, [ra, rb], fun i => fpExt f true (absCode f ma (elemAt (s.vreg p ra) w i)) (absCode f mb (elemAt (s.vreg p rb) w i))
      (operand f ma (elemAt (s.vreg p ra) w i)) (operand f mb (elemAt (s.vreg p rb) w i)))
  | .vecMin p f rd ra rb ma mb _ => let w := fmtBits f
    some (p, rd, w, [ra, rb], fun i => fpExt f false (absCode f ma (elemAt (s.vreg p ra) w i)) (absCode f mb (elemAt (s.vreg p rb) w i))
      (operand f ma (elemAt (s.vreg p ra) w i)) (operand f mb (elemAt (s.vreg p rb) w i)))
  | .vecIadd p rd ra rb _ => some (p, rd, 32, [ra, rb], fun i => elemAt (s.vreg p ra) 32 i + elemAt (s.vreg p rb) 32 i)
  | .vecIsub p rd ra rb _ => some (p, rd, 32, [ra, rb], fun i => elemAt (s.vreg p ra) 32 i + (2 ^ 32 - elemAt (s.vreg p rb) 32 i))
  | .vecImul p rd ra rb _ => some (p, rd, 32, [ra, rb], fun i => elemAt (s.vreg p ra) 32 i * elemAt (s.vreg p rb) 32 i)
  | .vecAnd p rd ra rb _ => some (p, rd, 32, [ra, rb], fun i => elemAt (s.vreg p ra) 32 i &&& elemAt (s.vreg p rb) 32 i)
  | .vecOr p rd ra rb _ => some (p, rd, 32, [ra, rb], fun i => elemAt (s.vreg p ra) 32 i ||| elemAt (s.vreg p rb) 32 i)
  | .vecXor p rd ra rb _ => some (p, rd, 32, [ra, rb], fun i => elemAt (s.vreg p ra) 32 i ^^^ elemAt (s.vreg p rb) 32 i)
  | .vecNot p rd ra _ => some (p, rd, 32, [ra], fun i => 2 ^ 32 - 1 - elemAt (s.vreg p ra) 32 i)
  | .vecShl p rd ra rb _ => some (p, rd, 32, [ra, rb], fun i => elemAt (s.vreg p ra) 32 i <<< (elemAt (s.vreg p rb) 32 i % 32))
  | .vecShr p rd ra rb _ => some (p, rd, 32, [ra, rb], fun i => elemAt (s.vreg p ra) 32 i >>> (elemAt (s.vreg p rb) 32 i % 32))
  | .vecSar p rd ra rb _ => some (p, rd, 32, [ra, rb], fun i =>
      wrap 32 (sgn 32 (elemAt (s.vreg p ra) 32 i) / (2 ^ (elemAt (s.vreg p rb) 32 i % 32) : Nat)))
  | .vecCmp p f rel rd ra rb _ => let w := fmtBits f
    some (p, rd, w, [ra, rb], fun i =>
      if relHolds rel (decodeElem f (elemAt (s.vreg p ra) w i)) (decodeElem f (elemAt (s.vreg p rb) w i)) then 2 ^ w - 1 else 0)
  | .vecSel p rd ra rb rc _ => some (p, rd, 32, [ra, rb, rc], fun i =>
      if elemAt (s.vreg p rc) 32 i = 0 then elemAt (s.vreg p rb) 32 i else elemAt (s.vreg p ra) 32 i)
  | .vecClass p f sl rd ra _ => some (p, rd, 32, [ra], fun i => classWord f (elemAt (s.vreg p ra) (fmtBits f) (256 * sl.val + i)))
  | .vecRcp p rd ra _ => some (p, rd, 32, [ra], fun i => rcpCode (elemAt (s.vreg p ra) 32 i))
  | .vecRsq p rd ra _ => some (p, rd, 32, [ra], fun i => rsqCode (elemAt (s.vreg p ra) 32 i))
  | .vecExp2 p rd ra _ => some (p, rd, 32, [ra], fun i => exp2Code (elemAt (s.vreg p ra) 32 i))
  | .vecLog2 p rd ra _ => some (p, rd, 32, [ra], fun i => log2Code (elemAt (s.vreg p ra) 32 i))
  | .vecRed p _ op k rd ra _ => some (p, rd, 32, [ra], fun i =>
      (treeOf (redFun op) k.toNat ((upto 256).map (elemAt (s.vreg p ra) 32))).getD i 0)
  | .vecXfm p d _ => some (p, d.rd, 32,
      [d.ra.val] ++ (if d.perm then [d.ra.val + 1, d.rb.val] else []) ++ (if d.smooth then [d.rc.val] else []),
      elemAt (xfmValue d (s.vreg p d.ra) (s.vreg p (d.ra.val + 1)) (s.vreg p d.rb) (s.vreg p d.rc)) 32)
  | _ => none

/-- The hardware checks that a vector instruction reports as failing (R123, R141). -/
def vecChecks : Instr → VFault
  | .vecAdd _ _ _ _ _ _ _ f | .vecSub _ _ _ _ _ _ _ f | .vecMul _ _ _ _ _ _ _ f | .vecFma _ _ _ _ _ _ _ _ _ f
  | .vecMax _ _ _ _ _ _ _ f | .vecMin _ _ _ _ _ _ _ f | .vecIadd _ _ _ _ f | .vecIsub _ _ _ _ f | .vecImul _ _ _ _ f
  | .vecAnd _ _ _ _ f | .vecOr _ _ _ _ f | .vecXor _ _ _ _ f | .vecNot _ _ _ f | .vecShl _ _ _ _ f | .vecShr _ _ _ _ f
  | .vecSar _ _ _ _ f | .vecCmp _ _ _ _ _ _ f | .vecSel _ _ _ _ _ f | .vecClass _ _ _ _ _ f | .vecRcp _ _ _ f | .vecRsq _ _ _ f
  | .vecExp2 _ _ _ f | .vecLog2 _ _ _ f | .vecRed _ _ _ _ _ _ f | .vecXfm _ _ f => f
  | _ => noFault

/-! ### Addresses of a program's accesses -/

/-- No sealed scratchpad tile that `n` core-local bytes from `a` on touch fails its seal (R41). -/
def State.sealsHold (s : State) (p a n : Nat) : Prop :=
  ∀ i ∈ tilesOf a n, ((s.core p).spd.info i).st = .sealed → sealOf ((s.core p).spd.data i) = ((s.core p).spd.info i).sl

/-- No scratchpad tile that `n` core-local bytes from `a` on touch is POISON. -/
def State.noPoison (s : State) (p a n : Nat) : Prop := ∀ i ∈ tilesOf a n, ((s.core p).spd.info i).st ≠ .poison

/-- Reading one byte of a core's scratchpad. -/
def State.spdByte (s : State) (p a : Nat) : Byte := Memory.byte (s.core p).spd.bytes a

/-- Stored state of a scratchpad tile. -/
def State.spdState (s : State) (p i : Nat) : TState := ((s.core p).spd.info i).st

/-- Nothing waits for memory: no refused fabric request, no waiting write, no posted store, no DMA descriptor in progress, no scale slot still
to be set. -/
def State.quiet (s : State) : Prop :=
  s.retry = [] ∧ s.biWait = [] ∧ (∀ p, (s.core p).posted = [] ∧ ∀ e, (s.dmaEng p e).active = none) ∧ ∀ c, (s.ctx c).scaTodo = []

/-- An HBM tile that a check finds sound (R196). -/
def State.tileSound (s : State) (i : Nat) : Prop :=
  match (s.hbm.info i).st with
  | .unwritten => True
  | .poison => False
  | .sealed => s.badSectors i = [] ∧ sealOf (s.hbm.data i) = (s.hbm.info i).sl

/-- A well-formed request of major 1 and type `typ`, of at least `need` payload bytes, waits in channel `ch` (R309, R310). -/
def State.asks (s : State) (ch typ need : Nat) : Prop :=
  s.mbxWaits ch = true ∧ s.reqType ch = typ ∧ typ ∈ s.types ∧ s.reqNat ch 0 2 = 1 ∧ need ≤ s.reqNat ch 12 4 ∧
    s.reqNat ch 12 4 ≤ 2016

/-- In `u` channel `ch` holds the response to the request that `s` held: DONE set, BUSY clear, TYPE and TAG repeated, STATUS. -/
def State.answers (s u : State) (ch status : Nat) : Prop :=
  let resp := fun (o n : Nat) => leNat (Memory.read u.mbx (mbxAt ch (0x900 + o)) n)
  u.flag (R.MBX_CTRL ch) F.MBX_CTRL.DONE = true ∧ u.flag (R.MBX_CTRL ch) F.MBX_CTRL.BUSY = false ∧ resp 0x10 2 = status ∧
    resp 4 2 = s.reqType ch ∧ resp 8 4 = s.reqNat ch 8 4

end Sys2Proof.Machine
end

