-- ==== Sys2Proof/Certificates/Slice0/Obligations.lean ====
section
/-!
DEFINITION. The statements for the provers.
-/
open Sys2Proof
open Sys2Proof.Machine

/-- The front command of the queue runs on the rest of the queue: a step is that command's effect and nothing more.

On an empty queue a step lets one tick of the local counter pass, and changes nothing else; the counter stands while the
always-on domain is down. The tick is the model's choice (log entry 2).

Spec: opcode_table.json: the rows are commands; 13_host.md: Local time.
The choices of the model it rests on: log entry 2. -/
def Obligations.StepRunsQueue : Prop :=
  (∀ (c : Instr) (rest : List Instr) (s : State),
    step { s with pending := c :: rest } = exec c { s with pending := rest }) ∧
  (∀ s : State, s.pending = [] →
    step s = .next { s with time := if s.pins.aon then s.time + 1 else s.time })

/-- Reset: no command waits, no core holds a context, every register outside the fused ones holds its table's value, the
memories are empty, and the state is in canonical form.

Spec: 18_registers.md: Access rules; 17_bringup.md: Power-on.
The choices of the model it rests on: log entries 3, 34, 35, 36, 37, 38. -/
def Obligations.ResetState : Prop :=
  State.reset.pending = [] ∧ State.reset.canon = true ∧ State.reset.cores = [] ∧ State.reset.ctxs = [] ∧
    State.reset.hbm = {} ∧ State.reset.logs = [] ∧
    (∀ a, a ≠ R.CHIP_ID → a ≠ R.CHIP_CAP_UNITS → a ≠ R.CHIP_CAP_LIMITS → a ≠ R.CLP_CTRL →
      State.reset.word a = resetWord a) ∧
    (∀ p : CoreId, State.reset.rd (R.SEQ_CTRL p) F.SEQ_CTRL.RUNAHEAD_DEPTH = 63 ∧
      State.reset.rd (R.BLY_TIMEOUT p) F.BLY_TIMEOUT.TICKS = 0x1DCD6500 ∧
      State.reset.rd (R.CUBE_CTRL p) F.CUBE_CTRL.RAMP_STEP = 16 ∧ State.reset.pc p = 0)

/-- Every command has a meaning in every state: the answer is a next state, never a fault or a refusal. That a command whose event cannot
occur leaves the state as it is, where the manual gives it no effect, is the model's choice (log entry 1).

Spec: opcode_table.json: the rows are commands.
The choices of the model it rests on: log entry 1. -/
def Obligations.ExecAlwaysAnswers : Prop := ∀ (c : Instr) (s : State), ∃ t, exec c s = .next t

/-- Fused data never change but for the SVN floor, which never falls: no command, whoever sends it, lowers it or alters another fuse.

Spec: 17_bringup.md: Staging and activation; 17_bringup.md: Flash and firmware images; 01_package.md: Identity fuses. -/
def Obligations.FusesOnlyRaiseSvn : Prop :=
  ∀ (f : Fuses) (s t : State),
    let inv := fun (x : State) => x.fuses = { f with svn := x.fuses.svn } ∧ f.svn.toNat ≤ x.fuses.svn.toNat
    inv s → step s = .next t → inv t

/-- Decoding the words of a well-formed TIS instruction gives the instruction back, with every operand at every value the
encoding admits. Whether its hardware checks pass is no part of the words.

Spec: 07_isa.md: Instruction words; 07_isa.md: Common field rules; 07_isa.md: 128-bit descriptors.
The choices of the model it rests on: log entry 23. -/
def Obligations.TisRoundTrip : Prop :=
  ∀ (p : CoreId) (i : Instr) (w : Nat) (v : Option Nat), i.wellFormed = true → encodeTis i = some (w, v) →
    decodeTis p w (v.getD 0) = some (quiet p i)

/-- A word that decodes stands for a well-formed instruction of the core that fetched it, and encoding that instruction gives
the word back: no bit of it is unread.

Spec: 07_isa.md: Instruction words; 07_isa.md: Illegal encodings.
The choices of the model it rests on: log entry 23. -/
def Obligations.TisDecodeSound : Prop :=
  ∀ (p : CoreId) (w v : Nat) (i : Instr), decodeTis p w v = some i →
    i.wellFormed = true ∧ (tisAt i).map Prod.fst = some p ∧
    ∃ x, encodeTis i = some (w, x) ∧ (x = none ∨ x = some v)

/-- Fetching an instruction changes no core but for the tiles it has fetched, and no register below the plinth windows.

An encoding that breaks a legality rule has none of its effects: it raises ILLEGAL_INSN at its own address.

Spec: 07_isa.md: Illegal encodings; 02_cores.md: The sequencer.
The choices of the model it rests on: log entries 18, 25. -/
def Obligations.IssueRules : Prop :=
  (∀ (s t : State) (p n c : Nat), s.issues p n c t →
    (∀ q, t.core q = if q = p then { s.core p with fetched := (t.core p).fetched } else s.core q) ∧
    (∀ a, a < 0x8000000 → t.word a = s.word a) ∧ t.ctxs = s.ctxs ∧ t.logs = s.logs ∧ t.outbox = s.outbox ∧ t.time = s.time) ∧
  (∀ (i : Instr) (p : CoreId) (n c : Nat) (s t : State), tisAt i = some (p, n) → i.wellFormed = false → s.issues p n c t →
    exec i s = .next (t.raiseInsn p c cIllegalInsn (t.pc p).toNat 0))

/-- A context error of the instruction at the program counter: SEQ_FAULT_PC takes its address, the context is fenced, its first
error is kept with cause, unit and address, and other contexts stay as they were. The cores that hold the context run no jig
(a core with a program that issues runs none).

Spec: 07_isa.md: Illegal encodings; 02_cores.md: The sequencer; 15_recovery.md: Fences. -/
def Obligations.ContextErrorTaken : Prop :=
  ∀ (s : State) (p c cause addr detail : Nat), (s.ctx c).live = true → (s.ctx c).cause = none → (s.ctx c).fenced = false →
    (∀ q, (s.core q).jig = none) → (∀ g ∈ (s.ctx c).groups, g.1 < 256) → p < 104 → c < 16 →
    let t := s.raiseInsn p c cause addr detail
    t.word (R.SEQ_FAULT_PC p) = s.pc p ∧ (t.ctx c).fenced = true ∧
      (∃ r, (t.ctx c).cause = some r ∧ r.cause = BitVec.ofNat 16 cause ∧ r.unit = BitVec.ofNat 16 (uCore p) ∧
        r.addr = BitVec.ofNat 64 addr ∧ r.sev = 1 ∧ r.cls = BitVec.ofNat 8 clsCtxError) ∧
      (∀ d, d ≠ c → t.ctx d = s.ctx d)

/-- Scalar instructions: the destination takes the value of Tables 46 and 47, a write to s0 is discarded, the program counter
moves on by 8, and nothing else changes but SEQ_CTRL fields that were waiting for an instruction boundary.

Branches and jumps: the program counter goes to the target, the link register takes the return address, the other scalar
registers and the memories keep their values.

Spec: R153. -/
def Obligations.ScalarAndBranchInstructions : Prop :=
  (∀ (i : Instr) (s t : State) (c : Nat) (p : CoreId) (rd : SReg) (v : Word),
    scalarResult t c i = some (p, rd, v) → i.wellFormed = true → s.issues p 8 c t →
    ∃ u, exec i s = .next u ∧ u.sreg p rd = (if rd = 0 then 0 else v) ∧ (∀ r, r ≠ rd → u.sreg p r = t.sreg p r) ∧
      committed p 8 t u ∧ sameBut p [R.SEQ_PC p, R.SEQ_CTRL p] t u ∧
      u.core p = { t.core p with sregs := (u.core p).sregs, seqP := (none, none, none) }) ∧
  (∀ (i : Instr) (s t : State) (c : Nat) (p : CoreId) (rd : SReg) (target : Word),
    branchResult t i = some (p, rd, target) → s.issues p 8 c t →
    ∃ u, exec i s = .next u ∧ u.pc p = target ∧ u.sreg p rd = (if rd = 0 then 0 else t.pc p + 8) ∧
      (∀ r, r ≠ rd → u.sreg p r = t.sreg p r) ∧ sameBut p [R.SEQ_PC p, R.SEQ_CTRL p, R.SEQ_PERF p] t u ∧
      u.core p = { t.core p with sregs := (u.core p).sregs, ahead := (u.core p).ahead, seqP := (none, none, none) })

/-- CTL.NOP, CTL.STEP, CTL.SETH and CTL.RETH commit: NOP changes nothing else; STEP leaves no run-ahead data and no seed
waiting for the boundary; SETH writes the handler address and not ACTIVE; RETH clears ACTIVE and goes back to SEQ_HRET.

CTL.YIELD stops the program with its run-ahead work squashed and does not commit; CTL.HALT commits and marks the slot
halted while its work has still to drain; CTL.FENCE commits where no store of its scope is waiting.

Spec: 07_isa.md: Scalar and control instructions; 02_cores.md: Contexts.
The choices of the model it rests on: log entry 17. -/
def Obligations.ControlInstructions : Prop :=
  (∀ (s t : State) (p : CoreId) (c : Nat), s.issues p 8 c t →
    (∃ u, exec (.ctlNop p) s = .next u ∧ committed p 8 t u ∧ sameBut p [R.SEQ_PC p, R.SEQ_CTRL p] t u ∧
      u.core p = { t.core p with seqP := (none, none, none) }) ∧
    (∃ u, exec (.ctlStep p) s = .next u ∧ committed p 8 t u ∧ (∀ r, u.sreg p r = t.sreg p r) ∧
      (u.core p).seedP (t.activeSlot p) = none ∧ (∀ w, (u.core p).ahead = some w → w.buf = []) ∧ u.hbm = t.hbm) ∧
    (∀ ra : SReg, ∃ u, exec (.ctlSeth p ra) s = .next u ∧ committed p 8 t u ∧
      u.rd (R.SEQ_HANDLER p) F.SEQ_HANDLER.ADDR = (t.sreg p ra).toNat / 8 ∧
      u.flag (R.SEQ_HANDLER p) F.SEQ_HANDLER.ACTIVE = t.flag (R.SEQ_HANDLER p) F.SEQ_HANDLER.ACTIVE ∧
      sameBut p [R.SEQ_PC p, R.SEQ_CTRL p, R.SEQ_HANDLER p] t u) ∧
    (t.flag (R.SEQ_HANDLER p) F.SEQ_HANDLER.ACTIVE = true →
      ∃ u, exec (.ctlReth p) s = .next u ∧ u.pc p = t.word (R.SEQ_HRET p) ∧
        u.flag (R.SEQ_HANDLER p) F.SEQ_HANDLER.ACTIVE = false ∧
        u.rd (R.SEQ_HANDLER p) F.SEQ_HANDLER.ADDR = t.rd (R.SEQ_HANDLER p) F.SEQ_HANDLER.ADDR ∧
        sameBut p [R.SEQ_PC p, R.SEQ_CTRL p, R.SEQ_HANDLER p] t u) ∧
    (t.flag (R.SEQ_HANDLER p) F.SEQ_HANDLER.ACTIVE = false →
      exec (.ctlReth p) s = .next (t.raiseInsn p c cHandlerState (t.pc p).toNat 0))) ∧
  (∀ (s t : State) (p : CoreId) (c : Nat), s.issues p 8 c t →
    (∃ u, exec (.ctlYield p) s = .next u ∧ u.pc p = t.pc p ∧ (u.core p).yielding = true ∧ (u.core p).ahead = none ∧
      (u.core p).posted = (t.core p).posted ∧ (u.core p).cubeQ = (t.core p).cubeQ ∧ u.hbm = t.hbm) ∧
    (t.drained p c = false → t.activeSlot p ≤ 1 → ∃ u, exec (.ctlHalt p) s = .next u ∧ committed p 8 t u ∧
      ((u.core p).slot (t.activeSlot p)).halted = true ∧ u.coreState p = t.coreState p ∧
      (u.core p).cubeQ = (t.core p).cubeQ ∧ (u.core p).dma = (t.core p).dma) ∧
    (∀ scope : FScope, (t.core p).posted = [] → ∃ u, exec (.ctlFence p scope) s = .next u ∧ committed p 8 t u ∧
      (∀ r, u.sreg p r = t.sreg p r) ∧ u.hbm = t.hbm))

/-- SCL.LD and SCL.LDS from the scratchpad: the load is outstanding at the core-local address of RA + OFF32 and has not
committed; a misaligned address or one outside the allocation raises its context error instead.

SEQ_LOAD_RETURN of a scratchpad load whose tile holds sound data: RD takes the little-endian bytes, zero- or sign-extended,
the load commits, and memory keeps every byte.

SCL.ST to the scratchpad stores the low SIZE bytes of RD at the core-local address of RA + OFF32 and nothing else: every
other byte of every scratchpad, HBM and the registers of the program keep their values; it commits.

Spec: 07_isa.md: Scalar and control instructions; 02_cores.md: Scratchpad. -/
def Obligations.ScalarMemoryInstructions : Prop :=
  (∀ (s t : State) (p : CoreId) (c i : Nat) (rd ra : SReg) (size : MSize) (off : BitVec 32),
    s.issues p 8 c t → t.slotOf p c = some i →
    let n := msizeBytes size
    let a := (t.sreg p ra + off.signExtend 64).toNat
    let l : Nat → Bool → LoadWait := fun x sg => { rd := rd, size := n, signed := sg, tgt := .spd x, since := t.time }
    (∀ x, a % n = 0 → t.spdAddr p i a n = some x →
      exec (.sclLd p rd ra size .spd off) s = .next (t.setCore p { t.core p with load := some (l x false) }) ∧
      exec (.sclLds p rd ra size .spd off) s = .next (t.setCore p { t.core p with load := some (l x true) })) ∧
    (a % n ≠ 0 → exec (.sclLd p rd ra size .spd off) s = .next (t.raiseInsn p c cMisaligned a 0) ∧
      exec (.sclLds p rd ra size .spd off) s = .next (t.raiseInsn p c cMisaligned a 0)) ∧
    (a % n = 0 → t.spdAddr p i a n = none →
      exec (.sclLd p rd ra size .spd off) s = .next (t.raiseInsn p c cSpdBounds a 0) ∧
      exec (.sclLds p rd ra size .spd off) s = .next (t.raiseInsn p c cSpdBounds a 0))) ∧
  (∀ (s : State) (p : CoreId) (c x n : Nat) (rd : SReg) (sg old : Bool) (since : Word),
    s.running p = some c →
    (s.core p).load = some { rd := rd, size := n, signed := sg, tgt := .spd x, since := since, old := old } → (s.core p).ahead = none →
    (s.core p).posted = [] → s.drainAhead p x n = false → s.sealsHold p x n → s.noPoison p x n →
    ∃ u, exec (.seqLoadReturn p) s = .next u ∧
      u.sreg p rd = (if rd = 0 then 0 else
        let v := leNat ((natsFrom x n).map (s.spdByte p))
        if sg then BitVec.ofInt 64 (sgn (8 * n) v) else BitVec.ofNat 64 v) ∧
      (∀ r, r ≠ rd → u.sreg p r = s.sreg p r) ∧ committed p 8 s u ∧ (u.core p).load = none ∧
      (∀ q b, u.spdByte q b = s.spdByte q b) ∧ u.hbm = s.hbm) ∧
  (∀ (s t : State) (p : CoreId) (c i x : Nat) (rd ra : SReg) (size : MSize) (off : BitVec 32),
    s.issues p 8 c t → t.slotOf p c = some i →
    let n := msizeBytes size
    let a := (t.sreg p ra + off.signExtend 64).toNat
    a % n = 0 → t.spdAddr p i a n = some x → t.drainAhead p x n = false → t.sealsHold p x n →
    ∃ u, exec (.sclSt p rd ra size .spd off) s = .next u ∧
      (∀ b, u.spdByte p b = if x ≤ b ∧ b < x + n then BitVec.ofNat 8 ((t.sreg p rd).toNat / 256 ^ (b - x)) else t.spdByte p b) ∧
      (∀ q b, q ≠ p → u.spdByte q b = t.spdByte q b) ∧ u.hbm = t.hbm ∧ (∀ r, u.sreg p r = t.sreg p r) ∧ committed p 8 t u ∧
      (u.spdState p (x / 2048) = if t.spdState p (x / 2048) = .poison then .poison else .sealed))

/-- A vector store: VEC.ST stores 1 KiB of RD, VEC.ST2 the 2 KiB of RD and RD + 1, at the core-local address of RA + OFF32, with
no check failing; every other byte and every vector register keeps its value, and the tile is POISON where a source is. Addresses
are multiples of 1 KiB, or of 2 KiB for VEC.ST2: any other raises MISALIGNED; an odd RD of VEC.ST2 is an illegal encoding.

A vector load of sound data: VEC.LD fills RD with 1 KiB, VEC.LD2 fills RD and RD + 1 with the 2 KiB from the core-local
address of RA + OFF32; their poison bits clear, the other vector registers and every byte keep their values. A misaligned address raises MISALIGNED; an odd
RD of VEC.LD2 is an illegal encoding.

Spec: R158. -/
def Obligations.VectorMemoryInstructions : Prop :=
  (∀ (s t : State) (p : CoreId) (c x : Nat) (rd : VReg) (ra : SReg) (off : BitVec 32), s.issues p 8 c t →
    let a := (t.sreg p ra + off.signExtend 64).toNat
    (a % 1024 = 0 → t.spdAddr p (t.activeSlot p) a 1024 = some x → t.drainAhead p x 1024 = false → t.sealsHold p x 1024 →
      ∃ u, exec (.vecSt p rd ra off false) s = .next u ∧ committed p 8 t u ∧
        (∀ b, u.spdByte p b =
          if x ≤ b ∧ b < x + 1024 then BitVec.ofNat 8 (elemAt (t.vreg p rd) 8 (b - x)) else t.spdByte p b) ∧
        (∀ q b, q ≠ p → u.spdByte q b = t.spdByte q b) ∧ u.hbm = t.hbm ∧ (∀ r, u.vreg p r = t.vreg p r) ∧
        u.spdState p (x / 2048) = (if t.vpois p rd ∨ t.spdState p (x / 2048) = .poison then .poison else .sealed)) ∧
    (rd.val % 2 = 0 → a % 2048 = 0 → t.spdAddr p (t.activeSlot p) a 2048 = some x → t.drainAhead p x 2048 = false →
      ∃ u, exec (.vecSt2 p rd ra off false) s = .next u ∧ committed p 8 t u ∧
        (∀ b, u.spdByte p b =
          if x ≤ b ∧ b < x + 1024 then BitVec.ofNat 8 (elemAt (t.vreg p rd) 8 (b - x))
          else if x + 1024 ≤ b ∧ b < x + 2048 then BitVec.ofNat 8 (elemAt (t.vreg p (rd.val + 1)) 8 (b - x - 1024))
          else t.spdByte p b) ∧
        (∀ q b, q ≠ p → u.spdByte q b = t.spdByte q b) ∧ u.hbm = t.hbm ∧ (∀ r, u.vreg p r = t.vreg p r) ∧
        u.spdState p (x / 2048) = (if t.vpois p rd ∨ t.vpois p (rd.val + 1) then .poison else .sealed)) ∧
    (a % 1024 ≠ 0 → exec (.vecSt p rd ra off false) s = .next (t.raiseInsn p c cMisaligned a 0)) ∧
    (rd.val % 2 = 0 → a % 2048 ≠ 0 → exec (.vecSt2 p rd ra off false) s = .next (t.raiseInsn p c cMisaligned a 0)) ∧
    (rd.val % 2 = 1 → exec (.vecSt2 p rd ra off false) s = .next (t.raiseInsn p c cIllegalInsn (t.pc p).toNat 0))) ∧
  (∀ (s t : State) (p : CoreId) (c x : Nat) (rd : VReg) (ra : SReg) (off : BitVec 32), s.issues p 8 c t →
    let a := (t.sreg p ra + off.signExtend 64).toNat
    (a % 1024 = 0 → t.spdAddr p (t.activeSlot p) a 1024 = some x → t.drainAhead p x 1024 = false → t.sealsHold p x 1024 →
      t.noPoison p x 1024 →
      ∃ u, exec (.vecLd p rd ra off) s = .next u ∧ committed p 8 t u ∧
        (∀ i, i < 1024 → elemAt (u.vreg p rd) 8 i = (t.spdByte p (x + i)).toNat) ∧ u.vpois p rd = false ∧
        (∀ r, r ≠ rd.val → u.vreg p r = t.vreg p r) ∧ (∀ q b, u.spdByte q b = t.spdByte q b) ∧ u.hbm = t.hbm) ∧
    (rd.val % 2 = 0 → a % 2048 = 0 → t.spdAddr p (t.activeSlot p) a 2048 = some x → t.drainAhead p x 2048 = false →
      t.sealsHold p x 2048 → t.noPoison p x 2048 →
      ∃ u, exec (.vecLd2 p rd ra off) s = .next u ∧ committed p 8 t u ∧
        (∀ i, i < 1024 → elemAt (u.vreg p rd) 8 i = (t.spdByte p (x + i)).toNat ∧
          elemAt (u.vreg p (rd.val + 1)) 8 i = (t.spdByte p (x + 1024 + i)).toNat) ∧
        u.vpois p rd = false ∧ u.vpois p (rd.val + 1) = false ∧
        (∀ r, r ≠ rd.val → r ≠ rd.val + 1 → u.vreg p r = t.vreg p r) ∧ (∀ q b, u.spdByte q b = t.spdByte q b) ∧ u.hbm = t.hbm) ∧
    (a % 1024 ≠ 0 → exec (.vecLd p rd ra off) s = .next (t.raiseInsn p c cMisaligned a 0)) ∧
    (rd.val % 2 = 0 → a % 2048 ≠ 0 → exec (.vecLd2 p rd ra off) s = .next (t.raiseInsn p c cMisaligned a 0)) ∧
    (rd.val % 2 = 1 → exec (.vecLd2 p rd ra off) s = .next (t.raiseInsn p c cIllegalInsn (t.pc p).toNat 0)))

/-- Misaligned addresses of scalar stores, of BLY.INCA and of cube instructions raise MISALIGNED and have no other effect.

Spec: 02_cores.md: Scratchpad; 07_isa.md: Scalar and control instructions; 07_isa.md: Belay instructions; 07_isa.md: 128-bit descriptors. -/
def Obligations.MisalignedRaises : Prop :=
  ∀ (s t : State) (p : CoreId) (c : Nat),
    (s.issues p 8 c t →
      (∀ (rd ra : SReg) (size : MSize) (space : Space) (off : BitVec 32),
        let a := (t.sreg p ra + off.signExtend 64).toNat
        a % msizeBytes size ≠ 0 → exec (.sclSt p rd ra size space off) s = .next (t.raiseInsn p c cMisaligned a 0)) ∧
      (∀ (ra rb : SReg) (imm : BitVec 18), legalAmount rb imm = true → (t.sreg p ra).toNat % 8 ≠ 0 →
        exec (.blyInca p ra rb imm) s = .next (t.raiseInsn p c cMisaligned (t.sreg p ra).toNat 0))) ∧
    (s.issues p 16 c t →
      (∀ d : CubLds, legalLds d = true → (t.sreg p d.ra + d.boff.signExtend 64).toNat % 256 ≠ 0 →
        exec (.cubLds p d) s = .next (t.raiseInsn p c cMisaligned (t.sreg p d.ra + d.boff.signExtend 64).toNat 0)) ∧
      (∀ d : CubMma, legalMma d = true → (t.sreg p d.ra + d.aoff.signExtend 64).toNat % 256 ≠ 0 →
        exec (.cubMma p d) s = .next (t.raiseInsn p c cMisaligned (t.sreg p d.ra + d.aoff.signExtend 64).toNat 0)) ∧
      (∀ d : CubDrain, legalDrain d = true → (t.sreg p d.ra + d.doff.signExtend 64).toNat % 1024 ≠ 0 →
        exec (.cubDrain p d) s = .next (t.raiseInsn p c cMisaligned (t.sreg p d.ra + d.doff.signExtend 64).toNat 0)))

/-- Vector arithmetic, comparison, selection, reduction and transform with no check failing: every element of RD takes the
value the manual gives, RD is poisoned where a source is, the other vector registers with their poison bits, the scalar
registers, the cubes and the memories keep their values, and VEC_PERF counts the instruction.

Spec: R130; R131.
The choices of the model it rests on: log entries 12, 23. -/
def Obligations.VectorInstruction : Prop :=
  ∀ (i : Instr) (s t : State) (c : Nat) (p : CoreId) (rd : VReg) (w : Nat) (src : List Nat) (f : Nat → Nat),
    vecResult t i = some (p, rd, w, src, f) → i.wellFormed = true → vecChecks i = noFault → s.issues p 8 c t →
    ∃ u, exec i s = .next u ∧ (∀ k, k < 8192 / w → elemAt (u.vreg p rd) w k = f k % 2 ^ w) ∧
      u.vpois p rd = src.any (t.vpois p) ∧ (∀ r : VReg, r ≠ rd → u.vreg p r = t.vreg p r ∧ u.vpois p r = t.vpois p r) ∧
      committed p 8 t u ∧ u.rd (R.VEC_PERF p) F.VEC_PERF.INSNS = (t.rd (R.VEC_PERF p) F.VEC_PERF.INSNS + 1) % 65536 ∧
      sameBut p [R.SEQ_PC p, R.SEQ_CTRL p, R.VEC_POISON p, R.VEC_PERF p] t u ∧
      u.core p = { t.core p with vregs := (u.core p).vregs, seqP := (none, none, none) }

/-- An error `err` of a checked vector sum is detected exactly where `err mod 7` is not 0 (R323): VEC.IADD writes the erroneous sum either
way, and only a detected error poisons the destination and counts. So does a parity error of VEC.XOR. One failure does not fence a
healthy core.

Spec: 06_vector.md: Residues, poison and resets; 14_integrity.md: Residue checks. -/
def Obligations.VectorCheckFails : Prop :=
  ∀ (s t : State) (c : Nat) (p : CoreId) (rd ra rb : VReg) (lane : BitVec 9) (err : Int),
    s.issues p 8 c t → t.rd (R.JIG_CORE_STATUS p) F.JIG_CORE_STATUS.HEALTH = 0 →
    t.rd (R.JIG_CORE_STATUS p) F.JIG_CORE_STATUS.RESIDUE_24H = 0 → t.rd (R.JIG_CORE_STATUS p) F.JIG_CORE_STATUS.STORE_24H = 0 →
    (∀ d, (t.log d).entries.length < 64) →
    (∃ u, exec (.vecIadd p rd ra rb { lane := lane, err := err, parity := false }) s = .next u ∧ committed p 8 t u ∧
      (let i := lane.toNat % 256
       elemAt (u.vreg p rd) 32 i = wrap 32 (elemAt (t.vreg p ra) 32 i + elemAt (t.vreg p rb) 32 i + err)) ∧
      (err % 7 ≠ 0 → u.vpois p rd = true ∧ u.flag (R.VEC_STATUS p) F.VEC_STATUS.RESIDUE_FAIL = true ∧
        u.rd (R.JIG_CORE_STATUS p) F.JIG_CORE_STATUS.HEALTH = 1 ∧ u.rd (R.JIG_CORE_STATUS p) F.JIG_CORE_STATUS.RESIDUE_24H = 1) ∧
      (err % 7 = 0 → u.vpois p rd = (t.vpois p ra || t.vpois p rb) ∧ u.word (R.VEC_STATUS p) = t.word (R.VEC_STATUS p) ∧
        u.rd (R.JIG_CORE_STATUS p) F.JIG_CORE_STATUS.HEALTH = 0)) ∧
    (∃ u, exec (.vecXor p rd ra rb { lane := lane, err := err, parity := true }) s = .next u ∧ committed p 8 t u ∧
      u.vpois p rd = true ∧ u.flag (R.VEC_STATUS p) F.VEC_STATUS.PARITY_FAIL = true ∧
      u.rd (R.JIG_CORE_STATUS p) F.JIG_CORE_STATUS.HEALTH = 1 ∧ u.rd (R.JIG_CORE_STATUS p) F.JIG_CORE_STATUS.STORE_24H = 1)

/-- CVT.F with sound sources: each element of slice DS of RD is the element of slice SS of RA converted, the other bits of RD and
the other registers keep their values, and the counts are owed to the die's telemetry.

CVT.DQ: each element of slice DS of RD is its code times its scale, rounded once (R140); with PAIR the next slice of the source
goes to RD + 1.

Spec: 06_vector.md: Conversion and quantisation; 04_formats.md: Conversion; 04_formats.md: Block scales. -/
def Obligations.ConversionInstructions : Prop :=
  (∀ (s t : State) (p : CoreId) (c : Nat) (d : Cvt), s.issues p 8 c t → legalCvtF d = true →
    let out := fun i => encodeElem d.dstf false d.ovf (decodeElem d.srcf (sliceElem d.srcf (t.vreg p d.ra) d.ss.toNat i))
    let w := fmtBits d.dstf
    ∃ u, exec (.cvtF p d false) s = .next u ∧ committed p 8 t u ∧
      (∀ i, i < 256 → sliceElem d.dstf (u.vreg p d.rd) d.ds.toNat i = (out i).codeOf % 2 ^ w) ∧
      (∀ b, b < 256 * w * d.ds.toNat ∨ 256 * w * (d.ds.toNat + 1) ≤ b →
        (u.vreg p d.rd).getLsbD b = (t.vreg p d.rd).getLsbD b) ∧
      (∀ r : VReg, r ≠ d.rd → u.vreg p r = t.vreg p r ∧ u.vpois p r = t.vpois p r) ∧
      u.vpois p d.rd = (t.vpois p d.ra || (w != 32 && t.vpois p d.rd)) ∧ u.hbm = t.hbm ∧
      (∃ x, (u.core p).tel = (t.core p).tel ++ [x] ∧ x.produced = 256 ∧ x.tag = d.tag.toNat)) ∧
  (∀ (s t : State) (p : CoreId) (c : Nat) (d : Cvt), s.issues p 8 c t → legalCvtDq d = true →
    let el := fun k i => dqElem d.srcf d.dstf (sliceElem d.srcf (t.vreg p d.ra) (d.ss.toNat + k) i)
      (dqScale d (t.vreg p d.rb) (256 * k + i)) % 2 ^ fmtBits d.dstf
    ∃ u, exec (.cvtDq p d false) s = .next u ∧ committed p 8 t u ∧
      (∀ i, i < 256 → sliceElem d.dstf (u.vreg p d.rd) d.ds.toNat i = el 0 i) ∧
      (d.pair = true → ∀ i, i < 256 → sliceElem d.dstf (u.vreg p (d.rd.val + 1)) d.ds.toNat i = el 1 i) ∧
      (∀ r : Nat, r ≠ d.rd.val → (d.pair = true → r ≠ d.rd.val + 1) → u.vreg p r = t.vreg p r) ∧ u.hbm = t.hbm)

/-- CVT.Q with block scales: every lane of a block takes the code, and the scale byte of the block the scale, that quantising the
block's values gives (R137); the register of the codes and that of the scales being different, and neither the statistics
register. A register the instruction does not name keeps its value.

CVT.Q with a register of scales and CVT.QSC: each lane is quantised with its own scale byte, and each scale byte is the one
its lane of range values gives (R139).

Spec: 06_vector.md: Conversion and quantisation; 04_formats.md: Quantisation.
The choices of the model it rests on: log entry 46. -/
def Obligations.QuantisingInstructions : Prop :=
  (∀ (s t : State) (p : CoreId) (c : Nat) (d : Cvt), s.issues p 8 c t → legalCvtQ d = true → d.reg = false →
    let inp := t.quantInput p d
    let q := fun k => quantBlock d.dstf d.minmax d.ovf ((blockLanes d.strided d.s32 d.pair k).map (fun i => inp.getD i .nan))
    ∃ u, exec (.cvtQ p d false) s = .next u ∧ committed p 8 t u ∧
      (∀ r : VReg, r ≠ d.rd → r ≠ d.rb → (d.minmax = true → r ≠ d.rc) → u.vreg p r = t.vreg p r ∧ u.vpois p r = t.vpois p r) ∧
      (d.rd ≠ d.rb → (d.minmax = true → d.rc ≠ d.rd ∧ d.rc ≠ d.rb) →
        (∀ k, k < blockCount d →
          byteOf (u.vreg p d.rb) (scaleByte d.soff.toNat d.sord k) = (q k).pick.x % 256 ∧
          ∀ j (h : j < (blockLanes d.strided d.s32 d.pair k).length),
            let l := (blockLanes d.strided d.s32 d.pair k)[j]
            sliceElem d.dstf (u.vreg p d.rd) (d.ds.toNat + l / 256) (l % 256) = (q k).codes.getD j 0 % 2 ^ fmtBits d.dstf)) ∧
      u.hbm = t.hbm) ∧
  (∀ (s t : State) (p : CoreId) (c : Nat) (d : Cvt), s.issues p 8 c t →
    (legalCvtQ d = true → d.reg = true →
      ∃ u, exec (.cvtQ p d false) s = .next u ∧ committed p 8 t u ∧
        (∀ i, i < 256 → sliceElem d.dstf (u.vreg p d.rd) d.ds.toNat i =
          (quantReg d.dstf d.ovf (byteOf (t.vreg p d.rb) (256 * (d.soff.toNat % 4) + i))
            (decodeElem d.srcf (sliceElem d.srcf (t.vreg p d.ra) d.ss.toNat i))).1 % 2 ^ fmtBits d.dstf) ∧
        (∀ r : VReg, r ≠ d.rd → u.vreg p r = t.vreg p r) ∧ u.hbm = t.hbm) ∧
    (legalCvtQsc d = true →
      ∃ u, exec (.cvtQsc p d false) s = .next u ∧ committed p 8 t u ∧
        (∀ i, i < 256 → byteOf (u.vreg p d.rd) (256 * d.ss.toNat + i) =
          (channelPick d.dstf d.minmax d.ovf (elemAt (t.vreg p d.ra) 32 i) (elemAt (t.vreg p d.rb) 32 i)
            (elemAt (t.vreg p d.rc) 32 i)).x % 256) ∧
        (∀ r : VReg, r ≠ d.rd → u.vreg p r = t.vreg p r) ∧ u.hbm = t.hbm))

/-- SCA.LSUPD on the owner core, with the pending N, MIN_EXP and MAX_EXP in force: a NONFINITE outcome lowers the exponent and
restarts the clean steps, a clean step counts and the N-th raises it, HOLD alone changes neither; the exponent is clamped, and
halvings, doublings, hits of the floor and updates are counted. On another core it raises SCA_NOT_OWNER and does not commit.
SCA.TREAD is the sum of the counters of both dies.

TEL_DELIVER moves the oldest counts a core owes into the four counters of its die, which stay full once full (R185).

Spec: R174.
The choices of the model it rests on: log entry 60. -/
def Obligations.LossScaleAndTelemetry : Prop :=
  (∀ (s t : State) (p : CoreId) (c : CtxId), s.issues p 8 c.val t →
    let owner := t.logicalOf p = some (t.rd (R.SCA_LS_CTRL c) F.SCA_LS_CTRL.OWNER)
    let e := sgn 8 (t.rd (R.SCA_LS_STATUS c) F.SCA_LS_STATUS.EXP)
    let n := pendNat (t.ctx c.val).lsN (t.rd (R.SCA_LS_CTRL c) F.SCA_LS_CTRL.N)
    let lo := expOf (pendNat (t.ctx c.val).lsMin (t.rd (R.SCA_LS_CTRL c) F.SCA_LS_CTRL.MIN_EXP))
    let hi := expOf (pendNat (t.ctx c.val).lsMax (t.rd (R.SCA_LS_CTRL c) F.SCA_LS_CTRL.MAX_EXP))
    let k := min (t.rd (R.SCA_LS_STATUS c) F.SCA_LS_STATUS.CLEAN + 1) 65535
    (∀ ra : SReg, owner →
      let w := (t.sreg p ra).toNat
      let more := fun (u : State) (r : Nat) (f : Field) (hit : Prop) [Decidable hit] =>
        u.rd r f = min (t.rd r f + (if hit then 1 else 0)) (2 ^ f.n - 1)
      ∃ u, exec (.scaLsupd p ra) s = .next u ∧ committed p 8 t u ∧ (∀ r, u.sreg p r = t.sreg p r) ∧ u.hbm = t.hbm ∧
        u.rd (R.SCA_LS_COUNT c) F.SCA_LS_COUNT.UPDATES =
          (t.rd (R.SCA_LS_COUNT c) F.SCA_LS_COUNT.UPDATES + 1) % 2 ^ F.SCA_LS_COUNT.UPDATES.n ∧
        more u (R.SCA_LS_STATUS c) F.SCA_LS_STATUS.HALVINGS (w % 2 = 1) ∧
        more u (R.SCA_LS_STATUS c) F.SCA_LS_STATUS.DOUBLINGS (w % 4 = 0 ∧ n ≠ 0 ∧ n ≤ k) ∧
        more u (R.SCA_LS_COUNT c) F.SCA_LS_COUNT.FLOOR_HITS (w % 2 = 1 ∧ e = lo) ∧
        (w % 2 = 1 → u.rd (R.SCA_LS_STATUS c) F.SCA_LS_STATUS.CLEAN = 0 ∧
          sgn 8 (u.rd (R.SCA_LS_STATUS c) F.SCA_LS_STATUS.EXP) = min (max (e - 1) lo) (max lo hi)) ∧
        (w % 4 = 2 → u.rd (R.SCA_LS_STATUS c) F.SCA_LS_STATUS.CLEAN = t.rd (R.SCA_LS_STATUS c) F.SCA_LS_STATUS.CLEAN ∧
          sgn 8 (u.rd (R.SCA_LS_STATUS c) F.SCA_LS_STATUS.EXP) = min (max e lo) (max lo hi)) ∧
        (w % 4 = 0 →
          u.rd (R.SCA_LS_STATUS c) F.SCA_LS_STATUS.CLEAN = (if n ≠ 0 ∧ n ≤ k then 0 else k) ∧
          sgn 8 (u.rd (R.SCA_LS_STATUS c) F.SCA_LS_STATUS.EXP) =
            min (max (if n ≠ 0 ∧ n ≤ k then e + 1 else e) lo) (max lo hi))) ∧
    (∀ ra : SReg, ¬ owner → exec (.scaLsupd p ra) s = .next (t.raiseInsn p c.val cScaNotOwner (t.pc p).toNat 0)) ∧
    (∀ (rd : SReg) (tag : BitVec 6) (fmt : BitVec 4) (kind : TelKind), legalTread fmt = true →
      (t.core p).tel = [] → (t.ctx c.val).telBusy = 0 →
      ∃ u, exec (.scaTread p rd tag fmt kind) s = .next u ∧ committed p 8 t u ∧
        u.sreg p rd = (if rd = 0 then 0 else
          BitVec.ofNat 64 (t.rd (R.TEL_CNT 0 c.val tag.toNat fmt.toNat (telCode kind)) F.TEL_CNT.COUNT +
            t.rd (R.TEL_CNT 1 c.val tag.toNat fmt.toNat (telCode kind)) F.TEL_CNT.COUNT)) ∧
        (∀ r, r ≠ rd → u.sreg p r = t.sreg p r) ∧ u.hbm = t.hbm)) ∧
  (∀ (s : State) (p : CoreId) (x : TelDue) (rest : List TelDue), (s.core p).tel = x :: rest → x.ctx.val < 16 → x.tag < 64 →
    x.fmt < 16 →
    let d := p.val / 52
    let cnt := fun (s : State) k => s.rd (R.TEL_CNT d x.ctx x.tag x.fmt k) F.TEL_CNT.COUNT
    ∃ u, exec (.telDeliver p) s = .next u ∧ (u.core p).tel = rest ∧
      cnt u 0 = min (cnt s 0 + x.produced) (2 ^ 48 - 1) ∧ cnt u 1 = min (cnt s 1 + x.overs) (2 ^ 48 - 1) ∧
      cnt u 2 = min (cnt s 2 + x.van) (2 ^ 48 - 1) ∧ cnt u 3 = min (cnt s 3 + x.sub) (2 ^ 48 - 1) ∧
      (∀ q, q ≠ p.val → u.core q = s.core q))

/-- The scale history. SCA.HGET of a sound entry gives its redo code while a redo is pending, else its current code; SCA.HREC
commits with the recorded entry written where the value calls for no redo, and where it does, goes to the handler with
SEQ_HRET at the instruction. A slot past the table raises SCALE_SLOT_BOUNDS.

Spec: 08_training.md: Scale-history slots.
The choices of the model it rests on: log entry 27. -/
def Obligations.ScaleHistory : Prop :=
  ∀ (s t : State) (p : CoreId) (c : Nat) (ra : SReg), s.issues p 8 c t →
    let n := (t.sreg p ra).toNat
    let a := t.rd (R.SCA_TABLE c) F.SCA_TABLE.BASE + 128 * n
    (t.rd (R.SCA_TABLE c) F.SCA_TABLE.SLOTS ≤ n →
      (∀ rd : SReg, exec (.scaHget p rd ra) s = .next (t.raiseInsn p c cScaleSlotBounds (t.pc p).toNat 0)) ∧
      (∀ rb : SReg, exec (.scaHrec p ra rb) s = .next (t.raiseInsn p c cScaleSlotBounds (t.pc p).toNat 0))) ∧
    (∀ (w : State) (d : List Byte) (m : TileMeta) (e : ScaEntry), n < t.rd (R.SCA_TABLE c) F.SCA_TABLE.SLOTS →
      n ∉ (t.ctx c).scaTodo → t.readAs (.eng .seq p c) a 128 = (w, some (d, false, m)) → scaDecode d = some e → (t.core p).jig = none →
      (∀ rd : SReg, ∃ u, exec (.scaHget p rd ra) s = .next u ∧ committed p 8 t u ∧
        u.sreg p rd = (if rd = 0 then 0 else BitVec.ofNat 64 (if e.pend then e.redoCode else e.cur)) ∧
        (∀ r, r ≠ rd → u.sreg p r = t.sreg p r)) ∧
      (∀ (rb : SReg) (x y : State) (e' : ScaEntry) (miss : Bool), scaRecord e ((t.sreg p rb).toNat % 2 ^ 32) = (e', miss) →
        w.tryWrite (a + 4) (scaBytes e') false none = (x, some y) →
        (miss = false → ∃ u, exec (.scaHrec p ra rb) s = .next u ∧ u = y.commit p ∧ committed p 8 t u ∧
          (∀ r, u.sreg p r = t.sreg p r)) ∧
        (miss = true → t.rd (R.SEQ_HANDLER p) F.SEQ_HANDLER.ADDR ≠ 0 → t.flag (R.SEQ_HANDLER p) F.SEQ_HANDLER.ACTIVE = false →
          ∃ u, exec (.scaHrec p ra rb) s = .next u ∧ u.word (R.SEQ_HRET p) = t.pc p ∧
            u.flag (R.SEQ_HANDLER p) F.SEQ_HANDLER.ACTIVE = true ∧
            u.pc p = BitVec.ofNat 64 (8 * t.rd (R.SEQ_HANDLER p) F.SEQ_HANDLER.ADDR) ∧ (∀ r, u.sreg p r = t.sreg p r))))

/-- CHK.STATE reports the stored state of a scratchpad tile as 0 UNWRITTEN, 1 SEALED, 2 POISON, and CHK.VERIFY counts the tiles in
POISON; neither consumes poison. A start that is no multiple of 2 KiB raises MISALIGNED.

Spec: 07_isa.md: Integrity and scaling instructions; 14_integrity.md: Where poison is consumed. -/
def Obligations.CheckInstructions : Prop :=
  ∀ (s t : State) (p : CoreId) (c i : Nat), s.issues p 8 c t → t.slotOf p c = some i →
    (∀ (rd ra : SReg) (off : BitVec 32) (x : Nat), t.spdAddr p i (t.sreg p ra + off.signExtend 64).toNat 1 = some x →
      t.drainAhead p x 1 = false → t.sealsHold p x 1 →
      ∃ u, exec (.chkState p rd ra .spd off) s = .next u ∧ committed p 8 t u ∧
        u.sreg p rd = (if rd = 0 then 0 else match t.spdState p (x / 2048) with
          | .unwritten => 0
          | .sealed => 1
          | .poison => 2) ∧
        (∀ r, r ≠ rd → u.sreg p r = t.sreg p r) ∧ (u.core p).spd = (t.core p).spd ∧ u.ctxs = t.ctxs ∧ u.hbm = t.hbm) ∧
    (∀ (rd ra rb : SReg),
      let a := (t.sreg p ra).toNat
      let n := (t.sreg p rb).toNat
      (∀ x, a % 2048 = 0 → 0 < n → t.spdAddr p (t.activeSlot p) a (2048 * n) = some x → t.drainAhead p x (2048 * n) = false →
        t.sealsHold p x (2048 * n) →
        ∃ u, exec (.chkVerify p rd ra rb) s = .next u ∧ committed p 8 t u ∧
          u.sreg p rd = (if rd = 0 then 0 else
            BitVec.ofNat 64 ((natsFrom (x / 2048) n).filter (fun k => t.spdState p k == .poison)).length) ∧
          (∀ r, r ≠ rd → u.sreg p r = t.sreg p r) ∧ (u.core p).spd = (t.core p).spd ∧ u.ctxs = t.ctxs ∧ u.hbm = t.hbm) ∧
      (a % 2048 ≠ 0 → exec (.chkVerify p rd ra rb) s = .next (t.raiseInsn p c cMisaligned a 0)))

/-- A belay increment adds to the cell, with no wrap: a sum past 2^64 − 1 leaves 2^64 − 1 and raises BELAY_OVERFLOW. BLY.INC
commits with the cell increased, BLY.READ reads it, BLY.WAIT commits at once where the cell has reached its target and
otherwise opens a wait that ends at its deadline; no belay value changes but the one that BLY.INC names.

BLY.INCA sends a BLY_INC of its amount to the chip and address its operand translates to, and commits.

A wait: BELAY_WAIT_RESUME commits it once its cell has reached the target; WAIT_IDLE_ENTRY stops the core's clock after more
than 4 µs with no run-ahead work left; BELAY_TIMEOUT at its deadline raises BELAY_TIMEOUT with the address of the cell.

Spec: 02_cores.md: Belays; 07_isa.md: Belay instructions.
The choices of the model it rests on: log entry 67. -/
def Obligations.BelayCommands : Prop :=
  (∀ (s t : State) (p : CoreId) (c : Nat) (cell : BitVec 10), s.issues p 8 c t → (t.core p).posted = [] →
    let i := t.activeSlot p
    let v := t.cellValue p i cell.toNat
    cell.toNat < t.cellCount p i →
    (∀ (ra : SReg) (imm : BitVec 18), legalAmount ra imm = true →
      let n := t.blyAmount p ra imm
      n ≠ 0 → v.toNat + n < 2 ^ 64 → t.cellAt p i cell.toNat < 1024 →
      ∃ u, exec (.blyInc p cell ra imm) s = .next u ∧ committed p 8 t u ∧ u.cellValue p i cell.toNat = v + BitVec.ofNat 64 n ∧
        (∀ k, k < 1024 → k ≠ t.cellAt p i cell.toNat → u.word (R.BLY_CELL p k) = t.word (R.BLY_CELL p k)) ∧
        (∀ r, u.sreg p r = t.sreg p r) ∧ u.hbm = t.hbm) ∧
    (∀ (ra : SReg) (imm : BitVec 18), legalAmount ra imm = true → 2 ^ 64 ≤ v.toNat + t.blyAmount p ra imm →
      t.cellAt p i cell.toNat < 1024 →
      ∃ w : State, w.cellValue p i cell.toNat = BitVec.ofNat 64 (2 ^ 64 - 1) ∧ w.hbm = t.hbm ∧ w.pc p = t.pc p ∧
        let r := w.raise c cBelayOverflow (uCore p) (8 * t.cellAt p i cell.toNat) 0
        exec (.blyInc p cell ra imm) s = .next (if (r.ctx c).fenced then r.wr (R.SEQ_FAULT_PC p) F.SEQ_FAULT_PC.PC (t.pc p).toNat
          else r.commit p)) ∧
    (∀ rd : SReg, ∃ u, exec (.blyRead p rd cell) s = .next u ∧ committed p 8 t u ∧ u.sreg p rd = (if rd = 0 then 0 else v) ∧
      (∀ r, r ≠ rd → u.sreg p r = t.sreg p r) ∧ sameBut p [R.SEQ_PC p, R.SEQ_CTRL p] t u) ∧
    (∀ (rb rc : SReg) (coll : Bool), (t.sreg p rb).toNat ≤ v.toNat →
      ∃ u, exec (.blyWait p cell rb rc coll) s = .next u ∧ committed p 8 t u ∧ (u.core p).wait = none ∧
        (∀ r, u.sreg p r = t.sreg p r)) ∧
    (∀ rb rc : SReg, v.toNat < (t.sreg p rb).toNat → (t.sreg p rc).toNat % 2 ^ 32 ≠ 0 →
      ∃ u w, exec (.blyWait p cell rb rc false) s = .next u ∧ (u.core p).wait = some w ∧ w.cell = cell.toNat ∧
        w.target = t.sreg p rb ∧ w.deadline = t.time + BitVec.ofNat 64 ((t.sreg p rc).toNat % 2 ^ 32) ∧ u.pc p = t.pc p)) ∧
  (∀ (s t w : State) (p : CoreId) (c a : Nat) (chip : BitVec 17) (ra rb : SReg) (imm : BitVec 18), s.issues p 8 c t →
    legalAmount rb imm = true → (t.sreg p ra).toNat % 8 = 0 →
    t.dmaAddr p c .mem (t.sreg p ra).toNat 8 .write = (w, .at (.remote chip a)) → (w.core p).posted = [] →
    w.fabricFree p = true → w.blyAmount p rb imm ≠ 0 →
    let q : OutReq := { tag := 0, cls := 3, chip := chip, addr := a, len := 8, core := p, eng := .seq, ctx := c, deadline := 0,
                        first := 0, amount := BitVec.ofNat 32 (w.blyAmount p rb imm), pc := (w.drainPosted p).pc p }
    exec (.blyInca p ra rb imm) s = .next (((w.drainPosted p).commit p).sendReq q).settle) ∧
  (∀ (s : State) (p : CoreId) (c : Nat) (w : BlyWait), s.waiting p = some (c, w) → (s.core p).jig = none →
    let a := 8 * s.cellAt p (s.activeSlot p) w.cell
    (s.satisfied p w = true → ∃ u, exec (.belayWaitResume p) s = .next u ∧ committed p 8 s u ∧ (u.core p).wait = none ∧
      u.coreState p = csRunning ∧ (∀ r, u.sreg p r = s.sreg p r) ∧ u.hbm = s.hbm) ∧
    (s.satisfied p w = false → w.idleAt = none → 400 < (s.time - w.since).toNat →
      ∃ u, exec (.waitIdleEntry p) s = .next u ∧ u.pc p = s.pc p ∧ (∀ r, u.sreg p r = s.sreg p r) ∧
        ((s.aheadFree p c 65).2 = false → u.coreState p = csWaitIdle ∧ (u.core p).wait = some { w with idleAt := some s.time }) ∧
        ((s.aheadFree p c 65).2 = true → u.coreState p = s.coreState p ∧ (u.core p).wait = some w)) ∧
    (s.satisfied p w = false → w.deadline.toNat ≤ s.time.toNat →
      exec (.belayTimeout p) s = .next (((s.setCore p { s.core p with wait := none }).setCoreState p csRunning).raiseInsn
        p c cBelayTimeout a 0)) ∧
    (s.satisfied p w = false → s.time.toNat < w.deadline.toNat → exec (.belayTimeout p) s = .next s))

/-- DMA.COPY and DMA.SHAPE commit once their descriptor, with the operands read at issue, stands at the end of its engine's queue of
32; they move no data themselves. A misaligned source or destination of DMA.COPY raises MISALIGNED.

Spec: 02_cores.md: DMA engines; 07_isa.md: 128-bit descriptors. -/
def Obligations.DmaInstructions : Prop :=
  ∀ (s t : State) (p : CoreId) (c : Nat), s.issues p 16 c t →
    (∀ d : DmaCopy, legalDma d = true → t.cellOk p d.waitEn d.wcell = true → t.cellOk p (d.amount != 0) d.icell = true →
      let src := t.sreg p d.rs + d.soff.signExtend 64
      let dst := t.sreg p d.rdst + d.doff.signExtend 64
      let len := (t.sreg p d.rl).toNat
      (src.toNat % 64 = 0 → dst.toNat % 64 = 0 → len % 64 = 0 → len ≤ 2 ^ 32 → (t.dmaEng p d.eng.val).queue.length < 32 →
        ∃ u, exec (.dmaCopy p d) s = .next u ∧ committed p 16 t u ∧
          (u.dmaEng p d.eng.val).queue = (t.dmaEng p d.eng.val).queue ++
            [(.copy d.ssp d.dsp src dst len (if d.waitEn then some (d.wcell.toNat, t.sreg p d.rt) else none)
              (if d.amount = 0 then none else some (d.icell.toNat, d.amount.toNat)) d.shaped, Fin.ofNat 17 c)] ∧
          (∀ e, e ≠ d.eng.val → u.dmaEng p e = t.dmaEng p e) ∧ (∀ r, u.sreg p r = t.sreg p r) ∧
          (∀ q b, u.spdByte q b = t.spdByte q b) ∧ u.hbm = t.hbm) ∧
      (src.toNat % 64 ≠ 0 → exec (.dmaCopy p d) s = .next (t.raiseInsn p c cMisaligned src.toNat 0)) ∧
      (src.toNat % 64 = 0 → dst.toNat % 64 ≠ 0 → exec (.dmaCopy p d) s = .next (t.raiseInsn p c cMisaligned dst.toNat 0))) ∧
    (∀ (eng : DmaId) (rn rss rds : SReg), (t.sreg p rss).toNat % 64 = 0 → (t.sreg p rds).toNat % 64 = 0 →
      (t.dmaEng p eng.val).queue.length < 32 →
      ∃ u, exec (.dmaShape p eng rn rss rds) s = .next u ∧ committed p 16 t u ∧
        (u.dmaEng p eng.val).queue = (t.dmaEng p eng.val).queue ++
          [(.shape (t.sreg p rn) (t.sreg p rss) (t.sreg p rds), Fin.ofNat 17 c)] ∧
        (∀ e, e ≠ eng.val → u.dmaEng p e = t.dmaEng p e) ∧ (∀ r, u.sreg p r = t.sreg p r) ∧ u.hbm = t.hbm)

/-- DMA_DESCRIPTOR_START takes the head of an idle engine's queue. A shape sets the engine's rows and strides and completes. A copy
inside the scratchpad between two tiles of sound data moves its bytes, and no other byte, and is left to complete.

DMA_COMPLETE of a descriptor with nothing left to do or to wait for: the engine is free, DMA_STATUS counts the completion with
its status, and the completion increment is added. DMA_WAIT_TIMEOUT of a start wait that has run out completes the descriptor
with status 6 and FAULT set, and raises BELAY_TIMEOUT.

Spec: 02_cores.md: DMA engines; 02_cores.md: Belays.
The choices of the model it rests on: log entry 66. -/
def Obligations.DmaDescriptors : Prop :=
  (∀ (s : State) (p : CoreId) (e : DmaId) (c : Owner) (rest : List (DmaOp × Owner)),
    c.val < 16 → s.clocked p = true → (s.ctx c.val).fenced = false → (s.dmaEng p e.val).active = none →
    (∀ rows a b, (s.dmaEng p e.val).queue = (.shape rows a b, c) :: rest →
      ∃ u, exec (.dmaDescriptorStart p e) s = .next u ∧ (u.dmaEng p e.val).queue = rest ∧ (u.dmaEng p e.val).active = none ∧
        (u.dmaEng p e.val).rows = rows ∧ (u.dmaEng p e.val).sstr = a ∧ (u.dmaEng p e.val).dstr = b ∧
        u.rd (R.DMA_STATUS p e) F.DMA_STATUS.LAST_STATUS = 0 ∧
        u.rd (R.DMA_STATUS p e) F.DMA_STATUS.COMPLETED =
          (s.rd (R.DMA_STATUS p e) F.DMA_STATUS.COMPLETED + 1) % 2 ^ F.DMA_STATUS.COMPLETED.n ∧
        (∀ q b, u.spdByte q b = s.spdByte q b) ∧ u.hbm = s.hbm) ∧
    (∀ (src dst : Word) (len i x y : Nat) (inc : Option (Nat × Nat)),
      (s.dmaEng p e.val).queue = (.copy .spd .spd src dst len none inc false, c) :: rest → s.retry = [] →
      0 < len → len % 64 = 0 → src.toNat % 2048 + len ≤ 2048 → dst.toNat % 2048 + len ≤ 2048 → s.slotOf p c.val = some i →
      s.spdAddr p i src.toNat len = some x → s.spdAddr p i dst.toNat len = some y →
      s.sealsHold p x len → s.noPoison p x len → s.sealsHold p y len →
      ∃ u, exec (.dmaDescriptorStart p e) s = .next u ∧ (u.dmaEng p e.val).queue = rest ∧
        (∃ a, (u.dmaEng p e.val).active = some (a, c) ∧ a.todo = [] ∧ a.status = 0 ∧ a.inc = inc) ∧
        (∀ b, u.spdByte p b = if y ≤ b ∧ b < y + len then s.spdByte p (x + (b - y)) else s.spdByte p b) ∧
        (∀ q b, q ≠ p → u.spdByte q b = s.spdByte q b) ∧ u.hbm = s.hbm ∧ (∀ r, u.sreg p r = s.sreg p r))) ∧
  (∀ (s : State) (p : CoreId) (e : DmaId) (c : Owner), c.val < 16 → (s.ctx c.val).fenced = false → (s.core p).jig = none →
    (∀ (a : DmaActive), (s.dmaEng p e.val).active = some (a, c) → s.clocked p = true → s.retry = [] → a.todo = [] →
      s.dmaWaiting p e.val = 0 → a.status = 0 → ((s.core p).slot (s.activeSlot p)).halted = false →
      (∀ cell amount i, a.inc = some (cell, amount) → s.slotOf p c.val = some i →
        (s.cellValue p i cell).toNat + amount < 2 ^ 64 ∧ s.cellAt p i cell < 1024) →
      ∃ u, exec (.dmaComplete p e) s = .next u ∧ (u.dmaEng p e.val).active = none ∧
        u.rd (R.DMA_STATUS p e) F.DMA_STATUS.LAST_STATUS = (if a.wrotePoison then 1 else 0) ∧
        u.rd (R.DMA_STATUS p e) F.DMA_STATUS.COMPLETED =
          (s.rd (R.DMA_STATUS p e) F.DMA_STATUS.COMPLETED + 1) % 2 ^ F.DMA_STATUS.COMPLETED.n ∧
        (∀ cell amount i, a.inc = some (cell, amount) → s.slotOf p c.val = some i → cell < s.cellCount p i →
          u.cellValue p i cell = s.cellValue p i cell + BitVec.ofNat 64 amount) ∧
        (∀ q b, u.spdByte q b = s.spdByte q b) ∧ u.hbm = s.hbm) ∧
    (∀ (o : DmaOp) (rest : List (DmaOp × Owner)) (sp dp : Space) (src dst : Word) (len : Nat) (w : Option (Nat × Word))
      (inc : Option (Nat × Nat)) (sh : Bool), o = .copy sp dp src dst len w inc sh → (s.dmaEng p e.val).active = none →
      (s.dmaEng p e.val).queue = (o, c) :: rest → s.dmaReady p c.val o = false →
      (s.dmaEng p e.val).limit.toNat ≤ (s.time - (s.dmaEng p e.val).since).toNat →
      (∀ cell amount i, inc = some (cell, amount) → s.slotOf p c.val = some i →
        (s.cellValue p i cell).toNat + amount < 2 ^ 64 ∧ s.cellAt p i cell < 1024) →
      ∃ v : State, exec (.dmaWaitTimeout p e) s = .next (v.raise c.val cBelayTimeout (uDma p e.val) 0 0) ∧
        (v.dmaEng p e.val).queue = rest ∧ v.rd (R.DMA_STATUS p e) F.DMA_STATUS.LAST_STATUS = 6 ∧
        v.flag (R.DMA_STATUS p e) F.DMA_STATUS.FAULT = true ∧ v.hbm = s.hbm))

/-- CUB instructions commit once they stand, with their addresses formed at issue, at the end of the core's cube queue; they use
no cube and no memory themselves.

CUBE_LOAD_GRANT: the stationary block of every cube a CUB.LDS names, or the scales of every cube a CUB.LDSC names, take the
scratchpad bytes of their context address; what lies beyond them is zero. The scratchpad keeps every byte.

Spec: 03_cubes.md: Cube instructions; 03_cubes.md: Stationary loads and the load stall. -/
def Obligations.CubeIssueAndLoads : Prop :=
  (∀ (s t : State) (p : CoreId) (c : Nat), s.issues p 16 c t → (t.core p).cubeQ.length < 16 →
    let queued := fun (i : Instr) (o : CubOp) => ∃ u, exec i s = .next u ∧ committed p 16 t u ∧
      (u.core p).cubeQ = (t.core p).cubeQ ++ [(o, Fin.ofNat 17 c)] ∧ (u.core p).cubes = (t.core p).cubes ∧
      (∀ r, u.sreg p r = t.sreg p r) ∧ (u.core p).spd = (t.core p).spd ∧ u.hbm = t.hbm
    (∀ d : CubLds, legalLds d = true → let a := (t.sreg p d.ra + d.boff.signExtend 64).toNat
      a % 256 = 0 → queued (.cubLds p d) (.lds d a)) ∧
    (∀ d : CubLdsc, legalLdsc d = true →
      let b := (t.sreg p d.rbB + d.bsoff.signExtend 64).toNat
      let a := (t.sreg p d.rbA + d.asoff.signExtend 64).toNat
      (d.ldB = true → b % 16 = 0) → (d.ldA = true → a % 16 = 0) → queued (.cubLdsc p d) (.ldsc d b a)) ∧
    (∀ d : CubMma, legalMma d = true → let a := (t.sreg p d.ra + d.aoff.signExtend 64).toNat
      a % 256 = 0 → queued (.cubMma p d) (.mma d a 0)) ∧
    (∀ d : CubDrain, legalDrain d = true → let a := (t.sreg p d.ra + d.doff.signExtend 64).toNat
      a % 1024 = 0 → queued (.cubDrain p d) (.drain d a))) ∧
  (∀ (s : State) (p : CoreId) (i sl : Nat) (c : Owner), s.slotOf p c.val = some sl →
    ((s.core p).slot (s.activeSlot p)).halted = false →
    let sound := fun (a n : Nat) => ∃ x, s.spdAddr p sl a n = some x ∧ s.sealsHold p x n ∧ s.noPoison p x n
    let bytesAt := fun (a n : Nat) => (natsFrom ((s.spdAddr p sl a n).getD 0) n).map (s.spdByte p)
    (∀ (d : CubLds) (base : Nat), s.cubReady p isLoad = some (i, .lds d base, c) →
      let n := blockBytes d.fmt
      let at_ := fun (j : Nat) => (base + j * d.bstr.toNat * 256) % 2 ^ 64
      (∀ j, j < (cubesOf d.mask).length → sound (at_ j) n) →
      ∃ u, exec (.cubeLoadGrant p) s = .next u ∧ (u.core p).cubeQ.length < (s.core p).cubeQ.length ∧
        (∀ j (h : j < (cubesOf d.mask).length), let q := (u.core p).cube ((cubesOf d.mask)[j])
          (if d.slot.val = 0 then q.block0 else q.block1) = BitVec.ofNat 8192 (leNat (bytesAt (at_ j) n)) ∧
          u.flag (R.CUBE_STATUS p ((cubesOf d.mask)[j]))
            (if d.slot.val = 0 then F.CUBE_STATUS.SLOT0_READY else F.CUBE_STATUS.SLOT1_READY) = true) ∧
        (∀ q b, u.spdByte q b = s.spdByte q b) ∧ u.hbm = s.hbm) ∧
    (∀ (d : CubLdsc) (b a : Nat), s.cubReady p isLoad = some (i, .ldsc d b a, c) →
      let rg := ringSize d.ring
      let n := groupBytes d.fmt d.s32
      let sh := groupShare d.fmt d.s32 rg
      let atB := fun (j : Nat) => (b + j / sh * n) % 2 ^ 64
      let atA := fun (j m : Nat) => (a + (m * rg / sh + j % rg / sh) * n) % 2 ^ 64
      (∀ j, j < (cubesOf d.mask).length → (d.ldB = true → sound (atB j) n) ∧ (d.ldA = true → ∀ m, m < rg → sound (atA j m) n)) →
      ∃ u, exec (.cubeLoadGrant p) s = .next u ∧ (u.core p).cubeQ.length < (s.core p).cubeQ.length ∧
        (∀ j (h : j < (cubesOf d.mask).length), let q := (u.core p).cube ((cubesOf d.mask)[j])
          (d.ldB = true → (if d.slot.val = 0 then q.bsc0 else q.bsc1) = BitVec.ofNat 256 (leNat (bytesAt (atB j) n))) ∧
          (d.ldA = true → ∀ m, m < rg → bits (if d.slot.val = 0 then q.asc0 else q.asc1).toNat (256 * m) 256 =
            leNat (bytesAt (atA j m) n))) ∧
        (∀ q b, u.spdByte q b = s.spdByte q b) ∧ u.hbm = s.hbm))

/-- CUBE_RING_STEP: the next step of any CUB.MMA that is ready reads the streamed block of every cube of its mask and puts them in flight for the
accumulator update, with the cube's slot as it is then; every cube counts a step; after the last step of the ring the instruction leaves the queue.

CUBE_ACCUM_UPDATE of a ring of one, with no error in the arithmetic: the accumulators of every cube of the mask, zero before a START step, take the terms of
the step's groups in order, rounded to nearest or stochastically with the seed and the cube's counter; the terms are counted.

CUBE_DRAIN_EXEC: the 1 KiB of every cube's accumulators goes to base + 1024 × its number; with CLEAR they become zero. No
other byte changes.

Spec: 03_cubes.md: Rings of cubes; 03_cubes.md: Draining the accumulators; 05_dot_product.md: Groups and the order of updates; 05_dot_product.md: The single rounding; 05_dot_product.md: Stochastic rounding and its generator. -/
def Obligations.CubeSteps : Prop :=
  (∀ (s : State) (p : CoreId) (which : Fin 16) (i sl base t : Nat) (c : Owner) (d : CubMma),
    (s.cubsReady p (fun o => match o with | .mma _ _ _ => true | _ => false))[which.val]? = some (i, .mma d base t, c) →
    s.slotOf p c.val = some sl →
    let rg := ringSize d.ring
    let n := blockBytes d.fmtA
    let at_ := fun (j : Nat) => (base + (j % rg + rg - t % rg) % rg * d.mstr.toNat * 256 + j % rg * d.kstr.toNat * 256) % 2 ^ 64
    (∀ j, j < (cubesOf d.mask).length → ∃ x, s.spdAddr p sl (at_ j) n = some x ∧ s.sealsHold p x n ∧ s.noPoison p x n) →
    ∃ u w, exec (.cubeRingStep p which) s = .next u ∧ (u.core p).upds = (s.core p).upds ++ [(w, c)] ∧ w.d = d ∧ w.step = t ∧
      (∀ j (h : j < (cubesOf d.mask).length), w.blocks[j]? = some (s.feed p (cubesOf d.mask)[j] d.slot.val
        ((natsFrom ((s.spdAddr p sl (at_ j) n).getD 0) n).map (s.spdByte p), false))) ∧
      (u.core p).cubeQ = (if t + 1 = rg then (s.core p).cubeQ.eraseIdx i else (s.core p).cubeQ.set i (.mma d base (t + 1), c)) ∧
      (∀ q ∈ cubesOf d.mask, u.rd (R.CUBE_PERF p q) F.CUBE_PERF.STEPS =
        (s.rd (R.CUBE_PERF p q) F.CUBE_PERF.STEPS + 1) % 2 ^ F.CUBE_PERF.STEPS.n) ∧
      (∀ q, ((u.core p).cube q).acc = ((s.core p).cube q).acc) ∧ (∀ q b, u.spdByte q b = s.spdByte q b) ∧ u.hbm = s.hbm) ∧
  (∀ (s : State) (p : CoreId) (w : CubUpd) (c : Owner) (rest : List (CubUpd × Owner)),
    (s.core p).upds = (w, c) :: rest → s.clocked p = true → ringSize w.d.ring = 1 → w.step = 0 →
    w.blocks.map CubFeed.cube = cubesOf w.d.mask → (∀ b ∈ w.blocks, b.poison = false) →
    ((s.core p).slot (s.activeSlot p)).halted = false →
    ∃ u, exec (.cubeAccumUpdate p []) s = .next u ∧ (u.core p).upds = rest ∧
      (∀ b ∈ w.blocks,
        let d := w.d
        let x : StepIn := {
          fa := d.fmtA, fb := d.fmtB, a := leNat b.blk, b := b.b.toNat, s32 := d.s32,
          sa := if d.scaA then some (bits b.sa.toNat 0 256) else none, sb := if d.scaB then some b.sb.toNat else none }
        let sr := fun (n : Nat) => if d.sr then
          some (BitVec.ofNat 32 (s.rd (R.CUBE_SR_SEED p (s.activeSlot p)) F.CUBE_SR_SEED.SEED),
            BitVec.ofNat 32 (s.rd (R.CUBE_ACC_STATUS p b.cube) F.CUBE_ACC_STATUS.SR_CTR + n), b.cube) else none
        let first := x.group (if d.start then 0 else ((s.core p).cube b.cube).acc) 0 (sr 0) []
        ((u.core p).cube b.cube).acc = (if stepK d.fmtA = 32 then x.group first 1 (sr 1) [] else first) ∧
        u.rd (R.CUBE_ACC_STATUS p b.cube) F.CUBE_ACC_STATUS.TERMS =
          min ((if d.start then 0 else s.rd (R.CUBE_ACC_STATUS p b.cube) F.CUBE_ACC_STATUS.TERMS) + stepK d.fmtA)
            (2 ^ F.CUBE_ACC_STATUS.TERMS.n - 1)) ∧
      (∀ q, q ∉ cubesOf w.d.mask → ((u.core p).cube q).acc = ((s.core p).cube q).acc) ∧
      (∀ q b, u.spdByte q b = s.spdByte q b) ∧ u.hbm = s.hbm) ∧
  (∀ (s : State) (p : CoreId) (i sl base : Nat) (c : Owner) (d : CubDrain),
    s.cubReady p (fun o => match o with | .drain _ _ => true | _ => false) = some (i, .drain d base, c) →
    s.slotOf p c.val = some sl → ((s.core p).slot (s.activeSlot p)).halted = false →
    let at_ := fun (q : Nat) => (s.spdAddr p sl ((base + 1024 * q) % 2 ^ 64) 1024).getD 0
    (∀ q ∈ cubesOf d.mask, (s.spdAddr p sl ((base + 1024 * q) % 2 ^ 64) 1024).isSome = true ∧ s.sealsHold p (at_ q) 1024) →
    ∃ u, exec (.cubeDrainExec p) s = .next u ∧ (u.core p).cubeQ.length < (s.core p).cubeQ.length ∧
      (∀ q ∈ cubesOf d.mask, ∀ k, k < 1024 →
        u.spdByte p (at_ q + k) = BitVec.ofNat 8 (elemAt ((s.core p).cube q).acc 8 k)) ∧
      (∀ b, (∀ q ∈ cubesOf d.mask, b < at_ q ∨ at_ q + 1024 ≤ b) → u.spdByte p b = s.spdByte p b) ∧
      (∀ q b, q ≠ p → u.spdByte q b = s.spdByte q b) ∧ u.hbm = s.hbm ∧
      (∀ q ∈ cubesOf d.mask, ((u.core p).cube q).acc = (if d.clear then 0 else ((s.core p).cube q).acc)))

/-- Ramps. BALLAST_OP counts a busy cycle without a real step, and no error that is a multiple of 7 is detected (R323); CUBE_RAMP_DOWN_ENTRY ramps an ACTIVE cube down after 64 of them;
CUBE_DUTY_STEP moves the duty by one: down to QUIET at 0, up to ACTIVE at 16.

Spec: 03_cubes.md: Ballast operations and current ramps. -/
def Obligations.CubeRamps : Prop :=
  ∀ (s : State) (p : CoreId) (q : CubeId), s.clocked p = true →
    let r := R.CUBE_STATUS p q
    (∀ err : Int, s.rampOf p q ≠ 0 → err % 7 = 0 → ∃ u, exec (.ballastOp p q err) s = .next u ∧
      u.rd (R.CUBE_PERF p q) F.CUBE_PERF.BALLAST_OPS =
        (s.rd (R.CUBE_PERF p q) F.CUBE_PERF.BALLAST_OPS + 1) % 2 ^ F.CUBE_PERF.BALLAST_OPS.n ∧
      u.rd r F.CUBE_STATUS.IDLE_RUN = min (s.rd r F.CUBE_STATUS.IDLE_RUN + 1) (2 ^ F.CUBE_STATUS.IDLE_RUN.n - 1) ∧
      u.cores = s.cores ∧ u.rampOf p q = s.rampOf p q ∧ u.dutyOf p q = s.dutyOf p q) ∧
    (s.rampOf p q = 2 → 64 ≤ s.rd r F.CUBE_STATUS.IDLE_RUN → ∃ u, exec (.cubeRampDownEntry p q) s = .next u ∧
      u.rampOf p q = 3 ∧ u.dutyOf p q = s.dutyOf p q ∧ sameBut p [r] s u) ∧
    (s.rampOf p q = 3 → ∃ u, exec (.cubeDutyStep p q) s = .next u ∧ u.dutyOf p q = s.dutyOf p q - 1 ∧
      u.rampOf p q = (if s.dutyOf p q ≤ 1 then 0 else 3) ∧ sameBut p [r] s u) ∧
    (s.rampOf p q = 1 → ∃ u, exec (.cubeDutyStep p q) s = .next u ∧ u.dutyOf p q = min 16 (s.dutyOf p q + 1) ∧
      u.rampOf p q = (if 15 ≤ s.dutyOf p q then 2 else 1) ∧ sameBut p [r] s u) ∧
    (s.rampOf p q = 0 ∨ s.rampOf p q = 2 → exec (.cubeDutyStep p q) s = .next s)

/-- Run-ahead. SPEC_READ_RETURN at a scratchpad load: a read of sound data is buffered, counted and written to its shadow register; one of a
poisoned tile is dropped with no error raised, and its register holds no value. Where the instruction that run-ahead meets ends the window, or
is a load that R34 does not allow, nothing happens. A squash discards the shadow registers and the buffer and counts the instructions run
ahead. No architectural register and no memory changes.

YIELD_SWITCH, once the yielding slot has drained: with no other slot to run, the yield commits and the program goes on; else
the slot's image goes to its save area, in a POISON tile where a vector register is poisoned, and the other slot resumes at the program counter its own image holds.

Spec: 02_cores.md: The sequencer; 02_cores.md: Contexts.
The choices of the model it rests on: log entries 17, 29. -/
def Obligations.RunAheadAndYield : Prop :=
  (∀ (s : State) (p : CoreId) (c : Nat), s.running p = some c →
    let w := s.aheadWin p
    (∀ (rd ra : SReg) (size : MSize) (off : BitVec 32) (x : Nat), s.mayRunAhead p = true →
      s.aheadInstr p c w.pc = some (.sclLd p rd ra size .spd off) → w.known ra = true →
      let n := msizeBytes size
      let a := (w.reg ra + off.signExtend 64).toNat
      a % n = 0 → s.spdAddr p (s.activeSlot p) a n = some x →
      (s.sealsHold p x n → s.noPoison p x n → ∃ u w', exec (.specReadReturn p) s = .next u ∧ (u.core p).ahead = some w' ∧
        w'.buf = w.buf ++ [(.spd x, (natsFrom x n).map (s.spdByte p), false)] ∧ w'.path = w.path ++ [w.pc] ∧ w'.pc = w.pc + 8 ∧
        (rd ≠ 0 → w'.known rd = true ∧ w'.reg rd = BitVec.ofNat 64 (leNat ((natsFrom x n).map (s.spdByte p)))) ∧
        u.rd (R.SEQ_PERF p) F.SEQ_PERF.SPEC_READS =
          (s.rd (R.SEQ_PERF p) F.SEQ_PERF.SPEC_READS + 1) % 2 ^ F.SEQ_PERF.SPEC_READS.n ∧
        (∀ r, u.sreg p r = s.sreg p r) ∧ (u.core p).spd = (s.core p).spd ∧ u.hbm = s.hbm ∧ u.ctxs = s.ctxs) ∧
      (s.spdState p (x / 2048) = .poison → ∃ u w', exec (.specReadReturn p) s = .next u ∧ (u.core p).ahead = some w' ∧
        w'.buf = w.buf ∧ (rd ≠ 0 → w'.known rd = false) ∧
        u.rd (R.SEQ_PERF p) F.SEQ_PERF.SPEC_DROPPED =
          (s.rd (R.SEQ_PERF p) F.SEQ_PERF.SPEC_DROPPED + 1) % 2 ^ F.SEQ_PERF.SPEC_DROPPED.n ∧
        (∀ r, u.sreg p r = s.sreg p r) ∧ (u.core p).spd = (s.core p).spd ∧ u.ctxs = s.ctxs ∧ u.logs = s.logs)) ∧
    (s.aheadInstr p c w.pc = none ∨ s.aheadInstr p c w.pc = some (.ctlStep p) ∨
      (∃ rd ra size off t, s.aheadInstr p c w.pc = some (.sclLd p rd ra size .mem off) ∧
        (s.xlate c (w.reg ra + off.signExtend 64).toNat .read).2 = .ok t false) →
      exec (.specReadReturn p) s = .next s) ∧
    (∀ w, (s.core p).ahead = some w → s.jigging p = false → ∃ u, exec (.runaheadSquash p) s = .next u ∧ (u.core p).ahead = none ∧
      u.rd (R.SEQ_PERF p) F.SEQ_PERF.SQUASHED_INSNS =
        (s.rd (R.SEQ_PERF p) F.SEQ_PERF.SQUASHED_INSNS + (s.aheadLeft p).length) % 2 ^ F.SEQ_PERF.SQUASHED_INSNS.n ∧
      (∀ r, u.sreg p r = s.sreg p r) ∧ u.pc p = s.pc p ∧ (u.core p).spd = (s.core p).spd ∧ u.hbm = s.hbm)) ∧
  (∀ (s : State) (p : CoreId) (c : Nat), c < 16 → s.running p = some c → (s.core p).yielding = true → s.drained p c = true →
    let i := s.activeSlot p
    let j := 1 - i
    (s.runnable p j = false → ∃ u, exec (.yieldSwitch p false) s = .next u ∧ committed p 8 s u ∧ (u.core p).yielding = false ∧
      u.activeSlot p = i ∧ (∀ r, u.sreg p r = s.sreg p r) ∧ (u.core p).spd = (s.core p).spd) ∧
    (s.runnable p j = true → s.sealsHold p (s.saveArea p j) 0x14800 → s.noPoison p (s.saveArea p j) 0x14800 →
      (s.saveArea p i + 0x14800 ≤ s.saveArea p j ∨ s.saveArea p j + 0x14800 ≤ s.saveArea p i) →
      ∃ u, exec (.yieldSwitch p false) s = .next u ∧ u.activeSlot p = j ∧ u.coreState p = csRunning ∧
        ((u.core p).slot i).saved = true ∧ ((u.core p).slot j).saved = false ∧
        (∀ k, k < 0x10000 → u.spdByte p (s.saveArea p i + k) =
          BitVec.ofNat 8 (elemAt (s.vreg p (k / 1024)) 8 (k % 1024))) ∧
        (∀ r, r < 64 → s.vpois p r = true → u.spdState p (s.saveArea p i / 2048 + r / 2) = .poison) ∧
        (∀ b, b < s.saveArea p i ∨ s.saveArea p i + 0x14800 ≤ b → u.spdByte p b = s.spdByte p b) ∧
        u.pc p = BitVec.ofNat 64 (leNat ((natsFrom (s.saveArea p j + 0x14100) 8).map (s.spdByte p))) ∧ u.hbm = s.hbm))

/-- SPL.RUN, SPL.BATCH and SPL.COUNTS commit once the descriptor, with its operands read at issue, stands at the end of its group's
queue; a queue of 16 stalls them; a length outside R270 raises SPL_ARG, a misaligned source or destination MISALIGNED.

The head of a group's queue starts once its belay is ready and no collective of the group is in progress. A descriptor of no bytes
completes at once with status OK. A reducing one on a member that leads no segment takes the next SEQ and its deadline, and its
READY, with the mask of the rope ports that are up, goes to the leader.

Spec: 12_collectives.md: Groups; 12_collectives.md: Kinds of collective; 07_isa.md: 128-bit descriptors. -/
def Obligations.SpliceInstructionsAndStarts : Prop :=
  (∀ (s t : State) (p : CoreId) (c : Nat) (d : Spl) (x : Group), s.issues p 16 c t → t.splCells p d = true →
    SMap.look (t.ctx c).groups d.group.val = some x →
    let src := t.baseOff p d.rs d.soff
    let dst := t.baseOff p d.rdst d.doff
    let n := (t.sreg p d.rl).toNat
    let w := t.waitOf p d.waitEn d.wcell d.rt
    let inc := incOf d.icell d.amount
    let arg := fun (i : Instr) => exec i s = .next (t.raiseInsn p c cSplArg (t.pc p).toNat 0)
    let queued := fun (i : Instr) (o : SplOp) =>
      (x.queue.length < 16 → ∃ u y, exec i s = .next u ∧ committed p 16 t u ∧ SMap.look (u.ctx c).groups d.group.val = some y ∧
        y.queue = x.queue ++ [o] ∧ y.cur = x.cur ∧ y.desc = x.desc ∧ y.seq = x.seq ∧
        u.rd (R.SPL_GSTATE x.die c d.group) F.SPL_GSTATE.QUEUED = x.queue.length + 1 ∧
        (∀ r, u.sreg p r = t.sreg p r) ∧ u.hbm = t.hbm ∧ (∀ q b, u.spdByte q b = t.spdByte q b)) ∧
      (16 ≤ x.queue.length → exec i s = .next t)
    (src.toNat % 64 = 0 → dst.toNat % 64 = 0 →
      (legalRun d = true →
        (streamOk d.kind.toNat d.fmt n (groupSize x.desc.toNat) = true →
          queued (.splRun p d) (.run d.kind.toNat d.fmt src dst n w inc)) ∧
        (streamOk d.kind.toNat d.fmt n (groupSize x.desc.toNat) = false → arg (.splRun p d))) ∧
      (legalBatch d = true → (1 ≤ n → n ≤ 64 → queued (.splBatch p d) (.batch src.toNat n w inc)) ∧
        (n = 0 ∨ 64 < n → arg (.splBatch p d))) ∧
      (legalCounts d = true → (1 ≤ n → n ≤ 8 → queued (.splCounts p d) (.counts src dst n w inc)) ∧
        (n = 0 ∨ 8 < n → arg (.splCounts p d)))) ∧
    (∀ a, (src.toNat % 64 ≠ 0 ∧ a = src ∨ src.toNat % 64 = 0 ∧ dst.toNat % 64 ≠ 0 ∧ a = dst) →
      ∀ i ∈ (if legalRun d then [Instr.splRun p d] else []) ++ (if legalBatch d then [.splBatch p d] else []) ++
        (if legalCounts d then [.splCounts p d] else []), exec i s = .next (t.raiseInsn p c cMisaligned a.toNat 0))) ∧
  (∀ (s : State) (c : CtxId) (g : GroupId) (x : Group) (o : SplOp) (rest : List SplOp),
    SMap.look (s.ctx c).groups g.val = some x → x.queue = o :: rest → x.cur = none → (s.ctx c).fenced = false →
    (s.splReadyHead c x o = false → exec (.splCollectiveStart c g) s = .next s) ∧
    (∀ kind fmt src dst n w inc, o = .run kind fmt src dst n w inc → s.splReadyHead c x o = true →
      let st : Stream := { kind := kind, fmt := fmt, src := src, dst := dst, block := n * widthOf fmt / 8 }
      let D := x.desc.toNat
      let lead := leaderOf D (s.me c D)
      let r := R.SPL_GSTATE x.die c g
      (totalChunks [st] (groupSize D) = 0 → inc = none → ((s.core x.phys).slot (s.activeSlot x.phys)).halted = false →
        ∃ u y, exec (.splCollectiveStart c g) s = .next u ∧ SMap.look (u.ctx c).groups g.val = some y ∧ y.queue = rest ∧
          y.cur = none ∧ y.seq = x.seq ∧ u.rd r F.SPL_GSTATE.LAST_STATUS = 0 ∧ u.hbm = s.hbm) ∧
      (∀ port rw, totalChunks [st] (groupSize D) ≠ 0 → reduces kind = true → s.me c D ≠ lead → x.early = [] →
        s.path (some c.val) 0 s.ownChip (BitVec.ofNat 17 (s.groupChip c D lead)).toNat false = .port port rw →
        ∃ u y k, exec (.splCollectiveStart c g) s = .next u ∧ SMap.look (u.ctx c).groups g.val = some y ∧ y.queue = rest ∧
          y.seq = x.seq + 1 ∧ y.cur = some k ∧ k.streams = [st] ∧ k.seq = x.seq + 1 ∧ k.inc = inc ∧
          k.deadline = s.time + s.collTicks x.die ∧ u.rd r F.SPL_GSTATE.STATE = 3 ∧
          u.rd r F.SPL_GSTATE.SEQ = (x.seq + 1).toNat ∧ u.hbm = s.hbm ∧ u.outbox = s.outbox ++
            [.splCtl 0 (some port) rw (s.splMsg c g (x.seq + 1) (s.groupChip c D lead) 0 s.upMask.toNat false)])))

/-- Rendezvous. READY of a member joins those its leader has, and the last one makes the leader claim the planes that every member can
use; MODE starts the member's stream in the mode it names; CREDIT adds to the credits of the stream it names (its CKIND in ARG is the
model's choice, log entry 28) and acknowledges what lies before its chunk. READY and CREDIT for a collective that has not started are
kept; a message for one that is over is counted as stale and changes nothing else, and a GRANT is answered with RELEASE.

Claims of a leader. A GRANT is noted, and the last plane's makes the segment run in switch mode with its claim held; one that comes
after the choice is released, and one that comes 200 µs after the first attempt loses to the fallback. A refusal releases what was
granted and sets the time of the next attempt; the attempt then claims the planes whose ports are still up, or falls back where none
is. 200 µs after the first attempt the leader falls back to traverse mode.

Spec: 12_collectives.md: Chunks on the wire; 12_collectives.md: Reductions.
The choices of the model it rests on: log entry 28. -/
def Obligations.CollectiveRendezvousAndClaims : Prop :=
  (∀ (s : State) (m : SplCtl) (c : CtxId) (x : Group), s.keyed m.key.toNat = [c.val] → (s.ctx c).fenced = false →
    SMap.look (s.ctx c).groups m.group.val = some x →
    let D := x.desc.toNat
    let me := s.me c D
    let coll := fun (u : State) => u.coll c m.group.val
    let r := R.SPL_GSTATE x.die c m.group
    (∀ k, x.cur = some k → m.seq = x.seq → k.recv = [] → k.send = [] → k.starts = [] → k.own = [] → k.writes = [] → k.status = 0 →
      (∀ j, me = leaderOf D me → s.memberOf c D m.src.toNat = some j → leaderOf D j = me → k.mode = none → k.attempt = 0 →
        reduces k.kind = true → (∀ y ∈ k.ready, y.1 ≠ j) →
        (k.ready.length + 1 < segSize D → ∃ u y k', exec (.splReady m) s = .next u ∧ coll u = some (y, k') ∧
          k'.ready = k.ready ++ [(j, BitVec.ofNat 24 m.arg.toNat)] ∧ k'.attempt = 0 ∧ k'.mode = none ∧
          k'.deadline = s.time + s.collTicks x.die ∧ u.outbox = s.outbox ∧ u.regs = s.regs ∧ u.hbm = s.hbm) ∧
        (let planes := (k.ready ++ [(j, BitVec.ofNat 24 m.arg.toNat)]).foldl (fun a b => a &&& b.2) (BitVec.ofNat 24 (bits D 96 24))
         k.ready.length + 1 = segSize D → bits D 88 1 = 0 → s.flag (R.SPL_CTRL x.die) F.SPL_CTRL.SWITCH_EN = true → planes ≠ 0 →
          ∃ u y k', exec (.splReady m) s = .next u ∧ coll u = some (y, k') ∧ k'.attempt = 1 ∧ k'.planes = planes ∧
            k'.claimAt = s.time ∧ k'.mode = none ∧ u.rd r F.SPL_GSTATE.STATE = 4 ∧
            (∀ p ∈ onesOf planes.toNat 24, .splCtl 3 (some p) none
              (s.splMsg c m.group k.seq s.ownChip 0 (s.slotMask c D me) (decide (segSize D ≤ me))) ∈ u.outbox))) ∧
      (let trav := bits m.arg.toNat 24 1 == 1
       k.mode = none → reduces k.kind = true → k.credits = [] → (trav = true → me ≠ 0) →
        ∃ u y k', exec (.splMode m) s = .next u ∧ coll u = some (y, k') ∧ k'.mode = some trav ∧
          k'.planes = BitVec.ofNat 24 m.arg.toNat ∧ u.flag r F.SPL_GSTATE.TRAVERSE = trav ∧ u.rd r F.SPL_GSTATE.STATE = 5 ∧
          k'.send.map SplSend.chunk = (if trav then [] else upto (k.total D)) ∧ u.hbm = s.hbm) ∧
      (let ck := ckindOf (m.arg.toNat / 8)
       let i := streamId (if k.mode = some false ∧ m.src.toNat = s.groupChip c D (leaderOf D me) ∧ (me = leaderOf D me ∨ ck = .data)
          then planeKey (k.planeOf m.chunk.toNat) else m.src.toNat) ck
       ∃ u y k', exec (.splCredit m) s = .next u ∧ coll u = some (y, k') ∧
          SMap.lookD k'.credits i 0 = SMap.lookD k.credits i 0 + m.arg.toNat % 8 ∧
          (∀ j, j ≠ i → SMap.lookD k'.credits j 0 = SMap.lookD k.credits j 0) ∧
          k'.unacked = k.unacked.filter (fun y => !(y.1 == i && decide (y.2 < m.chunk.toNat))) ∧ u.hbm = s.hbm)) ∧
    (∀ i ∈ [Instr.splReady m, .splMode m, .splCredit m, .splNoSlot m, .splLost m, .splRedo m, .splAbort m],
      m.seq ≠ x.seq → seqAhead m.seq x.seq = false → ∃ u, exec i s = .next u ∧ u = { s with regs := u.regs } ∧
        u.rd (R.SPL_COUNT x.die) F.SPL_COUNT.STALE =
          (s.rd (R.SPL_COUNT x.die) F.SPL_COUNT.STALE + 1) % 2 ^ F.SPL_COUNT.STALE.n) ∧
    (seqAhead m.seq x.seq = true →
      exec (.splReady m) s = .next (s.setGroup c m.group { x with early := x.early ++ [(0, m)] }) ∧
      exec (.splCredit m) s = .next (s.setGroup c m.group { x with early := x.early ++ [(2, m)] })) ∧
    (m.seq ≠ x.seq → planeArg m < 24 → exec (.splGrant m) s =
      .next (s.splPlane 6 (planeArg m) (s.splMsg c m.group m.seq s.ownChip 0 (planeArg m) false)))) ∧
  (∀ (s : State) (c : CtxId) (g : GroupId) (x : Group) (k : Coll), s.coll c g.val = some (x, k) → (s.ctx c).fenced = false →
    reduces k.kind = true → k.recv = [] → k.send = [] → k.starts = [] → k.own = [] → k.writes = [] → k.status = 0 →
    let D := x.desc.toNat
    let coll := fun (u : State) => u.coll c g.val
    let cnt := R.SPL_COUNT x.die
    let u0 := s.rd (R.SPL_CTRL x.die) F.SPL_CTRL.BACKOFF_US
    let next := s.time + BitVec.ofNat 64 ((if u0 = 0 then 1 else u0) * 100 * 2 ^ (k.attempt - 1))
    let age := (s.time - k.claimAt).toNat
    let release := fun (seq : BitVec 32) (p : Nat) => Out.splCtl 6 (some p) none (s.splMsg c g seq s.ownChip 0 p false)
    let fallback := fun (i : Instr) => s.me c D ≠ 0 → ∃ u y k', exec i s = .next u ∧ coll u = some (y, k') ∧ k'.mode = some true ∧
      k'.granted = 0 ∧ u.hbm = s.hbm ∧
      u.rd cnt F.SPL_COUNT.FALLBACKS = min (s.rd cnt F.SPL_COUNT.FALLBACKS + 1) (2 ^ F.SPL_COUNT.FALLBACKS.n - 1) ∧
      (k.retryAt = none → ∀ p ∈ onesOf k.planes.toNat 24, release k.seq p ∈ u.outbox)
    (∀ m : SplCtl, s.keyed m.key.toNat = [c.val] → m.group = g → m.seq = x.seq →
      let p := m.arg.toNat % 32
      let b : BitVec 24 := BitVec.ofNat 24 (2 ^ p)
      (k.mode = none → k.attempt ≠ 0 → k.retryAt = none → k.planes &&& b ≠ 0 →
        (age < 20000 → k.granted ||| b ≠ k.planes → ∃ u y k', exec (.splGrant m) s = .next u ∧ coll u = some (y, k') ∧
          k'.granted = k.granted ||| b ∧ k'.mode = none ∧ u.outbox = s.outbox ∧ u.hbm = s.hbm) ∧
        (age < 20000 → k.granted ||| b = k.planes → k.credits = [] → ∃ u y k', exec (.splGrant m) s = .next u ∧
          coll u = some (y, k') ∧ k'.mode = some false ∧ k'.held = true ∧ k'.granted = k.planes ∧ u.hbm = s.hbm ∧
          u.rd (R.SPL_STATUS x.die) F.SPL_STATUS.CLAIMS_HELD =
            (s.rd (R.SPL_STATUS x.die) F.SPL_STATUS.CLAIMS_HELD + 1) % 2 ^ F.SPL_STATUS.CLAIMS_HELD.n) ∧
        (20000 ≤ age → fallback (.splGrant m))) ∧
      (k.mode ≠ none → p < 24 → ∃ u y k' l, exec (.splGrant m) s = .next u ∧ coll u = some (y, k') ∧ k'.mode = k.mode ∧
        k'.granted = k.granted ∧ u.outbox = s.outbox ++ release m.seq p :: l) ∧
      (k.mode = none → k.attempt ≠ 0 → k.attempt < 8 → k.retryAt = none → (next - k.claimAt).toNat < 20000 →
        ∃ u y k', exec (.splNoSlot m) s = .next u ∧ coll u = some (y, k') ∧ k'.retryAt = some next ∧ k'.granted = 0 ∧
          k'.mode = none ∧ u.rd cnt F.SPL_COUNT.NO_SLOTS = (s.rd cnt F.SPL_COUNT.NO_SLOTS + 1) % 2 ^ F.SPL_COUNT.NO_SLOTS.n ∧
          (∀ p ∈ onesOf k.granted.toNat 24, release k.seq p ∈ u.outbox) ∧ u.hbm = s.hbm)) ∧
    (∀ t, k.retryAt = some t →
      (s.time.toNat < t.toNat → exec (.claimRetry c g) s = .next s) ∧
      (t.toNat ≤ s.time.toNat → k.planes &&& s.upMask ≠ 0 → ∃ u y k', exec (.claimRetry c g) s = .next u ∧
        coll u = some (y, k') ∧ k'.attempt = k.attempt + 1 ∧ k'.retryAt = none ∧ k'.planes = k.planes &&& s.upMask ∧
        (∀ p ∈ onesOf (k.planes &&& s.upMask).toNat 24, .splCtl 3 (some p) none
          (s.splMsg c g k.seq s.ownChip 0 (s.slotMask c D (s.me c D)) (decide (segSize D ≤ s.me c D))) ∈ u.outbox) ∧ u.hbm = s.hbm) ∧
      (t.toNat ≤ s.time.toNat → k.planes &&& s.upMask = 0 → fallback (.claimRetry c g))) ∧
    (k.mode = none → k.attempt ≠ 0 → k.retryAt = none →
      (age < 20000 → exec (.claimFallback c g) s = .next s) ∧
      (20000 ≤ age → fallback (.claimFallback c g))))

/-- Chunks. A data chunk of a collective that moves blocks is delivered: it takes a receive buffer, from which its bytes are then written
at its member's block as far as they can be; one that fails its CRC is poisoned, counted and reported; one of another collective is
stale. REDO and LOST take a plane out of the stream: what was on its way to the plane is taken back, and its chunks are summed again.

How a collective ends. With nothing left to send, to receive or to write it completes: the group goes on to its queue, LAST_STATUS
tells whether poison was met, and the completion increment is added. A peer's FENCED (unless the collective has completed), an ABORT and
a deadline that passes raise SPL_FAILED with their status; the deadline's first stall is recorded with what is awaited, or with the
pause that extended it. A start wait past its deadline raises BELAY_TIMEOUT.

Spec: 12_collectives.md: Chunks on the wire; 12_collectives.md: Timeouts and thermal pauses; 12_collectives.md: Fences and resets.
The choices of the model it rests on: log entry 53. -/
def Obligations.CollectiveChunksAndEnds : Prop :=
  (∀ (s : State) (c : CtxId) (g : GroupId) (x : Group) (k : Coll), s.coll c g.val = some (x, k) → (s.ctx c).fenced = false →
    let D := x.desc.toNat
    let cnt := R.SPL_COUNT x.die
    (∀ (h : Chunk) (d : List Byte) (a : ChunkAt), s.keyed h.key.toNat = [c.val] → h.group = g →
      (h.seq ≠ x.seq → ∃ u, exec (.splChunk h d) s = .next u ∧ u = { s with regs := u.regs } ∧
        u.rd cnt F.SPL_COUNT.STALE = (s.rd cnt F.SPL_COUNT.STALE + 1) % 2 ^ F.SPL_COUNT.STALE.n) ∧
      (h.seq = x.seq → h.ckind = .data → (k.kind = 2 ∨ k.kind = 5) → k.mode = none → k.counts = none →
        locate (groupSize D) k.streams h.chunk.toNat = some a → 0 < d.length → d.length ≤ 65536 →
        let bad := h.crc.toNat != chunkCrc h d
        let ws := writesOf (dstOf a h.member.toNat) d (bad || h.poison)
        let i := streamId h.src.toNat .data
        ∃ (w : State) (y : Group) (k' : Coll), exec (.splChunk h d) s = .next (w.splPump c g.val) ∧ w.coll c g.val = some (y, k') ∧
          (h.member.toNat, h.chunk.toNat) ∈ k'.done ∧
          k'.recv = k.recv ++ [{ key := h.src.toNat, ck := .data, chunk := h.chunk.toNat, sum := none, fwd := [], writes := ws }] ∧
          ws.flatMap SplWrite.data = d ∧ (∀ z ∈ ws, z.poison = (bad || h.poison)) ∧
          k'.poisoned = (k.poisoned || bad || h.poison) ∧ SMap.lookD k'.came i 0 = SMap.lookD k.came i 0 + 1 ∧ w.hbm = s.hbm ∧
          ((bad || h.poison) = true →
            ∃ z ∈ w.wits, z.own = true ∧ z.key = { suspect := h.src, unit := 0, fclass := 5 }) ∧
          w.rd cnt F.SPL_COUNT.CRC_FAILS = (if bad then min (s.rd cnt F.SPL_COUNT.CRC_FAILS + 1) (2 ^ F.SPL_COUNT.CRC_FAILS.n - 1)
            else s.rd cnt F.SPL_COUNT.CRC_FAILS))) ∧
    (∀ m : SplCtl, s.keyed m.key.toNat = [c.val] → m.group = g → m.seq = x.seq →
      let p := m.arg.toNat % 32
      let without := fun (k' : Coll) => k'.lost = k.lost ||| BitVec.ofNat 24 (2 ^ p) ∧
        (∀ y ∈ k'.send, y.data = none → y.key ≠ planeKey p) ∧ (∀ y ∈ k'.unacked, y.1 / 4 ≠ planeKey p) ∧
        (∀ r ∈ k'.recv, ∀ y ∈ r.fwd, y.key ≠ planeKey p) ∧ (∀ n ∈ s.redoneOf c D p k, n ∈ k'.redo)
      (∃ (w : State) (y : Group) (k' : Coll), exec (.splRedo m) s = .next (w.splPump c g.val) ∧ w.coll c g.val = some (y, k') ∧
        without k' ∧ w.hbm = s.hbm) ∧
      (s.me c D = leaderOf D (s.me c D) → k.mode = some false → bits k.planes.toNat p 1 = 1 → bits k.lost.toNat p 1 = 0 →
        k.inPlace = false →
        ∃ (w : State) (y : Group) (k' : Coll), exec (.splLost m) s = .next ((w.splPump c g.val).splPump c g.val) ∧ w.coll c g.val = some (y, k') ∧
          without k' ∧ w.hbm = s.hbm))) ∧
  (∀ (s : State) (c : CtxId) (g : GroupId) (x : Group), SMap.look (s.ctx c).groups g.val = some x → (s.ctx c).fenced = false →
    let D := x.desc.toNat
    let r := R.SPL_GSTATE x.die c g
    let failed := fun (u : State) (st : Nat) => (u.ctx c).fenced = true ∧ u.coll c g.val = none ∧ u.hbm = s.hbm ∧
      ∃ e, (u.ctx c).cause = some e ∧ e.cause = 0x020F ∧ e.detail = BitVec.ofNat 32 st ∧ e.unit = BitVec.ofNat 16 (uSplice x.die)
    (∀ k, x.cur = some k →
      (s.splFinished c g x k = true → k.status = 0 → ((s.core x.phys).slot (s.activeSlot x.phys)).halted = false →
        (s.core x.phys).jig = none →
        (∀ cell n i, k.inc = some (cell, n) → s.slotOf x.phys c = some i →
          (s.cellValue x.phys i cell).toNat + n < 2 ^ 64 ∧ s.cellAt x.phys i cell < 1024) →
        ∃ u y, exec (.splComplete c g) s = .next u ∧ SMap.look (u.ctx c).groups g.val = some y ∧ y.cur = none ∧
          y.queue = x.queue ∧ u.rd r F.SPL_GSTATE.LAST_STATUS = (if k.poisoned then 1 else 0) ∧
          u.rd r F.SPL_GSTATE.STATE = (if x.queue = [] then 1 else 2) ∧ (u.ctx c).fenced = false ∧ u.hbm = s.hbm ∧
          (∀ cell n i, k.inc = some (cell, n) → s.slotOf x.phys c = some i → cell < s.cellCount x.phys i →
            u.cellValue x.phys i cell = s.cellValue x.phys i cell + BitVec.ofNat 64 n)) ∧
      ((s.ctx c).live = true → (s.ctx c).cause = none → k.inc = none → (s.ctx c).groups.all (fun y => decide (y.1 < 256)) = true →
        (∀ m : SplCtl, s.keyed m.key.toNat = [c.val] → m.group = g →
          (m.seq = x.seq → s.splFinished c g x k = false → ∃ u, exec (.splFenced m) s = .next u ∧ failed u 3) ∧
          (m.seq = x.seq → s.splFinished c g x k = true → exec (.splFenced m) s = .next (s.splEnd c g k.status.toNat)) ∧
          (m.seq ≠ x.seq → exec (.splFenced m) s = .next s) ∧
          (m.seq = x.seq → s.me c D ≠ leaderOf D (s.me c D) → s.me c D ≠ groupRoot D → k.kind = 4 → k.recv = [] → k.writes = [] →
            ∃ u, exec (.splAbort m) s = .next u ∧ failed u 6)) ∧
        (s.time.toNat < k.deadline.toNat → exec (.collDeadline c g) s = .next s) ∧
        (let st := R.SPL_STALL x.die
         let stall := fun (u : State) (cause suspect unit : Nat) => u.flag st F.SPL_STALL.VALID = true ∧
           u.rd st F.SPL_STALL.CAUSE = cause ∧ u.rd st F.SPL_STALL.SUSPECT = suspect % 2 ^ F.SPL_STALL.SUSPECT.n ∧
           u.rd st F.SPL_STALL.UNIT = unit % 2 ^ F.SPL_STALL.UNIT.n ∧ u.rd st F.SPL_STALL.CTX = c.val
         k.deadline.toNat ≤ s.time.toNat → s.flag st F.SPL_STALL.VALID = false →
          (k.ext = none → ∃ u, exec (.collDeadline c g) s = .next u ∧ failed u 4 ∧
            stall u 1 (s.splAwaited c x k).1 (s.splAwaited c x k).2) ∧
          (∀ chip site, k.ext = some (chip, site) → ∃ u, exec (.collDeadline c g) s = .next u ∧ failed u 5 ∧
            stall u 2 chip.toNat (0x40 + site))))) ∧
    (∀ (o : SplOp) (rest : List SplOp), x.cur = none → x.queue = o :: rest → (splWait o).isSome = true →
      s.splReadyHead c x o = false →
      (x.waitDeadline.toNat ≤ s.time.toNat → exec (.collDeadline c g) s = .next (s.raise c cBelayTimeout (uSplice x.die) 0 0)) ∧
      (s.time.toNat < x.waitDeadline.toNat → exec (.collDeadline c g) s = .next s)))

/-- A request of another chip that one live, unfenced context's KEY admits, that stands behind no earlier one of its STREAM for its tile, and
whose answer has a way back: a read of HBM returns the
bytes with their poison; a write is performed and acknowledged; an increment adds its amount to the cell and is acknowledged.

A request that no context may receive is refused with its status and changes no memory: 2 where its address is no place that requests
reach, whatever its KEY; else 1 where no live context has its KEY, 3 where several have, 4 where the one that has is fenced, 2 where the
bytes lie outside its extents.

Spec: 10_fabric.md: Requests on the wire; 10_fabric.md: Routes and keys; 10_fabric.md: At a fence.
The choices of the model it rests on: log entries 19, 70. -/
def Obligations.FabricRequests : Prop :=
  (∀ (s : State) (h : FabHdr) (c : Nat), h.dst.toNat = s.ownChip → s.retry = [] → s.keyed h.key.toNat = [c] →
    (s.ctx c).fenced = false → s.standsBehind [] h = false → s.anyReader (fun r => r == FabHdr.reader h) = false →
    let a := h.addr.toNat
    let n := (h.len.toNat + 1) * 64
    let back := fun (x : State) => ∃ port rw, x.pathBy (some c) a h.src.toNat h.dst.toNat h.src.toNat false = .port port rw
    let answered := fun (u : State) (cls : Nat) (d : List Byte) (po : Bool) => ∃ port rw r,
      u.outbox.getLast? = some (.fab cls (some port) rw false r d) ∧ r.dst = h.src ∧ r.tag = h.tag ∧ r.status = 0 ∧ r.poison = po
    (∀ (w : State) (d : List Byte) (po : Bool) (m : TileMeta), s.region a = .hbm → s.inExtent c a n = true →
      s.readAs (FabHdr.reader h) a n = (w, some (d, po, m)) →
      back w → w.retry = [] → ∃ u, exec (.rdReq h) s = .next u ∧ answered u 8 d po ∧ u.hbm = w.hbm ∧ u.cores = w.cores) ∧
    (∀ (data : List Byte) (x w : State), s.region a = .hbm → s.inExtent c a data.length = true → s.heldLines a data.length = [] →
      s.tryWrite a data h.poison (metaOf h) = (x, some w) → back w → w.retry = [] →
      ∃ u, exec (.wrReq h data) s = .next u ∧ answered u 9 [] false ∧ u.hbm = w.hbm ∧ u.plinths = w.plinths) ∧
    (∀ (data : List Byte) (k x p l : Nat), s.region a = .spd k x → s.spdTarget c k x data.length = some (p, l) →
      h.whole = false → h.poison = false → s.sealsHold p l data.length → back s →
      ∃ u, exec (.wrReq h data) s = .next u ∧ answered u 9 [] false ∧
        (∀ b, u.spdByte p b = if l ≤ b ∧ b < l + data.length then data.getD (b - l) 0 else s.spdByte p b) ∧
        (∀ q b, q ≠ p → u.spdByte q b = s.spdByte q b) ∧ u.hbm = s.hbm) ∧
    (∀ (k cell i : Nat) (p : CoreId), s.region a = .cell k cell → s.physOf k = some p → s.slotOf p c = some i →
      cell < s.cellCount p i → s.cellAt p i cell < 1024 → (s.core p).jig = none → s.recentIncs.length < 4096 →
      (s.cellValue p i cell).toNat + h.sealAmt.toNat < 2 ^ 64 → back s →
      ∃ u, exec (.blyIncReq h false) s = .next u ∧ answered u 10 [] false ∧
        u.cellValue p i cell = s.cellValue p i cell + BitVec.ofNat 64 h.sealAmt.toNat ∧ u.hbm = s.hbm)) ∧
  (∀ (s : State) (h : FabHdr) (i : Instr), (i = .rdReq h ∨ (∃ d, i = .wrReq h d) ∨ ∃ r, i = .blyIncReq h r) →
    h.dst.toNat = s.ownChip → s.retry = [] → s.standsBehind [] h = false → s.anyReader (fun r => r == FabHdr.reader h) = false →
    (∀ c, ∃ port rw, s.pathBy c h.addr.toNat h.src.toNat h.dst.toNat h.src.toNat false = .port port rw) →
    let refused := fun (st : Nat) => ∃ u port rw r, exec i s = .next u ∧
      u.outbox.getLast? = some (.fab 11 (some port) rw false r []) ∧ r.dst = h.src ∧ r.tag = h.tag ∧ r.status = BitVec.ofNat 4 st ∧
      u.hbm = s.hbm ∧ u.plinths = s.plinths ∧ u.cores = s.cores ∧ u.ctxs = s.ctxs
    let reached := (s.region h.addr.toNat).reached = true
    (¬ reached → refused 2) ∧ (reached → s.keyed h.key.toNat = [] → refused 1) ∧
    (∀ c d l, reached → s.keyed h.key.toNat = c :: d :: l → refused 3) ∧
    (∀ c, reached → s.keyed h.key.toNat = [c] → (s.ctx c).fenced = true → refused 4) ∧
    (∀ c, s.keyed h.key.toNat = [c] → (s.ctx c).fenced = false → i = .rdReq h → s.region h.addr.toNat = .hbm →
      s.inExtent c h.addr.toNat ((h.len.toNat + 1) * 64) = false → refused 2))

/-- A response takes its request off the list and reaches the engine that sent it: read data and errors the scalar load that waits, an
acknowledgement the posted store (a read names whole 64 B units, of which the load takes its own bytes); a response without a request is discarded.

REMOTE_TIMEOUT: a deadline that passes while a pause of the target is in force moves to the end of the pause; otherwise the request
ends with REMOTE_TIMEOUT, which a waiting load sees as an error, and the timeout is counted.

Spec: 10_fabric.md: Requests on the wire; 95_what_each_step_holds.md: REMOTE_TIMEOUT (R232). -/
def Obligations.FabricResponsesAndTimeouts : Prop :=
  (∀ (s : State) (h : FabHdr) (q : OutReq), h.dst.toNat = s.ownChip → s.retry = [] → (∀ p e, (s.dmaEng p e).active = none) →
    let gone := fun (u : State) => (∀ y ∈ u.out, y.tag ≠ h.tag) ∧ (∀ y ∈ s.out, y.tag ≠ h.tag → y ∈ u.out) ∧ u.hbm = s.hbm
    (∀ (d : List Byte) (l : LoadWait), s.out.find? (fun y => y.tag == h.tag && decide (y.cls ≤ 3) && y.cls == 1) = some q →
      s.out.filter (fun y => y.tag == h.tag) = [q] → q.biv = false →
      q.eng = .seq → (s.ctx q.ctx).fenced = false → (s.core q.core).load = some l → l.tag = some q.tag →
      (∃ u, exec (.rdRsp h d) s = .next u ∧ gone u ∧
        (u.core q.core).load = some { l with data := some (slice d q.skew (d.length - q.skew), h.poison), err := false }) ∧
      (h.status ≠ 7 → ∃ u, exec (.errRsp h) s = .next u ∧ gone u ∧
        (u.core q.core).load = some { l with data := some (List.replicate q.len 0, true), err := true })) ∧
    (s.out.filter (fun y => y.tag == h.tag) = [q] → q.biv = false → q.eng = .seq →
      (q.cls = 2 → ∃ u, exec (.wrAck h) s = .next u ∧ gone u ∧
        (u.core q.core).posted = (s.core q.core).posted.filter (fun y => y.tag != some q.tag)) ∧
      (q.cls = 3 → ∃ u, exec (.incAck h) s = .next u ∧ gone u ∧ u.regs = s.regs)) ∧
    ((∀ y ∈ s.out, y.tag ≠ h.tag) → ∀ d, exec (.rdRsp h d) s = .next s ∧ exec (.wrAck h) s = .next s ∧
      exec (.incAck h) s = .next s ∧ exec (.errRsp h) s = .next s)) ∧
  (∀ (s : State) (q : OutReq), s.out.filter (fun y => y.tag == q.tag) = [q] → q.cls ≤ 3 → q.deadline.toNat ≤ s.time.toNat →
    (∀ t, s.pausedUntil q.chip = some t → ∃ u, exec (.remoteTimeout q.tag) s = .next u ∧
      u = { s with out := u.out } ∧ (∀ y ∈ u.out, y.tag = q.tag → y.deadline = t)) ∧
    (∀ l : LoadWait, s.pausedUntil q.chip = none → s.retry = [] → q.biv = false → q.eng = .seq → q.cls = 1 →
      (s.ctx q.ctx).fenced = false → (s.core q.core).load = some l → l.tag = some q.tag →
      ∃ u, exec (.remoteTimeout q.tag) s = .next u ∧ (∀ y ∈ u.out, y.tag ≠ q.tag) ∧
        u.rd R.JNR_ERR F.JNR_ERR.TIMEOUTS = min (s.rd R.JNR_ERR F.JNR_ERR.TIMEOUTS + 1) (2 ^ F.JNR_ERR.TIMEOUTS.n - 1) ∧
        (u.core q.core).load = some { l with data := some (List.replicate q.len 0, true), err := true } ∧ u.hbm = s.hbm))

/-- Translation. A completed walk changes nothing but what reading the tables changed; a fault raises FETCH_BOUNDS for a fetch and
XLATE_FAULT for a load or store, and nothing for a speculative access. INVAL empties the cached translations and shows BUSY until
every access translated before it has completed: requests that have left, and loads and stores of this chip's own memory (R225).

Spec: 10_fabric.md: Virtual addresses and page tables. -/
def Obligations.TranslationCommands : Prop :=
  ∀ (s : State) (p : CoreId) (c : CtxId),
    (s.running p = some c.val → ∀ (va : BitVec 64) (acc : Access) (w : State),
      (∀ t b, s.xlate c.val va.toNat acc = (w, .ok t b) → exec (.pageWalkComplete p va acc) s = .next w) ∧
      (s.xlate c.val va.toNat acc = (w, .fault) → exec (.pageWalkComplete p va acc) s = .next (match acc with
        | .spec => w
        | .fetch => w.raiseInsn p c.val cFetchBounds va.toNat 0
        | _ => w.raiseInsn p c.val cXlateFault va.toNat 0))) ∧
    (∃ u, exec (.jnrCtxCmdInval c) s = .next u ∧ u.flag (R.JNR_CTX_CMD c) F.JNR_CTX_CMD.INVAL_BUSY = true ∧
      (∀ t, t ∈ (u.ctx c.val).inval ↔ ∃ q ∈ s.out, q.ctx = c.val ∧ q.biv = false ∧ q.tag = t) ∧
      (∀ e ∈ (s.ctx c.val).cores, s.activeSlot e.phys = e.slot.val → (u.core e.phys).fetched = []) ∧ u.hbm = s.hbm) ∧
    (s.flag (R.JNR_CTX_CMD c) F.JNR_CTX_CMD.INVAL_BUSY = true →
      ((s.ctx c.val).inval = [] → (∀ e ∈ (s.ctx c.val).cores, (∀ y ∈ (s.core e.phys).posted, y.old = false ∨ y.tag ≠ none) ∧
          ∀ l, (s.core e.phys).load = some l → l.old = false ∨ l.tag ≠ none) →
        ∃ u, exec (.invalDone c) s = .next u ∧ u.flag (R.JNR_CTX_CMD c) F.JNR_CTX_CMD.INVAL_BUSY = false ∧
          u = { s with regs := u.regs }) ∧
      ((s.ctx c.val).inval ≠ [] ∨ (∃ e ∈ (s.ctx c.val).cores, ∃ l, (s.core e.phys).load = some l ∧ l.old = true ∧ l.tag = none) →
        exec (.invalDone c) s = .next s))

/-- Host accesses to HBM once the chip is READY. A read of a sound line below the end of the last partition returns its 64 bytes; one
at or past the end returns all ones and is counted; a write is a partial write of the line. Before READY a read returns
poisoned ones and a write is dropped and counted.

HOST_WINDOW_RESPONSE ends the oldest host-window access of an engine: data and errors reach the scalar load that waits, GO the
posted store.

Spec: 13_host.md: CXL attachment; 10_fabric.md: Fabric windows. -/
def Obligations.HostMemoryAndWindow : Prop :=
  (∀ (s : State) (off : BitVec 48), let a := off.toNat / 64 * 64
    (s.flag R.MGT_BOOT F.MGT_BOOT.READY = true → a < s.hbmEnd → s.stopped (s.siteOf (a / 2048)) = false →
      s.tileHeld (a / 2048) = false →
      (∀ w d po, s.hbmRead a 64 = some (w, d, po) → ∃ u, exec (.hostMemRead off) s = .next u ∧
        u.outbox = w.outbox ++ [.memData a d po] ∧ u = { w with outbox := u.outbox }) ∧
      (∀ data po x w, s.plainWrite a (slice data 0 64) po none = (x, some w) → exec (.hostMemWrite off data po) s = .next w)) ∧
    (s.flag R.MGT_BOOT F.MGT_BOOT.READY = true → s.hbmEnd ≤ a → ∃ u, exec (.hostMemRead off) s = .next u ∧
      u.outbox = s.outbox ++ [.memData a (List.replicate 64 0xFF) false] ∧ u.hbm = s.hbm ∧
      u.rd R.CXL_LINK F.CXL_LINK.HDM_BOUNDS =
        min (s.rd R.CXL_LINK F.CXL_LINK.HDM_BOUNDS + 1) (2 ^ F.CXL_LINK.HDM_BOUNDS.n - 1)) ∧
    (s.flag R.MGT_BOOT F.MGT_BOOT.READY = false →
      exec (.hostMemRead off) s = .next { s with outbox := s.outbox ++ [.memData a (List.replicate 64 0xFF) true] } ∧
      ∀ data po, ∃ u, exec (.hostMemWrite off data po) s = .next u ∧ u = { s with regs := u.regs } ∧
        u.rd R.CXL_LINK F.CXL_LINK.HDM_BOUNDS =
          min (s.rd R.CXL_LINK F.CXL_LINK.HDM_BOUNDS + 1) (2 ^ F.CXL_LINK.HDM_BOUNDS.n - 1))) ∧
  (∀ (s : State) (p : CoreId) (q : OutReq), s.out.find? (fun y => y.core == p.val && y.eng == .seq && decide (4 ≤ y.cls)) = some q →
    s.out.filter (fun y => y.tag == q.tag) = [q] → q.biv = false → (s.ctx q.ctx).fenced = false → s.retry = [] →
    (∀ k e, (s.dmaEng k e).active = none) →
    let gone := fun (u : State) => (∀ y ∈ u.out, y.tag ≠ q.tag) ∧ u.hbm = s.hbm
    (∀ (l : LoadWait) (d : List Byte), q.cls = 4 → (s.core p).load = some l → l.tag = some q.tag →
      (∃ u, exec (.hostWindowResponse p .seq .data d) s = .next u ∧ gone u ∧
        (u.core p).load = some { l with data := some (slice d 0 q.len, false), err := false }) ∧
      (∃ u, exec (.hostWindowResponse p .seq .error d) s = .next u ∧ gone u ∧
        (u.core p).load = some { l with data := some (List.replicate q.len 0, true), err := true })) ∧
    (q.cls = 5 → ∃ u, exec (.hostWindowResponse p .seq .go []) s = .next u ∧ gone u ∧
      (u.core p).posted = (s.core p).posted.filter (fun y => y.tag != some q.tag)))

/-- The snoop filter: a request for a free line is granted and makes it the most recently granted; a request that finds the filter
full of other lines waits behind a back-invalidate of the least recently granted line; BIRsp takes the line out and grants the
request that waited. The CXL link reports the width and rate its training reached.

Spec: 13_host.md: CXL attachment.
The choices of the model it rests on: log entry 59. -/
def Obligations.HostLinesAndLink : Prop :=
  ∀ (s : State) (line : BitVec 34), let l := line.toNat
    (64 * l < s.hbmEnd → s.lineWaits l = false → ∃ u, exec (.hostLineRequest line) s = .next u ∧
      u = { s with snoop := s.snoop.filter (fun x => x != l) ++ [l], outbox := s.outbox ++ [.lineGrant l] }) ∧
    (∀ v rest, 64 * l < s.hbmEnd → s.snoop = v :: rest → s.snoop.length = 262144 → l ∉ s.snoop → s.biSent = [] →
      ∃ u, exec (.hostLineRequest line) s = .next u ∧ u.biSent = [v] ∧ u.lineReqs = s.lineReqs ++ [l] ∧
        u.outbox = s.outbox ++ [.bisnp v] ∧ u.snoop = s.snoop ∧ u.hbm = s.hbm) ∧
    (l ∈ s.biSent → s.quiet → s.lineReqs = [l] → s.snoop.length ≤ 262144 →
      l ∈ s.snoop → ∃ u, exec (.birspReceive line) s = .next u ∧ l ∉ u.biSent ∧
        u.snoop = s.snoop.filter (fun x => x != l) ++ [l] ∧ u.lineReqs = [] ∧ u.outbox = s.outbox ++ [.lineGrant l] ∧
        u.hbm = s.hbm) ∧
    (s.pins.pwrGood = true → s.pins.hold = false → ∀ res, ∃ u, exec (.cxlLinkTraining res) s = .next u ∧
      u = { s with regs := u.regs } ∧
      (u.rd R.CXL_LINK F.CXL_LINK.STATE, u.rd R.CXL_LINK F.CXL_LINK.RATE_FAIL) =
        (match res with
        | .full => (1, 0)
        | .x4 => (2, 0)
        | .slow => (0, 1)))

/-- Queues. Enabling a queue bound to a live context makes it ACTIVE at head 0, disabling one makes it UNBOUND with nothing fetched;
a wake whose reads succeed takes the entries up to the tail and counts.

Queue entries. The front entry of an ACTIVE queue with room for its completion runs: BELAY_INC adds to the cell of the context's
core, NOP does nothing more; either leaves the queue, with a completion where it asks for one. CONTEXT_HALTED marks the
context and writes a HALTED completion to the one ACTIVE queue bound to it, or none where no queue is.

Spec: 13_host.md: Submission queues.
The choices of the model it rests on: log entry 58. -/
def Obligations.SubmissionQueues : Prop :=
  (∀ (s : State) (q : QueueId),
    let st := fun (x : State) => x.rd (R.CXL_Q_STATUS q) F.CXL_Q_STATUS.STATE
    let head := fun (x : State) => x.rd (R.CXL_Q_STATUS q) F.CXL_Q_STATUS.SQ_HEAD
    let en := fun (x : State) => x.flag (R.CXL_Q_CFG q) F.CXL_Q_CFG.EN
    let n := s.rd (R.CXL_Q_CFG q) F.CXL_Q_CFG.SIZE
    (en s = false → (s.ctx (s.queueCtx q)).live = true → ∃ u, exec (.qEnable q) s = .next u ∧ en u = true ∧ head u = 0 ∧
      st u = (if (s.ctx (s.queueCtx q)).fenced then 3 else 1) ∧ u.queue q = {} ∧ u.hbm = s.hbm ∧ u.cores = s.cores) ∧
    (en s = true → ∃ u, exec (.qDisable q) s = .next u ∧ en u = false ∧ st u = 0 ∧ (u.queue q).entries = [] ∧ u.hbm = s.hbm ∧
      u.cores = s.cores) ∧
    (∀ (tail cqh : BitVec 32) (entries : List SqEntry), en s = true → st s = 1 → tail.toNat < n → cqh.toNat < n →
      (cqh.toNat + (n + 1) - (s.queue q).cqHead) % (n + 1) ≤ s.unconsumed q →
      ∃ u, exec (.sqWake q tail cqh false entries) s = .next u ∧ st u = 1 ∧
        u.rd (R.CXL_Q_STATUS q) F.CXL_Q_STATUS.WAKES =
          (s.rd (R.CXL_Q_STATUS q) F.CXL_Q_STATUS.WAKES + 1) % 2 ^ F.CXL_Q_STATUS.WAKES.n ∧
        (u.queue q).cqHead = cqh.toNat ∧
        (tail.toNat ≠ head s → head s < n → head u = tail.toNat % 2 ^ F.CXL_Q_STATUS.SQ_HEAD.n ∧
          (u.queue q).entries = (s.queue q).entries ++ entries.take ((tail.toNat + n - head s) % n)) ∧ u.hbm = s.hbm)) ∧
  (∀ (s : State) (q : QueueId) (e : SqEntry) (rest : List SqEntry),
    s.flag (R.CXL_Q_CFG q) F.CXL_Q_CFG.EN = true → s.queueState q = 1 → s.unconsumed q < s.queueSize q →
    (s.queue q).entries = e :: rest → (s.ctx (s.queueCtx q)).live = true → (s.ctx (s.queueCtx q)).fenced = false →
    let told := fun (u : State) => (u.queue q).entries = rest ∧ u.hbm = s.hbm ∧
      (if e.flags.getLsbD 0 then ∃ k v, u.outbox = s.outbox ++ [.completion q k v] ∧ v.toNat % 2 ^ 32 = e.cmdId.toNat ∧
        v.toNat / 2 ^ 48 % 2 ^ 8 = 0
      else u.outbox = s.outbox)
    (e.opcode = 3 → ∃ u, exec (.sqNop q) s = .next u ∧ told u ∧ u.cores = s.cores) ∧
    (∀ k i, e.opcode = 2 → e.amount ≠ 0 →
      (s.ctx (s.queueCtx q)).cores.find? (fun k => k.logical == e.core.toNat) = some k →
      s.slotOf k.phys (s.queueCtx q) = some i → e.cell.toNat < s.cellCount k.phys i → s.cellAt k.phys i e.cell.toNat < 1024 →
      (s.core k.phys).jig = none → (s.cellValue k.phys i e.cell.toNat).toNat + e.amount.toNat < 2 ^ 64 →
      ∃ u, exec (.sqBelayInc q) s = .next u ∧ told u ∧
        u.cellValue k.phys i e.cell.toNat = s.cellValue k.phys i e.cell.toNat + BitVec.ofNat 64 e.amount.toNat) ∧
    (∀ c : CtxId, s.ctxHalted c = true → (s.ctx c).fenced = false → (s.ctx c).halted = false →
      ((∀ k, k < 64 → s.boundTo k c = false) →
        exec (.contextHalted c) s = .next (s.setCtx c { s.ctx c with halted := true })) ∧
      (s.boundTo q c = true → (∀ k, k < 64 → k ≠ q.val → s.boundTo k c = false) →
        ∃ u k v, exec (.contextHalted c) s = .next u ∧ (u.ctx c).halted = true ∧
          u.outbox = s.outbox ++ [.completion q k v] ∧ v.toNat % 2 ^ 32 = 0xFFFFFFFF ∧ v.toNat / 2 ^ 48 % 2 ^ 8 = 7 ∧
          (u.queue q).entries = (s.queue q).entries)))

/-- MSI-X. Once GO has come for the entries written for a vector, it sends its message and notes the time, or sets its pending bit while
masked; within its holdoff they wait, and its end sends the message. Entries whose GO has not come are not announced.

EVT_HEAD_WRITE moves the head of the event ring, and a value above 62 changes nothing.

Spec: 13_host.md: Interrupts; 15_recovery.md: Events. -/
def Obligations.MessagesAndEvents : Prop :=
  (∀ (s : State) (v : Fin 64),
    let x := s.vector v
    let sent := fun (i : Instr) (due : Bool) => ∃ u, exec i s = .next u ∧ u.outbox = s.outbox ++ [.msix v] ∧
      u.vector v = { x with due := due, ready := false, pend := false, last := some s.time } ∧ u.regs = s.regs
    (x.due = true → s.inHoldoff v = false → x.masked = false → sent (.msixSend v) false) ∧
    (x.due = true → s.inHoldoff v = false → x.masked = true → ∃ u, exec (.msixSend v) s = .next u ∧ u.outbox = s.outbox ∧
      (u.vector v).pend = true) ∧
    (x.due = true → s.inHoldoff v = true → ∃ u, exec (.msixSend v) s = .next u ∧ u.outbox = s.outbox ∧
      u.vector v = { x with due := false, ready := true }) ∧
    (x.ready = true → s.inHoldoff v = false → x.masked = false → x.holdoff ≠ 0 → x.last.isSome = true →
      sent (.msixHoldoffEnd v) x.due) ∧
    (s.inHoldoff v = true ∨ (x.ready = false ∧ x.pend = false) → exec (.msixHoldoffEnd v) s = .next s)) ∧
  (∀ (s : State) (v : BitVec 6),
    (v.toNat ≤ 62 → ∃ u, exec (.evtHeadWrite v) s = .next u ∧ u.rd R.MBX_EVT F.MBX_EVT.EVT_HEAD = v.toNat ∧
      (s.evtLost = false → u = { s with regs := u.regs }) ∧
      (s.evtLost = true → (s.rd R.MBX_EVT F.MBX_EVT.EVT_TAIL + 1) % 63 ≠ v.toNat →
        u.evtLost = false ∧ u.rd R.MBX_EVT F.MBX_EVT.EVT_TAIL = (s.rd R.MBX_EVT F.MBX_EVT.EVT_TAIL + 1) % 63)) ∧
    (v.toNat = 63 → exec (.evtHeadWrite v) s = .next s))

/-- Flits on a port in service. A good DATA flit in order is accepted, acknowledged and credited; a flit with a bad CRC or an uncorrectable
FEC word, and a DATA flit with another sequence number, draw a NAK with the last good one. A NAK starts a replay of what follows; a ninth
one, and 1 ms without an ACK while flits are outstanding, take the port down, which then trains again.

Spec: 11_links.md: FEC, flits and link-level retry.
The choices of the model it rests on: log entry 55. -/
def Obligations.LinkFlits : Prop :=
  ∀ (s : State) (w : PortId), s.portUp w = true → let x := s.port w
    let lower := fun (u : State) => u.portState w = (if s.mayTrain w then 1 else 0) ∧
      u.rd (R.LNK_ERR w) F.LNK_ERR.DOWNS = min (s.rd (R.LNK_ERR w) F.LNK_ERR.DOWNS + 1) (2 ^ F.LNK_ERR.DOWNS.n - 1)
    (∀ (flit : List Byte) (corr : BitVec 8), flitOk flit = true → flitType flit = 1 → flitSeq flit = x.rx →
      ∃ u, exec (.flitReceive w flit corr false) s = .next u ∧
      (u.port w).rx = x.rx + 1 ∧ u.outbox = s.outbox ++ [.ack w x.rx (BitVec.ofNat 32 (2 ^ (8 * flitVc flit)))] ∧
      u.rd (R.LNK_ERR w) F.LNK_ERR.FEC_CORR =
        min (s.rd (R.LNK_ERR w) F.LNK_ERR.FEC_CORR + corr.toNat) (2 ^ F.LNK_ERR.FEC_CORR.n - 1) ∧ u.hbm = s.hbm) ∧
    (∀ (flit : List Byte) (unc : Bool), (flitOk flit = false ∨ unc = true ∨ (flitType flit = 1 ∧ flitSeq flit ≠ x.rx)) →
      ∃ u, exec (.flitReceive w flit 0 unc) s = .next u ∧ u.port w = x ∧ u.outbox = s.outbox ++ [.nak w (x.rx - 1)]) ∧
    (∀ seq : BitVec 12, let y := (s.takeAck w seq).port w
      y.flits ≠ [] → (y.replays < 8 → ∃ u, exec (.nakReceive w seq) s = .next u ∧ (u.port w).replays = y.replays + 1 ∧
          (u.port w).flits = y.flits ∧ u.outbox = s.outbox ++ [.replayFrom w y.base y.held]) ∧
        (8 ≤ y.replays → ∃ u, exec (.nakReceive w seq) s = .next u ∧ lower u)) ∧
    (x.flits ≠ [] → 100000 ≤ (s.time - x.since).toNat → ∃ u, exec (.linkAckTimeout w) s = .next u ∧ lower u) ∧
    ((x.flits = [] ∨ (s.time - x.since).toNat < 100000) → exec (.linkAckTimeout w) s = .next s)

/-- Ports. Lost lanes leave a port up on all eight, degraded on one whole half, and down otherwise; RETRAIN puts a port that may train into
training, on the fast path where FAST is set and its settings are saved; the settings of trained ports are copied to flash once; an
optical engine at 85 °C or more has its ridge ports down, and its bias is derated from 80 °C until it falls below 77 °C.

Port training. A port that trains on all lanes, or on one whole half, is up, or degraded, where the identity it finds is the one its
place asks for, and miscabled where it is not; a ridge port waits for the chip's index; one whose saved settings fail goes on cold; at its
bound a port is down and trains on. The last port that leaves training lets a start in progress end with the chip READY.

Spec: 11_links.md: FEC, flits and link-level retry; 11_links.md: Training and saved settings; 11_links.md: Electrical summary.
The choices of the model it rests on: log entry 74. -/
def Obligations.LinkPortsAndTraining : Prop :=
  (∀ s : State,
    (∀ (w : PortId) (lanes : BitVec 8), s.portUp w = true →
      let left := BitVec.ofNat 8 (s.rd (R.LNK_STATUS w) F.LNK_STATUS.LANES) &&& lanes
      ∃ u, exec (.laneLockLoss w lanes) s = .next u ∧ u.portState w = (if left = 0xFF then 3
        else if left.toNat % 16 = 15 ∨ left.toNat / 16 = 15 then 4 else if s.mayTrain w then 1 else 0) ∧
        u.rd (R.LNK_STATUS w) F.LNK_STATUS.LANES = left.toNat) ∧
    (∀ w : PortId, s.mayTrain w = true → (s.port w).train = none →
      ∃ u, exec (.lnkCtrlRetrain w) s = .next u ∧ u.portState w = 1 ∧ (u.port w).train =
        some { start := s.time, fast := s.flag (R.LNK_CTRL w) F.LNK_CTRL.FAST && (s.port w).settings.isSome }) ∧
    (∀ w : PortId, (s.port w).saveDue = true → ∃ u, exec .settingsFlashCopy s = .next u ∧
      (∀ v : PortId, (u.port v).saveDue = false ∧ (u.port v).settings = (s.port v).settings ∧
        ((s.port v).saveDue = true → (s.port v).settings.isSome = true → SMap.look u.flash.links v = (s.port v).settings) ∧
        ((s.port v).saveDue = false → SMap.look u.flash.links v = SMap.look s.flash.links v)) ∧
      u.outbox = s.outbox ++ [.flash 1] ∧ u.regs = s.regs) ∧
    (∀ (e : Fin 2) (temp : BitVec 8), s.fuses.ridges ≠ 0 → ∃ u, exec (.optThermal e temp) s = .next u ∧
      u.clamp.optDown.getLsbD e = decide (85 ≤ temp.toNat) ∧
      u.clamp.optHot.getLsbD e = (decide (80 ≤ temp.toNat) || (s.clamp.optHot.getLsbD e && decide (77 ≤ temp.toNat))) ∧
      (90 ≤ temp.toNat → s.pins.aon = true → u.pins.trip = true) ∧
      (85 ≤ temp.toNat → ∀ k, k < 4 → s.portPresent (24 + 4 * e.val + k) = true → u.portState (24 + 4 * e.val + k) = 0))) ∧
  (∀ (s : State) (w : PortId) (t : Training) (lanes : BitVec 8) (peer : BitVec 17), (s.port w).train = some t → s.mayTrain w = true →
    s.pins.hold = false →
    (s.recov.boot = none → (lanes = 0xFF ∨ lanes.toNat % 16 = 15 ∨ lanes.toNat / 16 = 15) →
      (∀ res : TrainEnd, res = .up ∨ res = .miscabled → w.val < 24 ∨ s.flag R.JNR_CHIP F.JNR_CHIP.VALID = true →
        ∃ u, exec (.portTraining w res lanes peer) s = .next u ∧ u.hbm = s.hbm ∧ (u.port w).train = none ∧
          u.rd (R.LNK_STATUS w) F.LNK_STATUS.LANES = lanes.toNat ∧
          u.portState w = (if s.idOk w peer then (if lanes = 0xFF then 3 else 4) else 5) ∧
          (s.idOk w peer = true → (u.port w).saveDue = true ∧ u.flag (R.LNK_STATUS w) F.LNK_STATUS.SAVED_VALID = true)) ∧
      (24 ≤ w.val → s.flag R.JNR_CHIP F.JNR_CHIP.VALID = false → ∃ u, exec (.portTraining w .idWait lanes peer) s = .next u ∧
        u.portState w = 2 ∧ u.rd (R.LNK_STATUS w) F.LNK_STATUS.LANES = lanes.toNat ∧ u = { s with regs := u.regs })) ∧
    (s.recov.boot = none → s.portState w = 1 →
      (t.bound ≤ (s.time - t.start).toNat → ∃ u, exec (.portTraining w .timeout lanes peer) s = .next u ∧ u.portState w = 0 ∧
        u = { s with regs := u.regs }) ∧
      ((s.time - t.start).toNat < t.bound → exec (.portTraining w .timeout lanes peer) s = .next s)) ∧
    (s.recov.boot = none → ∃ u, exec (.portTraining w .verifyFail lanes peer) s = .next u ∧
      u = { s with ports := u.ports } ∧ (u.port w).train = some { t with fast := false } ∧ (∀ v, v ≠ w.val → u.port v = s.port v)) ∧
    (∀ warm st re, s.recov.boot = some (warm, st, re) → s.cdc = [] → (∀ v, v < 32 → v ≠ w.val → s.portState v ≠ 1) →
      s.portState w = 1 → t.bound ≤ (s.time - t.start).toNat →
      ∃ u, exec (.portTraining w .timeout lanes peer) s = .next u ∧ u.flag R.MGT_BOOT F.MGT_BOOT.READY = true ∧
        u.rd R.MGT_BOOT F.MGT_BOOT.STAGE = 8 ∧ u.flag R.MGT_BOOT F.MGT_BOOT.WARM = warm ∧ u.recov.boot = none ∧
        ∀ r ∈ u.recov.runs, r.level ≠ 4))

/-- Forwarding takes one hop off the current axis: with none left the message is delivered here where it is for this chip, and with
some left it goes on through a ridge port of the next direction, which holds a request until it is acknowledged. A request whose port has
gone down is resent with REPLAY.

The header of a request or a response (Table 74): each field is read back from the 32 bytes that carry it, and so is the class.

Spec: 11_links.md: Paths across the massif; 10_fabric.md: Requests on the wire.
The choices of the model it rests on: log entry 72. -/
def Obligations.LinkForwarding : Prop :=
  (∀ s : State,
    (∀ (w : PortId) (rw : RouteWord) (m : BitVec 256) (ax : Nat), 24 ≤ w.val → s.portUp w = true →
      firstAxis (hopsLeft rw) = some ax → let rw' := oneHopLess rw ax
      let h := hdrOf m
      (firstAxis (hopsLeft rw') = none → h.dst.toNat = s.ownChip → ∃ u, exec (.ridgeForward w rw m) s = .next u ∧
        u = { s with outbox := s.outbox ++ [.deliver m] }) ∧
      (∀ ax' v, firstAxis (hopsLeft rw') = some ax' →
        pickPort (pickAddr m) h.src.toNat h.dst.toNat (s.ridgesOf (dirOf ax' ((hopsLeft rw').getD ax' 0))) = some v →
        ∃ u, exec (.ridgeForward w rw m) s = .next u ∧ u.outbox = s.outbox ++ [.forward v (some rw') m] ∧
          (1 ≤ classOf m → classOf m ≤ 3 → m ∈ (u.port v).stuck))) ∧
    (∀ (q : OutReq) (v : Nat) (rw : Option RouteWord), s.out.find? s.stranded = some q → s.mayReplay q = true → s.retry = [] →
      q.poison = false → s.path (some q.ctx) q.addr s.ownChip q.chip.toNat true = .port v rw →
      ∃ u, exec (.requestReplay q.tag) s = .next u ∧
        u.outbox = s.outbox ++ [.fab q.cls (some v) rw true (s.headerOf q) q.data] ∧
        (∃ r ∈ u.out, r.tag = q.tag ∧ r.replayed = true ∧ r.port = some v) ∧ u.hbm = s.hbm)) ∧
  (∀ (cls : BitVec 4) (h : FabHdr), hdrOf (hdrWord cls h) = h ∧ classOf (hdrWord cls h) = cls.toNat)

/-- The pause table. A first THERMAL_PAUSE of a chip's stack opens an entry that runs for its bound; its PAUSE_END removes the entry
with the same SEQ; an entry whose bound has passed goes. A notice heard before changes nothing.

Witness reports. At the sink a report opens a window of its key or adds to the open one; a window of 10 ms that closes at the sink
is delivered and counted, and is open no more.

Spec: 11_links.md: Notice and witness messages. -/
def Obligations.PausesAndWitnesses : Prop :=
  (∀ (s : State) (w : PortId) (n : Notice), s.portUp w = true →
    ((n.src, n.seq, false) ∉ s.seen → (∀ e ∈ s.pauses, e.src ≠ n.src ∨ e.site ≠ n.site) → s.pauses.length < 1024 →
      ∃ u, exec (.noticeThermalPause w n) s = .next u ∧
        { src := n.src, site := n.site, seq := n.seq, expiry := s.time + BitVec.ofNat 64 (n.bound.toNat * 100000) } ∈ u.pauses ∧
        (n.src, n.seq, false) ∈ u.seen ∧ (∀ e ∈ s.pauses, s.time.toNat < e.expiry.toNat → e ∈ u.pauses) ∧ u.hbm = s.hbm) ∧
    ((n.src, n.seq, false) ∈ s.seen → exec (.noticeThermalPause w n) s = .next s) ∧
    ((n.src, n.seq, true) ∉ s.seen → ∃ u, exec (.noticePauseEnd w n) s = .next u ∧
      (∀ e ∈ u.pauses, e ∈ s.pauses ∧ ¬ (e.src = n.src ∧ e.site = n.site ∧ e.seq = n.seq)) ∧
      (∀ e ∈ s.pauses, s.time.toNat < e.expiry.toNat → ¬ (e.src = n.src ∧ e.site = n.site ∧ e.seq = n.seq) → e ∈ u.pauses) ∧
      u.rd R.LNK_PAUSE F.LNK_PAUSE.ENTRIES = u.pauses.length % 2 ^ F.LNK_PAUSE.ENTRIES.n) ∧
    ((n.src, n.seq, true) ∈ s.seen → exec (.noticePauseEnd w n) s = .next s) ∧
    (∀ (src : BitVec 17) (site : BitVec 3), ∃ u, exec (.pauseEntryExpire src site) s = .next u ∧
      u = { s with regs := u.regs, pauses := u.pauses } ∧
      (∀ e, e ∈ u.pauses ↔ e ∈ s.pauses ∧ ¬ (e.src = src ∧ e.site = site ∧ e.expiry.toNat ≤ s.time.toNat)) ∧
      u.rd R.LNK_PAUSE F.LNK_PAUSE.ENTRIES = u.pauses.length % 2 ^ F.LNK_PAUSE.ENTRIES.n)) ∧
  (∀ s : State,
    (∀ m : Witness, m.dst.toNat = s.ownChip →
      ((∀ w ∈ s.wits, w.own = true ∨ w.key ≠ m.key) → exec (.witnessReceive m) s = .next { s with wits := s.wits ++
        [{ key := m.key, src := m.src, firstTs := m.firstTs, count := m.count.toNat, opened := s.time, own := false }] }) ∧
      (∀ w ∈ s.wits, w.own = false → w.key = m.key → ∃ u, exec (.witnessReceive m) s = .next u ∧ u = { s with wits := u.wits } ∧
        { w with count := min (w.count + m.count.toNat) 0xFFFFFF } ∈ u.wits ∧ u.wits.length = s.wits.length)) ∧
    (∀ (key : WitKey) (w : WitWin),
      s.wits.find? (fun y => y.key == key && decide (1000000 ≤ (s.time - y.opened).toNat)) = some w →
      (∀ y ∈ s.wits, y ≠ w → y.own = w.own → y.key ≠ w.key) →
      ∃ u, exec (.witnessWindowClose key) s = .next u ∧ w ∉ u.wits ∧ u.hbm = s.hbm ∧
        (w.own = false → u.rd R.LNK_WITNESS F.LNK_WITNESS.DELIVERED =
          (s.rd R.LNK_WITNESS F.LNK_WITNESS.DELIVERED + 1) % 2 ^ F.LNK_WITNESS.DELIVERED.n)))

/-- The clamp's rules. Over the power limit the clocks fall by 25 MHz and at or below it they get 25 MHz back; over the current limit
a die's clock falls by 100 MHz; a die at 100 °C is hot until below 97 °C. A running die's clock never stands above what the
rules allow after any of them.

The set-point handshake. An acknowledgement with the current SEQ closes the request, shows the applied set points, and lets a die's
clock rise to the one asked for once its sense reads 99% of the set point; a request without one is late after 1 ms, which is
counted, and is posted again with a new SEQ after 10 ms.

Spec: 17_bringup.md: The clamp; 01_package.md: Thermal limits.
The choices of the model it rests on: log entries 42, 56. -/
def Obligations.ClampCommands : Prop :=
  (∀ (s : State) (d : DieId),
    let most := s.rd R.CHIP_CAP_LIMITS F.CHIP_CAP_LIMITS.CLK_CAP_MHZ - s.clockFloor
    let held := fun (u : State) => ∀ e : DieId, s.flag (R.DIE_STATUS e) F.DIE_STATUS.CORE_PLL_LOCK = true →
      u.clock e = min (s.clock e) (u.clockTarget e)
    (∀ watts : BitVec 11, (∀ t, s.clamp.powStep = some t → 10000 ≤ (s.time - t).toNat) →
      ∃ u, exec (.clampPowerStep watts) s = .next u ∧ held u ∧
        u.clamp.powMhz = (if s.powerCap < watts.toNat then min most (s.clamp.powMhz + 25) else s.clamp.powMhz - 25) ∧
        u.rd R.CLP_STATUS F.CLP_STATUS.PKG_POWER_W = watts.toNat % 2 ^ F.CLP_STATUS.PKG_POWER_W.n) ∧
    (∀ amps : BitVec 10, ∃ u, exec (.clampCurrentLimit d amps) s = .next u ∧ held u ∧
      (u.dieClamp d).current = decide (s.rd R.CLP_LIMITS F.CLP_LIMITS.CORE_I_MAX_A < amps.toNat) ∧
      (u.dieClamp d).curMhz = (if s.rd R.CLP_LIMITS F.CLP_LIMITS.CORE_I_MAX_A < amps.toNat
        then min most ((s.dieClamp d).curMhz + 100) else 0)) ∧
    (∀ temp : BitVec 8, ∃ u, exec (.clampDieThermal d temp) s = .next u ∧ held u ∧
      (u.dieClamp d).hot = (decide (100 ≤ temp.toNat) || ((s.dieClamp d).hot && decide (97 ≤ temp.toNat))) ∧
      (100 ≤ temp.toNat → (s.dieClamp d).hot = false → (u.dieClamp d).heatMhz = min most ((s.dieClamp d).heatMhz + 50))) ∧
    (∀ high : Bool, (s.dieClamp d).alarm = false → ∃ u, exec (.voltageAlarm d high) s = .next u ∧ held u ∧
      (u.dieClamp d).alarm = true ∧ u.flag R.CLP_STATUS F.CLP_STATUS.VOLTAGE = true ∧
      (∀ f, f = (if high then F.CLP_COUNT.OV_EVENTS else F.CLP_COUNT.UV_EVENTS) →
        u.rd R.CLP_COUNT f = min (s.rd R.CLP_COUNT f + 1) (2 ^ f.n - 1))) ∧
    ((s.dieClamp d).alarm = true → ∃ u, exec (.voltageAlarmClear d) s = .next u ∧ held u ∧ (u.dieClamp d).alarm = false)) ∧
  (∀ s : State,
    (∀ mvN mvS senseN senseS : BitVec 10, ∃ u, exec (.vidAck (0x30 + s.pins.mgtAddr.setWidth 7) s.clamp.vidSeq mvN mvS senseN senseS) s = .next u ∧
      u.clamp.vidOpen = none ∧ u.clamp.vidLate = false ∧
      u.rd R.CLP_STATUS F.CLP_STATUS.VDD_N_MV = mvN.toNat % 2 ^ F.CLP_STATUS.VDD_N_MV.n ∧
      u.rd R.CLP_STATUS F.CLP_STATUS.VDD_S_MV = mvS.toNat % 2 ^ F.CLP_STATUS.VDD_S_MV.n ∧
      ∀ d : DieId, u.clock d =
        (if s.flag (R.DIE_STATUS d) F.DIE_STATUS.CORE_PLL_LOCK = true ∧ s.clock d < (s.dieClamp d).want ∧
            99 * (s.dieClamp d).mv ≤ 100 * (if d = 0 then senseN else senseS).toNat
          then (s.dieClamp d).want % 2 ^ F.CLP_STATUS.CLK_N_MHZ.n else s.clock d)) ∧
    (∀ (addr : BitVec 7) (seq : BitVec 4) (a b c d : BitVec 10), seq ≠ s.clamp.vidSeq ∨ addr.toNat ≠ 0x30 + s.pins.mgtAddr.toNat →
      exec (.vidAck addr seq a b c d) s = .next s) ∧
    (∀ t, s.clamp.vidOpen = some t →
      (s.clamp.vidLate = false → 100000 ≤ (s.time - t).toNat → ∃ u, exec .vidTimeout s = .next u ∧ u.clamp.vidLate = true ∧
        u.rd R.CLP_COUNT F.CLP_COUNT.VID_TIMEOUTS =
          min (s.rd R.CLP_COUNT F.CLP_COUNT.VID_TIMEOUTS + 1) (2 ^ F.CLP_COUNT.VID_TIMEOUTS.n - 1)) ∧
      (s.clamp.vidLate = true → 1000000 ≤ (s.time - t).toNat → ∃ u, exec .vidTimeout s = .next u ∧
        u.clamp.vidSeq = s.clamp.vidSeq + 1 ∧ u.clamp.vidOpen = some s.time ∧ u.clamp.vidLate = false ∧
        u.outbox = s.outbox ++ [.ibi])))

/-- Reads and writes that reach a plinth. A STOPPED stack refuses a read. A read of a tile that is sound or UNWRITTEN returns its bytes
and state, with nothing changed but the count of UNWRITTEN reads; of a POISON tile, poisoned data; corrected sectors are counted on the
channel that serves the address. A speculative read returns the same bytes, or is dropped where it meets poison. A whole-tile write
stores the bytes with the writer's seal and state and frees the tile's ECC faults; a partial write opens a write-combining entry and
leaves the stored tile alone.

Write combining. An entry 16 µs old begins its merge; the merge lays its bytes over a sound tile and seals it, and the entry is
gone. A SPEC request that has waited 8 µs is dropped and counted; the run-ahead that made it learns of it.

Spec: 09_memory.md: Tiles, seals and state in HBM; 09_memory.md: Write combining; 09_memory.md: Priority classes.
The choices of the model it rests on: log entry 65. -/
def Obligations.PlinthRequestsAndMerges : Prop :=
  (∀ (s : State) (addr : BitVec 40) (site ch o : Nat), let a := addr.toNat
    let i := a / 2048
    s.place a = some (site, ch, o) →
    (s.stopped (s.siteOf i) = true → ∀ len spec ce, exec (.hbmRead addr len spec ce false) s = .next (s.emit (.refused a))) ∧
    (s.stopped (s.siteOf i) = false → s.tileHeld i = false →
      (∀ len : BitVec 12, 0 < len.toNat → a % 2048 + len.toNat ≤ 2048 → s.wcbEntry i = none →
        let d := Memory.read s.hbm.bytes a len.toNat
        let n := R.PLN_COUNT (s.siteOf i)
        (s.tileSound i → (∃ u, exec (.hbmRead addr len false 0 false) s = .next u ∧
            u.outbox = s.outbox ++ [.plinthData a d (s.hbm.info i) false] ∧ u.hbm = s.hbm ∧ u.cores = s.cores ∧
            ((s.hbm.info i).st = .sealed → u.regs = s.regs)) ∧
          ((s.hbm.info i).st = .sealed →
            exec (.hbmRead addr len true 0 false) s = .next (s.emit (.plinthData a d (s.hbm.info i) false))) ∧
          (∀ ce site' c, s.served a = some (site', c) → s.rd (R.PLN_STATUS site') F.PLN_STATUS.REPAIR_STATE = 0 →
            ∃ u, exec (.hbmRead addr len false ce false) s = .next u ∧
              u.outbox = s.outbox ++ [.plinthData a d (s.hbm.info i) false] ∧ u.hbm = s.hbm ∧
              u.rd (R.PLN_CHAN_ERR site' c) F.PLN_CHAN_ERR.CE =
                min (s.rd (R.PLN_CHAN_ERR site' c) F.PLN_CHAN_ERR.CE + ce.toNat) (2 ^ F.PLN_CHAN_ERR.CE.n - 1))) ∧
        ((s.hbm.info i).st = .unwritten → ∃ u, exec (.hbmRead addr len false 0 false) s = .next u ∧
          u.outbox = s.outbox ++ [.plinthData a d (s.hbm.info i) false] ∧ u.hbm = s.hbm ∧
          u.rd n F.PLN_COUNT.UNINIT_READS = min (s.rd n F.PLN_COUNT.UNINIT_READS + 1) (2 ^ F.PLN_COUNT.UNINIT_READS.n - 1)) ∧
        ((s.hbm.info i).st = .poison → s.badSectors i = [] → (∃ u, exec (.hbmRead addr len false 0 false) s = .next u ∧
            u.outbox = s.outbox ++ [.plinthData a d (s.hbm.info i) true] ∧ u.hbm = s.hbm ∧ u.regs = s.regs) ∧
          ∃ u, exec (.hbmRead addr len true 0 false) s = .next u ∧ u.outbox = s.outbox ++ [.specDrop a] ∧ u.hbm = s.hbm ∧
            u.rd n F.PLN_COUNT.SPEC_DROPS = (s.rd n F.PLN_COUNT.SPEC_DROPS + 1) % 2 ^ F.PLN_COUNT.SPEC_DROPS.n)) ∧
      (∀ data sl st, a % 2048 = 0 → data.length = 2048 → st ≠ .unwritten → s.heldLines a 2048 = [] → s.pagePending a = false →
        ∃ u, exec (.hbmWriteWhole addr data sl st) s = .next u ∧ u.hbm.info i = { sl := sl, st := st } ∧
          (∀ k, k < 2048 → Memory.byte u.hbm.bytes (a + k) = data.getD k 0) ∧
          (∀ b, b < a ∨ a + 2048 ≤ b → Memory.byte u.hbm.bytes b = Memory.byte s.hbm.bytes b) ∧
          (∀ k, k ≠ i → u.hbm.info k = s.hbm.info k) ∧ (∀ x ∈ u.ue, x / 32 ≠ i) ∧ u.wcbEntry i = none ∧ u.cores = s.cores) ∧
      (∀ data po, 0 < data.length → data.length < 2048 → a % 2048 + data.length ≤ 2048 → s.heldLines a data.length = [] →
        s.pagePending a = false → s.wcbEntry i = none → (s.plinth (s.siteOf i)).wcb.length < 1024 →
        ∃ u e, exec (.hbmWritePartial addr data po) s = .next u ∧ u.hbm = s.hbm ∧ u.wcbEntry i = some e ∧
          (u.plinth (s.siteOf i)).wcb.getLast? = some e ∧ e.tile = i ∧ e.poison = po ∧ e.born = s.time ∧
          (∀ k, k < data.length → SMap.look e.bytes (a % 2048 + k) = data[k]?) ∧ u.cores = s.cores))) ∧
  (∀ (s : State) (site : SiteId), let k := s.plinth site
    (∀ (tile : BitVec 29) (e : WcbEntry), let i := tile.toNat
      s.siteOf i = site.val → s.tileBlocked i = false →
      (k.wcb.find? (fun x => x.tile == i) = some e → i ∉ k.merging → 1600 ≤ (s.time - e.born).toNat →
        ∃ u, exec (.wcbMergeAge site tile) s = .next u ∧ u.plinth site = { k with merging := k.merging ++ [i] } ∧
          (∀ q, q ≠ site.val → u.plinth q = s.plinth q) ∧ u.hbm = s.hbm ∧ u.regs = s.regs ∧ u.cores = s.cores) ∧
      (s.wcbEntry i = some e → i ∈ k.merging → s.tileSound i → e.poison = false → s.quiet →
        ∃ u, exec (.wcbMergeDone site tile false) s = .next u ∧ u.wcbEntry i = none ∧ u.hbm.info i = sealedMeta (u.hbm.data i) ∧
          u.rd (R.PLN_COUNT site) F.PLN_COUNT.WCB_MERGE =
            (s.rd (R.PLN_COUNT site) F.PLN_COUNT.WCB_MERGE + 1) % 2 ^ F.PLN_COUNT.WCB_MERGE.n ∧
          (∀ k, k < 2048 → Memory.byte u.hbm.bytes (2048 * i + k) =
            (SMap.look e.bytes k).getD (Memory.byte s.hbm.bytes (2048 * i + k))) ∧
          (∀ b, b < 2048 * i ∨ 2048 * i + 2048 ≤ b → Memory.byte u.hbm.bytes b = Memory.byte s.hbm.bytes b))) ∧
    (∀ x l, k.specs = x :: l → 800 ≤ (s.time - x.since).toNat → ∃ u, exec (.specRequestDrop site) s = .next u ∧
      (u.plinth site).specs = l ∧ u.hbm = s.hbm ∧ u.rd (R.PLN_COUNT site) F.PLN_COUNT.SPEC_DROPS =
        (s.rd (R.PLN_COUNT site) F.PLN_COUNT.SPEC_DROPS + 1) % 2 ^ F.PLN_COUNT.SPEC_DROPS.n ∧
      (x.core = none → u.outbox = s.outbox ++ [.specDrop x.addr]) ∧
      (∀ p w, x.core = some p → (s.core p).ahead = some w → (u.core p).ahead = some { w with dropped := true })))

/-- Retraining. A period of 600 s or a host's command queues a channel; the hut core takes the front of the queue and holds the
channel; a confirmation within 39 µs notes time and temperature and releases it; a hold without one releases it, queues the
channel again, and the second time in a row requests its repair.

Repair. A request for a stack without one starts the migration of its channel at granule 0; each granule moved raises the
watermark, one with an uncorrectable sector leaves its tiles POISON, and the last one, 12,189,695, ends the migration with the channel out of service; the hut core saves the state.

Spec: 09_memory.md: Retraining through the hold shelf; 09_memory.md: Live channel repair.
The choices of the model it rests on: log entry 57. -/
def Obligations.RetrainingAndRepair : Prop :=
  (∀ (s : State) (site : SiteId) (ch : ChanId), let k := s.plinth site
    let st := R.PLN_STATUS site
    (s.stackPresent site = true → ∃ u, exec (.plnCmdRetrain site ch) s = .next u ∧ ch.val ∈ (u.plinth site).queue ∧
      u.rd (R.PLN_CMD site) F.PLN_CMD.CH = ch.val ∧ u.hbm = s.hbm) ∧
    (s.stackPresent site = true →
      60000000000 ≤ (s.time - (match (k.chan ch).trained with | some (t, _) => t | none => k.trained)).toNat →
      ∃ u, exec (.retrainPeriodic site ch) s = .next u ∧ ch.val ∈ (u.plinth site).queue ∧ u.regs = s.regs ∧ u.hbm = s.hbm) ∧
    (∀ c l, c < 32 → k.queue = c :: l → k.hold = none → s.stopped site = false → s.hutRuns (site / 4) = true →
      ∃ u, exec (.retrainStart site) s = .next u ∧ (u.plinth site).hold = some (c, s.time) ∧ (u.plinth site).queue = l ∧
        u.flag st F.PLN_STATUS.RETRAINING = true ∧ u.rd st F.PLN_STATUS.RETRAIN_CH = c ∧ u.hbm = s.hbm) ∧
    (∀ c t, c < 32 → k.hold = some (c, t) → k.parked = [] → s.quiet →
      ((s.time - t).toNat < 3900 → s.hutRuns (site / 4) = true → ∃ u, exec (.retrainConfirm site) s = .next u ∧
        (u.plinth site).hold = none ∧ u.flag st F.PLN_STATUS.RETRAINING = false ∧
        u.rd (R.PLN_CHAN_ERR site c) F.PLN_CHAN_ERR.LAST_TRAIN = 1 ∧ ((u.plinth site).chan c).fails = 0 ∧
        ((u.plinth site).chan c).trained = some (s.time, s.rd st F.PLN_STATUS.TEMP) ∧ u.hbm = s.hbm) ∧
      (3900 ≤ (s.time - t).toNat → ∃ u, exec (.retrainHoldTimeout site) s = .next u ∧ (u.plinth site).hold = none ∧
        u.flag st F.PLN_STATUS.RETRAINING = false ∧ u.rd (R.PLN_CHAN_ERR site c) F.PLN_CHAN_ERR.LAST_TRAIN = 2 ∧
        c ∈ (u.plinth site).queue ∧ ((k.chan c).fails = 0 → ((u.plinth site).chan c).fails = 1) ∧
        ((k.chan c).fails = 1 → s.rd st F.PLN_STATUS.REPAIR_STATE = 0 → u.rd st F.PLN_STATUS.REPAIR_STATE = 1 ∧
          u.rd st F.PLN_STATUS.REPAIR_CH = c)))) ∧
  (∀ (s : State) (site : SiteId) (ch : ChanId), let st := R.PLN_STATUS site
    let mark := fun (x : State) => x.rd (R.PLN_REPAIR site) F.PLN_REPAIR.WATERMARK
    (s.stackPresent site = true → s.rd st F.PLN_STATUS.REPAIR_STATE = 0 → ∃ u, exec (.plnCmdRepair site ch) s = .next u ∧
      u.rd st F.PLN_STATUS.REPAIR_STATE = 1 ∧ u.rd st F.PLN_STATUS.REPAIR_CH = ch.val ∧ mark u = 0 ∧ u.hbm = s.hbm) ∧
    (s.rd st F.PLN_STATUS.REPAIR_STATE = 1 → (s.plinth site).hold = none → s.rd st F.PLN_STATUS.THERM_STATE < 2 →
      let f := s.rd st F.PLN_STATUS.REPAIR_CH
      (mark s < 12189695 → s.granuleUe site f (mark s) = [] →
        ∃ u, exec (.repairMigrateGranule site false) s = .next u ∧ mark u = mark s + 1 ∧
          u.rd st F.PLN_STATUS.REPAIR_STATE = 1 ∧ u.hbm = s.hbm) ∧
      (mark s < 12189695 → ∀ ue, (ue = true ∨ s.granuleUe site f (mark s) ≠ []) →
        ∃ u, exec (.repairMigrateGranule site ue) s = .next u ∧ mark u = mark s + 1 ∧
          ∀ i ∈ s.granuleTiles site f (mark s), (u.hbm.info i).st = .poison) ∧
      (mark s = 12189695 → s.granuleUe site f (mark s) = [] → ∃ u, exec (.repairMigrateGranule site false) s = .next u ∧
        u.rd st F.PLN_STATUS.REPAIR_STATE = 2 ∧ u.hbm = s.hbm ∧
        u.flag (R.PLN_CHAN_ERR site (s.rd st F.PLN_STATUS.REPAIR_CH)) F.PLN_CHAN_ERR.IN_SERVICE = false)) ∧
    (s.rd st F.PLN_STATUS.REPAIR_STATE = 1 → s.hutRuns (site / 4) = true → ∃ u, exec (.repairStateSave site) s = .next u ∧
      SMap.look u.flash.repair site = some (1, BitVec.ofNat 5 (s.rd st F.PLN_STATUS.REPAIR_CH),
        s.flag st F.PLN_STATUS.EXHAUSTED, BitVec.ofNat 24 (mark s)) ∧ u.outbox = s.outbox ++ [.flash 1] ∧ u.regs = s.regs))

/-- The thermal state of a present stack follows its hottest reading (Table 71), with 3 K below 95, 97 and 5 K below 110 to fall
again; from 115 °C on THERM_TRIP_N asserts; a STOPPED stack announces its pause once for each route of a live context.

Spec: 09_memory.md: Refresh and thermal states; 95_what_each_step_holds.md: STACK_THERMAL_EVAL (R213).
The choices of the model it rests on: log entry 57. -/
def Obligations.StackThermal : Prop :=
  ∀ (s : State) (site : SiteId), let st := R.PLN_STATUS site
    let cur := s.rd st F.PLN_STATUS.THERM_STATE
    (∀ temp : BitVec 8, s.stackPresent site = true → (cur = 3 → s.quiet ∧ (s.plinth site).parked = [] ∧ (s.plinth site).notices = []) →
      let t := temp.toNat
      ∃ u, exec (.stackThermalEval site temp) s = .next u ∧ u.rd st F.PLN_STATUS.TEMP = t ∧ u.hbm = s.hbm ∧
        (115 ≤ t → s.pins.aon = true → u.pins.trip = true) ∧
        (110 ≤ t → u.rd st F.PLN_STATUS.THERM_STATE = 3) ∧
        (105 ≤ t → t < 110 → u.rd st F.PLN_STATUS.THERM_STATE = (if cur = 3 then 3 else 2)) ∧
        (100 ≤ t → t < 105 → u.rd st F.PLN_STATUS.THERM_STATE = 2) ∧
        (97 ≤ t → t < 100 → u.rd st F.PLN_STATUS.THERM_STATE = (if 2 ≤ cur then 2 else 1)) ∧
        (95 ≤ t → t < 97 → u.rd st F.PLN_STATUS.THERM_STATE = (if cur = 3 then 2 else 1)) ∧
        (92 ≤ t → t < 95 → cur ≠ 3 → u.rd st F.PLN_STATUS.THERM_STATE = (if 1 ≤ cur then 1 else 0)) ∧
        (t < 92 → cur ≠ 3 → u.rd st F.PLN_STATUS.THERM_STATE = 0)) ∧
    (s.stopped site = true → (s.plinth site).notices = [] → (s.plinth site).stoppedAt ≠ none →
      ∃ u, exec (.thermalPauseSend site) s = .next u ∧ (u.plinth site).notices.map Prod.snd = s.liveRoutes ∧
        u.noticeSeq = s.noticeSeq + BitVec.ofNat 16 s.liveRoutes.length ∧ u.hbm = s.hbm ∧
        u.rd R.LNK_PAUSE F.LNK_PAUSE.SENT =
          (s.rd R.LNK_PAUSE F.LNK_PAUSE.SENT + s.liveRoutes.length) % 2 ^ F.LNK_PAUSE.SENT.n)

/-- Jig runs. A run that may start on the chosen core shows in JIG_STATUS and on the core: one that has to be woken waits for its wake,
and the pattern begins with it; one in WAIT_IDLE begins at once, its second register holding the variant. A pattern that has halted and
drained passes where its output region, sound and unpoisoned, has the expected signature, nothing failed, and residue failures
match what the pattern injects; one that raised a context error, and a pattern past its time, fail and fence the core. Each completed run
is counted.

Jig scheduling and health. A commanded core is targeted; a core whose last run is too old is overdue; the 24 h window of a SUSPECT
core that saw no second failure ends in HEALTHY; package and fence list are copied to flash once they have changed.

Spec: 14_integrity.md: Jigs; 14_integrity.md: Fencing a core.
The choices of the model it rests on: log entries 31, 62, 94. -/
def Obligations.JigCommands : Prop :=
  (∀ (s : State) (p : CoreId), let r := R.JIG_CORE_STATUS p
    let past := ∀ i, 0x3100 ≤ i → s.spdState p i = .unwritten
    let ended := fun (u : State) (res : Nat) => (u.core p).jig = none ∧ u.rd r F.JIG_CORE_STATUS.LAST_RESULT = res ∧
      u.rd r F.JIG_CORE_STATUS.TARGETED = 0 ∧
      u.rd r F.JIG_CORE_STATUS.RUNS = (s.rd r F.JIG_CORE_STATUS.RUNS + 1) % 2 ^ F.JIG_CORE_STATUS.RUNS.n ∧ u.hbm = s.hbm
    (∀ v : BitVec 4, s.jigMayStart = true → s.jigChosen p = true → s.isFenced p = false → v.toNat < s.jigVariants →
      (s.coreState p = csGated → ∃ u run, exec (.jigRunStart p v) s = .next u ∧ (u.core p).jig = some run ∧ run.start = s.time ∧
        run.variant = v.toNat ∧ run.began = none ∧ u.coreState p = csWaking ∧ u.rd R.JIG_STATUS F.JIG_STATUS.STATE = 1 ∧
        u.rd R.JIG_STATUS F.JIG_STATUS.CORE = p.val ∧ u.hbm = s.hbm) ∧
      (s.coreState p = csWaitIdle → past → ∃ u run, exec (.jigRunStart p v) s = .next u ∧ (u.core p).jig = some run ∧
        run.start = s.time ∧ run.variant = v.toNat ∧ run.began = some s.time ∧ u.sreg p 2 = BitVec.ofNat 64 v.toNat ∧
        u.rd R.JIG_STATUS F.JIG_STATUS.STATE = 1 ∧ u.rd R.JIG_STATUS F.JIG_STATUS.CORE = p.val ∧ u.hbm = s.hbm)) ∧
    (∀ run, (s.core p).jig = some run → run.gated = true → s.clamp.waking.contains p.val = true → s.coreState p = csWaking →
      (∀ kc ∈ s.ctxs, kc.2.phase ≠ .loading) → past → ∃ u x, exec (.coreWake p) s = .next u ∧ (u.core p).jig = some x ∧
        x.began = some s.time ∧ x.start = run.start ∧ u.sreg p 2 = BitVec.ofNat 64 run.variant ∧ u.hbm = s.hbm) ∧
    (∀ run t, (s.core p).jig = some run → run.began = some t → run.unfence = false →
      (∀ x, x = s.runPat run → run.ctxErr = false → run.halted = true → s.drained p jigCtx = true →
        s.sealsHold p (benchWork + x.out) x.outN → s.noPoison p (benchWork + x.out) x.outN → run.bench = false →
        (run.gated = true ∨ s.benchBad p = false) → run.parity = 0 → run.cubes = (if run.inject = 1 then 1 else 0) →
        run.vecs = (if run.inject = 2 then 1 else 0) →
        crc64 0 (Memory.read (s.core p).spd.bytes (benchWork + x.out) x.outN) =
          leNat (s.pkgBytes false (x.exp + 8 * run.variant) 8) →
        ∃ u, exec (.jigRunEnd p) s = .next u ∧ ended u 1 ∧ u.isFenced p = s.isFenced p) ∧
      (run.ctxErr = true → ∃ u, exec (.jigRunEnd p) s = .next u ∧ ended u 2 ∧ u.isFenced p = true) ∧
      (40000 < (s.time - t).toNat → ∃ u, exec (.jigTimeout p) s = .next u ∧ ended u 3 ∧ u.isFenced p = true))) ∧
  (∀ (s : State) (p : CoreId), let r := R.JIG_CORE_STATUS p
    (s.corePresent p = true → s.isFenced p = false → ∃ u, exec (.jigCmdRun p) s = .next u ∧
      u.rd r F.JIG_CORE_STATUS.TARGETED = 1 ∧ u.rd R.JIG_CMD F.JIG_CMD.CORE = p.val ∧ u = { s with regs := u.regs }) ∧
    (s.corePresent p = true → s.lastRun p + s.jigPeriod < s.time.toNat →
      ∃ u, exec (.jigOverdue p) s = .next u ∧ u.flag r F.JIG_CORE_STATUS.OVERDUE = true ∧ u = { s with regs := u.regs }) ∧
    (s.rd r F.JIG_CORE_STATUS.HEALTH = 1 → s.inWindow p = false →
      s.rd r F.JIG_CORE_STATUS.RESIDUE_24H + s.rd r F.JIG_CORE_STATUS.STORE_24H ≤ 1 →
      ∃ u, exec (.healthWindowExpire p) s = .next u ∧ u.rd r F.JIG_CORE_STATUS.HEALTH = 0 ∧
        u.rd r F.JIG_CORE_STATUS.RESIDUE_24H = 0 ∧ u.rd r F.JIG_CORE_STATUS.STORE_24H = 0 ∧ u = { s with regs := u.regs }) ∧
    (s.jig.flashDue = true → ∃ u, exec .jigPkgFlash s = .next u ∧ u.flash.pkg = some s.jig.store ∧ u.jig.flashDue = false ∧
      u.flag R.JIG_PKG_INFO F.JIG_PKG_INFO.FLASHED = true) ∧
    (s.jig.fenceDue = true → ∃ u, exec .fenceListFlash s = .next u ∧ u.jig.fenceDue = false ∧
      (∀ q : CoreId, u.flash.fenced.getLsbD q = s.isFenced q)))

/-- SPARE_SUBSTITUTE gives the number of the core fenced first on its die to the lowest qualifying free spare, targets a spare that does
not qualify, or leaves the number vacant where no spare is free. JIG_INSTALL of a package that passes its checks installs it at
its epoch and owes it to flash, or puts the fenced cores that an UNFENCE package names under test; one that fails is answered with
BAD_ARG and changes no package.

Spec: 14_integrity.md: Fencing a core; 14_integrity.md: Jigs.
The choices of the model it rests on: log entries 3, 11, 62. -/
def Obligations.SparesAndPackages : Prop :=
  ∀ s : State,
    (∀ (p : CoreId) (n : Nat) (t : Word), s.nextAwaiting (p.val / 52) = some (p, n, t) → s.coreState p ≠ csFencing →
      (∀ x, (s.freeSpares (p.val / 52)).find? s.qualifies = some x → ∃ u, exec (.spareSubstitute p) s = .next u ∧
        u.physOf n = some (Fin.ofNat 104 x) ∧ u.flag (R.CORE_PHYS x) F.CORE_PHYS.SPARE_IN_USE = true ∧
        (∀ e ∈ u.jig.awaiting, e.1 ≠ p) ∧ u.cores = s.cores) ∧
      (∀ x l, s.freeSpares (p.val / 52) = x :: l → (s.freeSpares (p.val / 52)).find? s.qualifies = none →
        ∃ u, exec (.spareSubstitute p) s = .next u ∧ u.rd (R.JIG_CORE_STATUS x) F.JIG_CORE_STATUS.TARGETED = 1 ∧
          u = { s with regs := u.regs }) ∧
      (s.freeSpares (p.val / 52) = [] → ∃ u, exec (.spareSubstitute p) s = .next u ∧ u.physOf n = none ∧
        (∀ m, m ≠ n → u.physOf m = s.physOf m) ∧ u.cores = s.cores)) ∧
    (∀ (ch : MbxId) (pkg : List Byte), s.asks ch 0x220 12 → s.mlogFull = false →
      let k := slice pkg 0 (s.payload ch 8 4)
      let fails := s.pkgFails k (s.payload ch 8 4)
      (fails = 0 → leAt k 6 2 % 2 = 0 → ∃ u, exec (.jigInstall ch pkg) s = .next u ∧ s.answers u ch 0 ∧ u.jig.store = k ∧
        u.jig.inject = (patTable k).map JigPat.inject ∧ u.jig.flashDue = true ∧ u.rd R.JIG_PKG F.JIG_PKG.EPOCH = leAt k 8 4 ∧
        u.flag R.JIG_PKG_INFO F.JIG_PKG_INFO.FLASHED = false) ∧
      (fails = 0 → leAt k 6 2 % 2 = 1 → ∃ u, exec (.jigInstall ch pkg) s = .next u ∧ s.answers u ch 0 ∧ u.jig.unf = k ∧
        u.jig.store = s.jig.store ∧ u.rd R.JIG_PKG F.JIG_PKG.UNF_EPOCH = leAt k 8 4 ∧
        (∀ p : CoreId, (leAt k 0x18 16).testBit p = true → s.isFenced p = true →
          (u.core p).unfenceLeft = upto (leAt k 0x12 2) ∧ u.rd (R.JIG_CORE_STATUS p) F.JIG_CORE_STATUS.HEALTH = 3)) ∧
      (fails ≠ 0 → ∃ u, exec (.jigInstall ch pkg) s = .next u ∧ s.answers u ch msArg ∧ u.jig = s.jig ∧ u.flash = s.flash))

/-- REGISTER_WRITE to a register of always-live RW fields gives those fields the written bits and changes no other register; an access of
a wrong size and one at an unmapped offset are counted and change nothing else. Setting GO of an idle channel makes it BUSY.

Spec: 18_registers.md: Access rules; 18_registers.md: The BAR0 map; 13_host.md: Mailboxes.
The choices of the model it rests on: log entries 8, 9. -/
def Obligations.RegisterWrites : Prop :=
  ∀ (s : State) (off : BitVec 28), let a := off.toNat
    (∀ (r : RegRow) (v : BitVec 64), a % 8 = 0 → regRow a = some r → r.static = 0 → r.boundary = 0 → r.wo = 0 → r.w1c = 0 →
      a ≠ R.MGT_CDC → a ≠ R.MBX_EVT → a ≠ R.CLP_CTRL → a < 0x0B000000 → (a < 0x71000 ∨ 0x7D000 ≤ a) →
      (a < R.ERR_LOG_ACK 0 ∨ R.ERR_LOG_ACK 21 ≤ a) → (a < 0x04000000 ∨ 0x08000000 ≤ a) → (a < 0x09000000 ∨ 0x09200000 ≤ a) →
      s.absentWindow a = false → s.offStopped a = false → s.inReset = false →
      ∃ u, exec (.registerWrite off 8 v) s = .next u ∧ u = { s with regs := u.regs } ∧
        u.word a = BitVec.ofNat 64 (under (s.word a).toNat v.toNat r.rw) ∧ (∀ b, b ≠ a → u.word b = s.word b)) ∧
    (∀ (w : BitVec 4) (v : BitVec 64), w.toNat ≠ 4 → w.toNat ≠ 8 → a < 0x78000 → ∃ u, exec (.registerWrite off w v) s = .next u ∧
      u = { s with regs := u.regs } ∧ (∀ b, b ≠ R.CHIP_BAR_ERR → u.word b = s.word b) ∧
      u.rd R.CHIP_BAR_ERR F.CHIP_BAR_ERR.SIZE_DROPS =
        min (s.rd R.CHIP_BAR_ERR F.CHIP_BAR_ERR.SIZE_DROPS + 1) (2 ^ F.CHIP_BAR_ERR.SIZE_DROPS.n - 1)) ∧
    (∀ v : BitVec 64, a % 8 = 0 → a < 0x78000 → regRow a = none → s.inReset = false →
      ∃ u, exec (.registerWrite off 8 v) s = .next u ∧ (∀ b, b ≠ R.CHIP_BAR_ERR → u.word b = s.word b) ∧
        u.rd R.CHIP_BAR_ERR F.CHIP_BAR_ERR.UNMAPPED =
          min (s.rd R.CHIP_BAR_ERR F.CHIP_BAR_ERR.UNMAPPED + 1) (2 ^ F.CHIP_BAR_ERR.UNMAPPED.n - 1)) ∧
    (∀ (ch : MbxId), a = R.MBX_CTRL ch → s.inReset = false → s.flag (R.MBX_CTRL ch) F.MBX_CTRL.BUSY = false →
      ∃ u, exec (.registerWrite off 8 (BitVec.ofNat 64 (2 ^ F.MBX_CTRL.GO.lo))) s = .next u ∧
        u.flag (R.MBX_CTRL ch) F.MBX_CTRL.BUSY = true ∧ u.mbx = s.mbx)

/-- Crossings, read-back and the error log. MODE takes the value written; a read that waits at a stopped clock ends with an error in
RECOVERY mode and is counted, a timed write is dropped; a read-back returns the eight bytes of its place; ERR_LOG_ACK frees the
DONE and COVERED entries up to its SEQ.

Spec: 17_bringup.md: Clock domains and crossings; 18_registers.md: Read-back apertures; 15_recovery.md: Error logs and nested errors.
The choices of the model it rests on: log entries 47, 97. -/
def Obligations.CrossingsAndLogs : Prop :=
  ∀ s : State,
    (∀ b : Bool, ∃ u, exec (.cdcModeWrite b) s = .next u ∧ u.flag R.MGT_CDC F.MGT_CDC.MODE = b ∧ u.hbm = s.hbm ∧ u.cores = s.cores) ∧
    (∀ off : BitVec 28,
      let counted := fun (u : State) => u.rd R.MGT_CDC F.MGT_CDC.TIMEOUTS =
        min (s.rd R.MGT_CDC F.MGT_CDC.TIMEOUTS + 1) (2 ^ F.MGT_CDC.TIMEOUTS.n - 1)
      (off.toNat < 0x0C000000 → s.offStopped ((s.unalias off.toNat).getD off.toNat) = true →
        (s.flag R.MGT_CDC F.MGT_CDC.MODE = true → (s.recov.cairn = none ∨ 1000 ≤ (s.time - s.recov.cairnRead).toNat) →
          ∃ u, exec (.cdcTimeout off true) s = .next u ∧ counted u ∧ u.outbox = s.outbox ++ [.busError off.toNat] ∧
            u.hbm = s.hbm) ∧
        (∀ x, s.cdc.find? (fun x => x.off == off.toNat && x.read == false && x.timed && decide (1000 ≤ (s.time - x.since).toNat)) = some x →
          ∃ u, exec (.cdcTimeout off false) s = .next u ∧ counted u ∧ u.cdc = s.cdc.erase x ∧
            u.outbox = s.outbox)) ∧
      (∀ k x, apertureOf off.toNat = some k → s.rbStopped k = true →
        s.cdc.find? (fun x => x.off == off.toNat && x.read == true && x.timed && decide (1000 ≤ (s.time - x.since).toNat)) = some x →
        ∃ u, exec (.cdcTimeout off true) s = .next u ∧ counted u ∧ u.cdc = s.cdc.erase x ∧
          u.outbox = s.outbox ++ [.busError off.toNat])) ∧
    (∀ (k : Fin 4) (off : BitVec 24) (l : List Byte) (ue : Bool), off.toNat % 8 = 0 → s.rbStopped k = false → l.length = 8 →
      s.rbRead (s.rd (R.CHIP_RB_SEL k) F.CHIP_RB_SEL.UNIT) (s.rd (R.CHIP_RB_SEL k) F.CHIP_RB_SEL.SPACE)
        (s.rd (R.CHIP_RB_SEL k) F.CHIP_RB_SEL.PAGE * 0x1000000 + off.toNat) = .data (l.map some) ue →
      ∃ u, exec (.rbApertureRead k off) s = .next u ∧
        u.outbox = s.outbox ++ [.barRead (0x0C000000 + k.val * 0x1000000 + off.toNat) (BitVec.ofNat 64 (leNat l))] ∧
        u.rd (R.CHIP_RB_STATUS k) F.CHIP_RB_STATUS.LAST = (if ue then 4 else 0) ∧
        u.rd (R.CHIP_RB_STATUS k) F.CHIP_RB_STATUS.READS =
          (s.rd (R.CHIP_RB_STATUS k) F.CHIP_RB_STATUS.READS + 1) % 2 ^ F.CHIP_RB_STATUS.READS.n) ∧
    (∀ (d : Fin 21) (seq : BitVec 32), s.rd (R.ERR_LOG_ACK d) F.ERR_LOG_ACK.SEQ ≠ seq.toNat →
      ∃ u, exec (.errLogAck d seq) s = .next u ∧ u.rd (R.ERR_LOG_ACK d) F.ERR_LOG_ACK.SEQ = seq.toNat ∧
        (u.log d).entries = (s.log d).entries.filter (fun e =>
          !((e.2.st == .done || e.2.st == .covered) && decide ((seq - e.2.seq).toNat < 2 ^ 31))) ∧
        (∀ e : Fin 21, e ≠ d → u.log e = s.log e) ∧ u.hbm = s.hbm)

/-- Mailbox requests for contexts. GET_VERSION is answered; an admitted LOAD whose cores are awake loads the lowest free context into the
slots it names, and a refused one is answered with its code; UNLOAD removes a context that has not started or has halted.

Spec: 13_host.md: Mailboxes; 02_cores.md: Admission; 02_cores.md: Contexts.
The choices of the model it rests on: log entries 14, 15, 16, 44. -/
def Obligations.MailboxRequests : Prop :=
  ∀ (s : State) (ch : MbxId),
    (s.asks ch 1 0 → ∃ u, exec (.getVersion ch) s = .next u ∧ s.answers u ch 0 ∧
      leNat (Memory.read u.mbx (mbxAt ch 0x920) 8) = s.rd R.MGT_FW F.MGT_FW.VERSION % 2 ^ 64 ∧ u.hbm = s.hbm) ∧
    (∀ (image groups : List Byte), let r := s.loadReq ch
      let im := slice image 0 r.bytes
      s.asks ch 0x100 (0x30 + 8 * r.cores.length) → s.loadWaits r = false → s.badLoad ch r = false →
      (∀ code detail, s.refusal r im groups = some (code, detail) → code < 2 ^ 16 →
        ∃ u, exec (.load ch image groups) s = .next u ∧ s.answers u ch code ∧ u.ctxs = s.ctxs ∧ u.hbm = s.hbm) ∧
      (∀ c, s.refusal r im groups = none → s.freeCtx = some c →
        (∀ k ∈ r.cores, ∃ p, s.physOf k.core = some p ∧ csIdle ≤ s.coreState p ∧ (s.core p).jig = none) →
        ∃ u, exec (.load ch image groups) s = .next u ∧ s.answers u ch 0 ∧ (u.ctx c).phase = .loaded ∧
          (∀ k ∈ r.cores, ∀ p, s.physOf k.core = some p → u.resident p (k.slot % 2) = some c) ∧
          (∀ d, d ≠ c → u.ctx d = s.ctx d))) ∧
    (∀ c, c = s.payload ch 0 1 → s.asks ch 0x101 1 → c < 16 → (s.ctx c).live = true → (s.ctx c).fenced = false →
      ((s.ctx c).phase = .loaded ∨ s.ctxHalted c = true) → ∃ u, exec (.unload ch) s = .next u ∧ (u.ctx c).phase = .absent)

/-- Core power, start, partition mode and counter clears. A core that wakes becomes IDLE, one with nothing resident is gated; START runs
a loaded context whose image is unchanged from its entry point with its argument in s1; a new partition mode empties the HBM; a
clear zeroes a context's telemetry on a die.

Spec: 02_cores.md: Power gating and wake; 02_cores.md: Partitions; 08_training.md: Range telemetry; 13_host.md: Submission queues.
The choices of the model it rests on: log entries 60, 61. -/
def Obligations.ContextCommands : Prop :=
  ∀ s : State,
    (∀ p : CoreId, s.clamp.waking.contains p.val = true → s.coreState p = csWaking → (s.core p).jig = none →
      (∀ kc ∈ s.ctxs, kc.2.phase ≠ .loading) →
      ∃ u, exec (.coreWake p) s = .next u ∧ u.coreState p = csIdle ∧ u = { s with regs := u.regs, clamp := u.clamp } ∧
        u.clamp.waking.contains p.val = false) ∧
    (∀ p : CoreId, s.coreState p = csIdle → s.residents p = [] → (s.core p).jig = none → s.entriesOn p = [] →
      ∃ u, exec (.coreGate p) s = .next u ∧ u.coreState p = (if s.isFenced p then csFenced else csGated) ∧
        u.core p = { unfenceLeft := (s.core p).unfenceLeft } ∧
        (∀ q, q ≠ p.val → u.core q = s.core q) ∧ u.hbm = s.hbm) ∧
    (∀ (q : QueueId) (image : List Byte) (e : SqEntry), let c := s.queueCtx q
      let im := slice image 0 (s.ctx c).imageBytes
      s.nextEntry q = some e → e.opcode = 1 → s.queueFenced q = false → (s.ctx c).phase = .loaded →
      s.rd (R.BIV_STATUS c) F.BIV_STATUS.STATE ≠ 3 → imageCheck im = (s.ctx c).check.toNat →
      leAt im 12 4 = (s.ctx c).check.toNat →
      ∀ k : CtxCore, (s.ctx c).cores = [k] → s.coreState k.phys = csIdle → dataTable im = [] →
        s.rd (R.SCA_TABLE c) F.SCA_TABLE.SLOTS = 0 →
        ∃ u, exec (.sqStart q image) s = .next u ∧ (u.ctx c).phase = .running ∧
          (u.queue q).entries = (s.queue q).entries.drop 1 ∧ u.coreState k.phys = csRunning ∧
          u.activeSlot k.phys = k.slot.val ∧ u.pc k.phys = k.entry ∧ u.sreg k.phys 1 = k.arg ∧
          (∀ r : SReg, r ≠ 1 → u.sreg k.phys r = 0) ∧ u.hbm = s.hbm) ∧
    (∀ ch : MbxId, let m := s.payload ch 0 1
      s.asks ch 0x110 8 → s.recov.runs = [] → (m = 1 ∨ m = 2 ∨ m = 4) → m ≠ s.mode →
      s.rd R.CHIP_CAP_LIMITS F.CHIP_CAP_LIMITS.PART_MODES &&& m ≠ 0 → (∀ kc ∈ s.ctxs, kc.2.phase = .absent) →
      (∀ i, i < 8 → s.rd (R.PLN_STATUS i) F.PLN_STATUS.REPAIR_STATE ≠ 1) →
      ∃ u, exec (.setPartitionMode ch) s = .next u ∧ s.answers u ch 0 ∧ u.mode = m ∧ u.hbm = {}) ∧
    (∀ (d : DieId) (c : CtxId),
      (∃ u, exec (.telClear d c) s = .next u ∧ u.flag (R.TEL_CTX d c) F.TEL_CTX.CLEAR_BUSY = true ∧
        (u.ctx c).telBusy.getLsbD d = true ∧ (∀ tag fmt k, tag < 64 → fmt < 16 → k < 4 →
          u.rd (R.TEL_CNT d c tag fmt k) F.TEL_CNT.COUNT = 0)) ∧
      (∃ u, exec (.telClearDone d c) s = .next u ∧ u.flag (R.TEL_CTX d c) F.TEL_CTX.CLEAR_BUSY = false ∧
        (u.ctx c).telBusy.getLsbD d = false ∧ u.hbm = s.hbm))

/-- Detectors. An engine that holds work and has made no progress for ENG_MS, a channel of a plinth that holds a request and has completed
nothing for PLN_MS, a network-on-chip with a transaction 1 ms old and a failing bridge each file a record of their class and severity; where no reset is in progress and the
log of their unit has room and handles nothing, the record is ACTIVE and its reset begins. Work of a fenced context, a held
channel and a STOPPED stack draw none.

The end of a log's handling. The ACTIVE record of severity below POWER is DONE once no reset of its log or domain is in progress;
the oldest QUEUED record of the highest severity is then ACTIVE. A record of severity POWER is never done.

Spec: 15_recovery.md: Detecting hangs; 15_recovery.md: Error logs and nested errors.
The choices of the model it rests on: log entries 5, 69, 97. -/
def Obligations.HangsAndLogHandling : Prop :=
  (∀ s : State,
    let filed := fun (u : State) (cls sev unit : Nat) => u.hbm = s.hbm ∧
      ∀ d, d = s.logOf unit sev → s.recov.runs = [] → (s.log d).entries.length < 64 → (s.log d).active = none →
        (∃ i r, SMap.look (u.log d).entries i = some r ∧ r.st = .active ∧ r.cls = BitVec.ofNat 8 cls ∧
          r.sev = BitVec.ofNat 8 sev ∧ r.unit = BitVec.ofNat 16 unit ∧ r.seq = (s.log d).next ∧ r.ts = s.time) ∧
        ∃ run, u.recov.runs = [run] ∧ run.level = sev ∧ run.start = s.time
    (∀ (unit : BitVec 16) (c : CtxId),
      ((s.ctx c).fenced = false → s.engineHolds unit.toNat c = true → (bits unit.toNat 12 4 = 5 ∨ s.engineStale unit.toNat = true) →
        ∃ u, exec (.engineHang unit (some c)) s = .next u ∧ filed u 7 2 unit.toNat) ∧
      ((s.ctx c).fenced = true ∨ s.engineHolds unit.toNat c = false ∨
        (bits unit.toNat 12 4 ≠ 5 ∧ s.engineStale unit.toNat = false) → exec (.engineHang unit (some c)) s = .next s)) ∧
    (∀ (unit : BitVec 16) (kc : Nat × Ctx), kc ∈ s.ctxs → kc.2.fenced = false → bits unit.toNat 12 4 = 5 →
      s.engineHolds unit.toNat kc.1 = true → ∃ u, exec (.engineHang unit none) s = .next u ∧ filed u 7 2 unit.toNat) ∧
    (∀ (site : SiteId) (ch : ChanId),
      (s.stackPresent site = true → s.stopped site = false → (∀ t, (s.plinth site).hold ≠ some (ch.val, t)) →
        s.chanHolds site ch = true → s.stale (uChannel site ch) s.plnMs = true → ∃ u, exec (.plinthHang site ch) s = .next u ∧ filed u 9 3 (uChannel site ch)) ∧
      (s.stopped site = true ∨ (∃ t, (s.plinth site).hold = some (ch.val, t)) ∨ s.chanHolds site ch = false ∨
        s.stale (uChannel site ch) s.plnMs = false → exec (.plinthHang site ch) s = .next s)) ∧
    (∀ die : DieId, (s.nocStuck die = true → ∃ u, exec (.nocTimeout die) s = .next u ∧ filed u 10 4 (0xD000 + die.val) ∧
        u.rd (R.DIE_STATUS die) F.DIE_STATUS.NOC_TIMEOUTS =
          min (s.rd (R.DIE_STATUS die) F.DIE_STATUS.NOC_TIMEOUTS + 1) (2 ^ F.DIE_STATUS.NOC_TIMEOUTS.n - 1)) ∧
      (s.nocStuck die = false → exec (.nocTimeout die) s = .next s)) ∧
    (s.flag (R.DIE_STATUS 0) F.DIE_STATUS.BRIDGE_UP = true → ∃ u, exec .bridgeFail s = .next u ∧ filed u 11 4 0xD002 ∧
      u.flag (R.DIE_STATUS 0) F.DIE_STATUS.BRIDGE_UP = false ∧ u.flag (R.DIE_STATUS 1) F.DIE_STATUS.BRIDGE_UP = false)) ∧
  (∀ (s : State) (d : Fin 21) (i : Nat) (r : ErrRec), (s.log d).active = some (i, r) → (s.log d).lost = false →
    (r.sev.toNat < 5 → s.recov.runs = [] →
      ((∀ e ∈ (s.log d).entries, e.2.st ≠ .queued) → ∃ u, exec (.logHandlingDone d) s = .next u ∧
        SMap.look (u.log d).entries i = some { r with st := .done } ∧ u.recov.runs = [] ∧
        u.rd R.ERR_ESC F.ERR_ESC.STATE = (if s.pins.fault then 5 else if u.anyQueued then s.rd R.ERR_ESC F.ERR_ESC.STATE else 0) ∧
        u.hbm = s.hbm ∧ u.cores = s.cores ∧ u.ctxs = s.ctxs) ∧
      (∀ j q, SMap.rising (s.log d).entries = true → (j, q) ∈ (s.log d).entries → q.st = .queued →
        (∀ e ∈ (s.log d).entries, (e.2.st = .queued → e = (j, q)) ∧ (e.2.st = .active → e = (i, r))) →
        ∃ u, exec (.logHandlingDone d) s = .next u ∧ SMap.look (u.log d).entries i = some { r with st := .done } ∧
          SMap.look (u.log d).entries j = some { q with st := .active } ∧ u.hbm = s.hbm)) ∧
    (5 ≤ r.sev.toNat → exec (.logHandlingDone d) s = .next s))

/-- Time limits of resets. Past a level's drain budget the requests of a fenced context that wait for a response are retired; before it
nothing happens. A reset past its bound files RESET_OVERRUN one level up, and a chip reset asserts FAULT_N. A cairn past its
limit ends TRUNCATED, BUSY clears and the crossings return to RUN.

Resets complete. A context reset removes its context; an engine reset and a partition reset remove the contexts of
their domain, and a core that is reset is gated, or FENCED if it is on the fence list; in each case the reset is no longer in
progress. An engine or partition reset whose cairn still waits for the collector waits too. A quarantined extent is free once no accepted write of it is left.

Spec: 15_recovery.md: Reset levels; 15_recovery.md: Escalation; 15_recovery.md: The cairn; 15_recovery.md: Fences.
The choices of the model it rests on: log entries 5, 13, 64, 98. -/
def Obligations.ResetLimitsAndCompletion : Prop :=
  (∀ s : State,
    (∀ (c : CtxId) (unit : BitVec 16) (run : ResetRun), s.runOver c = some run →
      (drainBudget run.level ≤ (s.time - run.start).toNat → run.level = 4 ∨ s.undrained unit.toNat c = false →
        exec (.drainTimeout c unit) s = .next { s with out := s.out.filter (fun q => q.ctx != c.val) }) ∧
      ((s.time - run.start).toNat < drainBudget run.level → exec (.drainTimeout c unit) s = .next s)) ∧
    (∀ (run : ResetRun) (unit : Nat), s.recov.runs = [run] → 2 ≤ run.level → run.level ≤ 4 →
      unit = (if run.level = 2 then run.target else if run.level = 3 then s.partUnit run.target else 0) →
      let sev := s.upLevel run.level unit
      (run.pauseAt = none → resetBound run.level ≤ s.runAge run → (s.log (s.logOf unit sev)).entries.length < 63 →
        (∀ i r, (s.log (s.logOf unit sev)).active = some (i, r) → r.sev.toNat < sev) →
        ∃ u, exec (.resetOverrun run.log) s = .next u ∧ u.hbm = s.hbm ∧
          (∃ i r, SMap.look (u.log (s.logOf unit sev)).entries i = some r ∧ r.st = .active ∧ r.cls = 0x0C ∧
            r.sev = BitVec.ofNat 8 sev ∧ r.unit = BitVec.ofNat 16 unit) ∧
          (run.level = 4 → u.pins.fault = true)) ∧
      (run.pauseAt ≠ none ∨ s.runAge run < resetBound run.level → exec (.resetOverrun run.log) s = .next s)) ∧
    (∀ (c : Cairn) (run : ResetRun), s.recov.cairn = some c →
      s.recov.runs.find? (fun x => x.level == c.level && x.target == c.target.toNat) = some run →
      (cairnLimit c.level ≤ (s.time - s.recov.cairnBase).toNat → s.recov.cairnQ = [] → ∀ bad,
        ∃ u, exec (.cairnTimeLimit bad) s = .next u ∧ u.recov.cairn = none ∧
          u.flag R.CRN_STATUS F.CRN_STATUS.BUSY = false ∧ u.flag R.MGT_CDC F.MGT_CDC.MODE = false ∧
          (∀ k, s.takingSlot bad = some k → ∃ x, u.recov.cairns.head? = some x ∧ x.slot = k ∧ x.seq = c.seq ∧
            x.flags.getLsbD 2 = true ∧ x.flags.getLsbD 3 = false ∧ x.tsEnd = s.time) ∧
          (s.takingSlot bad = none → u.recov.cairns = s.recov.cairns)) ∧
      ((s.time - s.recov.cairnBase).toNat < cairnLimit c.level → ∀ bad, exec (.cairnTimeLimit bad) s = .next s))) ∧
  (∀ s : State,
    (∀ (c : CtxId) (run : ResetRun), s.runAt 1 c = some run → ∃ u, exec (.contextReset c) s = .next u ∧
      (u.ctx c).phase = .absent ∧ u.runAt 1 c = none) ∧
    (∀ (unit : BitVec 16) (run : ResetRun) (bad : BitVec 8), s.runAt 2 unit.toNat = some run →
      (s.cairnWaits run = true → exec (.engineReset unit bad) s = .next s) ∧
      (s.cairnWaits run = false → ∃ u, exec (.engineReset unit bad) s = .next u ∧
        u.runAt 2 unit.toNat = none ∧ (∀ c ∈ s.takenBy run, (u.ctx c).phase = .absent) ∧
        (∀ p : CoreId, unit.toNat = uCore p → u.core p = { unfenceLeft := (u.core p).unfenceLeft } ∧
          u.coreState p = (if u.isFenced p then csFenced else csGated)))) ∧
    (∀ (part : PartId) (run : ResetRun) (bad : BitVec 8), s.runAt 3 part = some run →
      (s.cairnWaits run = true → exec (.partitionReset part bad) s = .next s) ∧
      (s.cairnWaits run = false → ∃ u, exec (.partitionReset part bad) s = .next u ∧
        u.runAt 3 part = none ∧ (∀ c ∈ s.takenBy run, (u.ctx c).phase = .absent))) ∧
    (∀ c : CtxId, ∃ u, exec (.hbmQuarantineRelease c) s = .next u ∧
      u = { s with recov := { s.recov with quar := u.recov.quar } } ∧
      (∀ e, e ∈ u.recov.quar ↔ e ∈ s.recov.quar ∧ (e.1 ≠ c ∨ s.stuckWrites e.2 = true))))

/-- Mailbox requests RESET and CAIRN_INFO. A RESET of a live context, a present core, a partition or the chip waits for its answer until
the domain is ready; a target out of range is answered BAD_ARG and a context that is not loaded BAD_STATE. CAIRN_INFO is
answered with the number of stored cairns, at most 16.

Spec: 13_host.md: Mailboxes; 15_recovery.md: Reset levels; 15_recovery.md: The cairn.
The choices of the model it rests on: log entries 5, 15. -/
def Obligations.ResetRequests : Prop :=
  ∀ (s : State) (ch : MbxId), let level := s.payload ch 0 1
    let target := s.payload ch 2 2
    (s.asks ch 0x120 4 →
      (level = 0 → target < 16 → (s.ctx target).live = true → (s.ctx target).cause = none → ∃ u, exec (.resetReq ch) s = .next u ∧
        u.recov.mboxReset = s.recov.mboxReset ++ [(ch, 1, target)] ∧ (u.ctx target).fenced = true ∧ u.mbx = s.mbx) ∧
      (level = 0 → target < 16 → (s.ctx target).live = false → ∃ u, exec (.resetReq ch) s = .next u ∧ s.answers u ch 5) ∧
      (level = 0 → 16 ≤ target → ∃ u, exec (.resetReq ch) s = .next u ∧ s.answers u ch 4) ∧
      (level = 1 → bits target 12 4 = 1 → s.corePresent (bits target 0 12) = true → ∃ u, exec (.resetReq ch) s = .next u ∧
        u.recov.mboxReset = s.recov.mboxReset ++ [(ch, 2, target)] ∧ u.mbx = s.mbx) ∧
      (level = 2 → target < s.mode → ∃ u, exec (.resetReq ch) s = .next u ∧
        u.recov.mboxReset = s.recov.mboxReset ++ [(ch, 3, target)] ∧ u.mbx = s.mbx) ∧
      (level = 2 → s.mode ≤ target → ∃ u, exec (.resetReq ch) s = .next u ∧ s.answers u ch 4) ∧
      (level = 3 → target = 0 → ∃ u, exec (.resetReq ch) s = .next u ∧
        u.recov.mboxReset = s.recov.mboxReset ++ [(ch, 4, 0)] ∧ u.mbx = s.mbx) ∧
      (3 < level → ∃ u, exec (.resetReq ch) s = .next u ∧ s.answers u ch 4)) ∧
    (s.asks ch 0x121 0 → ∃ u, exec (.cairnInfo ch) s = .next u ∧ s.answers u ch 0 ∧
      leNat (Memory.read u.mbx (mbxAt ch 0x920) 1) = min s.recov.cairns.length 16 ∧ u.hbm = s.hbm)

/-- BIV_CONFIG of a loaded, unfenced context with no stream and no restart asked for: a payload that fails a check is answered BAD_ARG, one whose reserve does
not fit NO_HBM; otherwise the reserve is taken, both dirty sets hold every page, and the registers hold the payload. Any other
context is answered BAD_STATE.

Restart. BIV_RESTART of a loaded context on chips of its route requests the manifests; it answers BAD_STATE or BAD_ARG otherwise. When
both have come, the valid one of the highest STEP is taken; none, or one of another size or KEY, is refused. BIV_RESTART_PULL requests
the 1024 tiles of the next page, whose responses write them with seal and state, and an error response ends the restart with status
1. BIV_RESTART_FINISH requests the chosen manifest again: its response sets the loss scale and STEP, or, where it has changed
meanwhile, ends the restart with status 3.

Spec: 16_checkpoint.md: Configuration; 16_checkpoint.md: Restart.
The choices of the model it rests on: log entries 16, 51, 52. -/
def Obligations.BivouacConfigAndRestart : Prop :=
  (∀ (s : State) (ch : MbxId), s.asks ch 0x300 0x28 → let c := s.payload ch 0 1
    let x := s.ctx c
    let gaps := (s.setCtx c { x with reserve := [] }).freeHbm x.part
    let n := s.payload ch 4 2
    c < 16 →
    (x.live = false ∨ x.fenced = true ∨ s.bivState c ≠ 0 ∨ x.biv.rst ≠ none →
      ∃ u, exec (.bivConfig ch) s = .next u ∧ s.answers u ch 5 ∧ u.ctxs = s.ctxs) ∧
    (x.live = true → x.fenced = false → s.bivState c = 0 → x.biv.rst = none →
      (s.bivBad ch c ≠ none → ∃ u, exec (.bivConfig ch) s = .next u ∧ s.answers u ch 4 ∧ u.ctxs = s.ctxs) ∧
      (s.bivBad ch c = none → takeHbm gaps (n * pageBytes) = none →
        ∃ u, exec (.bivConfig ch) s = .next u ∧ s.answers u ch 0x10B ∧ u.ctxs = s.ctxs) ∧
      (∀ l, s.bivBad ch c = none → takeHbm gaps (n * pageBytes) = some l →
        ∃ u, exec (.bivConfig ch) s = .next u ∧ s.answers u ch 0 ∧ (u.ctx c).reserve = l ∧ (u.ctx c).biv.configured = true ∧
          (u.ctx c).biv.dirtyA = upto x.pages ∧ (u.ctx c).biv.dirtyB = upto x.pages ∧
          u.rd (R.BIV_CFG c) F.BIV_CFG.MODE = s.payload ch 1 1 ∧ u.rd (R.BIV_CFG c) F.BIV_CFG.RESERVE_PAGES = n ∧
          u.rd (R.BIV_CFG c) F.BIV_CFG.TRIG_CELL = s.payload ch 8 2 % 2 ^ F.BIV_CFG.TRIG_CELL.n ∧
          u.rd (R.BIV_CFG c) F.BIV_CFG.GO_CELL = s.payload ch 0xA 2 % 2 ^ F.BIV_CFG.GO_CELL.n ∧
          u.flag (R.BIV_CTRL c) F.BIV_CTRL.EN = decide (s.payload ch 3 1 = 1) ∧
          u.rd (R.BIV_NEXT c) F.BIV_NEXT.NEXT = s.payload ch 0x10 8 % 2 ^ F.BIV_NEXT.NEXT.n ∧
          (∀ d, d ≠ c → u.ctx d = s.ctx d) ∧ u.hbm = s.hbm))) ∧
  (∀ s : State,
    let routed := fun (c chip : Nat) => s.retry = [] ∧ chip ≠ s.ownChip ∧ (∀ y ∈ s.out, s.stranded y = false) ∧
      ∀ a, ∃ port rw, s.path (some c) a s.ownChip chip false = .port port rw
    (∀ ch : MbxId, s.asks ch 0x301 0x18 → let c := s.payload ch 0 1
      let cap := s.payload ch 1 1
      let a := s.payload ch 8 8
      let b := s.payload ch 0x10 8
      let ready := (s.ctx c).phase = .loaded ∧ (s.ctx c).fenced = false ∧ s.bivState c = 0 ∧ (s.ctx c).biv.rst = none
      c < 16 →
      (¬ ready → ∃ u, exec (.bivRestart ch) s = .next u ∧ s.answers u ch 5 ∧ u.ctxs = s.ctxs) ∧
      (ready → (cap < 1 ∨ 100 < cap ∨ s.inRoute c a = false ∨ (b ≠ 0 ∧ s.inRoute c b = false)) →
        ∃ u, exec (.bivRestart ch) s = .next u ∧ s.answers u ch 4 ∧ u.ctxs = s.ctxs) ∧
      (ready → 1 ≤ cap → cap ≤ 100 → s.inRoute c a = true → routed c (bits a 40 17) →
        (b = 0 → ∃ u t port rw h, exec (.bivRestart ch) s = .next u ∧ (u.ctx c).biv.rst = some t ∧ t.ch = ch ∧ t.srcA = a ∧
          t.manA = none ∧ t.manB = some [] ∧ u.outbox = s.outbox ++ [.fab 1 (some port) rw false h []] ∧
          h.dst = BitVec.ofNat 17 (bits a 40 17) ∧ h.addr = BitVec.ofNat 40 (bits a 0 40 / 64 * 64) ∧ h.whole = true ∧ u.mbx = s.mbx ∧
          u.hbm = s.hbm) ∧
        (b ≠ 0 → s.inRoute c b = true → routed c (bits b 40 17) → ∃ u t pa ra ha pb rb hb, exec (.bivRestart ch) s = .next u ∧
          (u.ctx c).biv.rst = some t ∧ t.ch = ch ∧ t.srcA = a ∧ t.srcB = b ∧ t.manA = none ∧ t.manB = none ∧
          u.outbox = s.outbox ++ [.fab 1 (some pa) ra false ha [], .fab 1 (some pb) rb false hb []] ∧
          ha.addr = BitVec.ofNat 40 (bits a 0 40 / 64 * 64) ∧
          hb.addr = BitVec.ofNat 40 (bits b 0 40 / 64 * 64) ∧ u.mbx = s.mbx ∧ u.hbm = s.hbm))) ∧
    (∀ (c : CtxId) (h : FabHdr) (d : List Byte) (q : OutReq), h.dst.toNat = s.ownChip → h.poison = false → s.quiet →
      s.out.filter (fun y => y.tag == h.tag) = [q] → q.cls = 1 → q.biv = true → q.ctx = c.val →
      let got := slice d q.skew (d.length - q.skew)
      (∀ t second, q.pull = some (.manifest second) → (s.ctx c).biv.rst = some t → (s.ctx c).phase = .loaded →
        (s.ctx c).fenced = false → s.bivState c = 0 → ∀ manA manB, (if second then t.manA else some got) = some manA →
        (if second then some got else t.manB) = some manB →
        let pick := chooseManifest manA manB
        (pick = none → ∃ u, exec (.rdRsp h d) s = .next u ∧ s.answers u t.ch 4 ∧ (u.ctx c).biv.rst = none ∧ u.bivState c = 0) ∧
        (∀ fromB m, pick = some (fromB, m) → (leAt m 0x28 8 ≠ (s.ctx c).hbmBytes ∨ leAt m 0x38 2 ≠ s.key c) →
          ∃ u, exec (.rdRsp h d) s = .next u ∧ s.answers u t.ch 4 ∧ (u.ctx c).biv.rst = none ∧ u.bivState c = 0) ∧
        (∀ fromB m, pick = some (fromB, m) → leAt m 0x28 8 = (s.ctx c).hbmBytes → leAt m 0x38 2 = s.key c →
          ∃ u, exec (.rdRsp h d) s = .next u ∧ s.answers u t.ch 0 ∧ u.bivState c = 3 ∧ (u.ctx c).biv.pulled = 0 ∧
            (u.ctx c).biv.manifest = m.take 0xC8 ∧
            (u.ctx c).biv.srcSlot = BitVec.ofNat 64 (if fromB then t.srcB else t.srcA) ∧ u.hbm = s.hbm)) ∧
      (∀ a, q.pull = some (.tile a) → s.bivState c = 3 →
        (h.status ≠ 7 → ∃ u, exec (.errRsp h) s = .next u ∧ u.bivState c = 0 ∧
          u.rd (R.BIV_STATUS c) F.BIV_STATUS.LAST_STATUS = 1 ∧ u.hbm = s.hbm) ∧
        (got.length = 2048 → a % 2048 = 0 → h.whole = true → s.tileBlocked (a / 2048) = false → s.heldLines a 2048 = [] →
          s.pagePending a = false → ∃ u, exec (.rdRsp h d) s = .next u ∧
            (∀ k, k < 2048 → Memory.byte u.hbm.bytes (a + k) = got.getD k 0) ∧
            (∀ y, y < a ∨ a + 2048 ≤ y → Memory.byte u.hbm.bytes y = Memory.byte s.hbm.bytes y) ∧
            u.hbm.info (a / 2048) = { sl := h.sealAmt, st := if h.state = 2 then .poison else .sealed } ∧
            (u.ctx c).biv.pulling = (s.ctx c).biv.pulling - 1 ∧
            (u.ctx c).biv.pulled = (s.ctx c).biv.pulled + (if (s.ctx c).biv.pulling ≤ 1 then 1 else 0))) ∧
      (q.pull = some .again → (s.ctx c).biv.ending = true → s.bivState c = 3 →
        let same := leAt got 6 2 = leAt (s.ctx c).biv.manifest 6 2 ∧ leAt got 8 4 = leAt (s.ctx c).biv.manifest 8 4
        (same → ∃ u, exec (.rdRsp h d) s = .next u ∧ u.bivState c = 0 ∧
          u.rd (R.BIV_STATUS c) F.BIV_STATUS.LAST_STATUS = 0 ∧ (u.ctx c).biv.restored = true ∧
          u.rd (R.BIV_STATUS c) F.BIV_STATUS.STEP = leAt got 0x10 8 % 2 ^ F.BIV_STATUS.STEP.n ∧
          u.rd (R.SCA_LS_STATUS c) F.SCA_LS_STATUS.EXP = leAt got 0x3C 1 ∧
          u.rd (R.SCA_LS_STATUS c) F.SCA_LS_STATUS.CLEAN = leAt got 0x3E 2 ∧ u.hbm = s.hbm) ∧
        (¬ same → ∃ u, exec (.rdRsp h d) s = .next u ∧ u.bivState c = 0 ∧
          u.rd (R.BIV_STATUS c) F.BIV_STATUS.LAST_STATUS = 3 ∧ u.hbm = s.hbm))) ∧
    (∀ c : CtxId, let x := s.ctx c
      let src := x.biv.srcSlot.toNat
      (∀ a, pageAddr x.extents x.biv.pulled = some a → s.bivState c = 3 →
        (x.biv.pulling ≠ 0 → exec (.bivRestartPull c) s = .next s) ∧
        (x.biv.pulling = 0 → routed c (bits src 40 17) → ∃ u sent asked, exec (.bivRestartPull c) s = .next u ∧
          (u.ctx c).biv.pulling = 1024 ∧ u.outbox = s.outbox ++ sent ∧ sent.length = 1024 ∧ u.out = s.out ++ asked ∧
          asked.map OutReq.pull = (upto 1024).map (fun i => some (.tile (a + 2048 * i))) ∧
          asked.map OutReq.addr = (upto 1024).map (fun i =>
            bits src 0 40 + ((x.biv.pulled + 1) * pageBytes + 2048 * i)) ∧ u.hbm = s.hbm)) ∧
      (s.bivState c = 3 → x.pages ≤ x.biv.pulled →
        (x.biv.ending = true → exec (.bivRestartFinish c) s = .next s) ∧
        (x.biv.ending = false → routed c (bits src 40 17) → ∃ u port rw h, exec (.bivRestartFinish c) s = .next u ∧
          (u.ctx c).biv.ending = true ∧ u.outbox = s.outbox ++ [.fab 1 (some port) rw false h []] ∧
          h.addr = BitVec.ofNat 40 (bits src 0 40 / 64 * 64) ∧ u.bivState c = 3 ∧ u.hbm = s.hbm))))

/-- BIV_TRIGGER of an increment to V. Below NEXT, or with EN = 0, no stream begins. From NEXT on an idle context takes its snapshot at V:
the pages of the set are PENDING and to be sent, the slot's dirty set is empty, its VALID_IMAGE clears and the head is written to
it; with a stream in progress the increment is counted as skipped. NEXT moves on by INTERVAL past V, or EN clears where INTERVAL
is 0. GO_CELL is incremented in every case.

Copies and pages of a stream. URGENT_COPY_DONE copies a held page into the reserve: it is PENDING no more, and its writes go on.
BIV_PAGE_SEND sends the lowest live page where the reserve is empty: a write of each of its tiles goes out and is to be
acknowledged. BIV_STREAM_COMPLETE, with every page sent and acknowledged, writes the head that makes the image valid.

Spec: 16_checkpoint.md: Trigger and snapshot point; 16_checkpoint.md: Streaming; 16_checkpoint.md: The manifest.
The choices of the model it rests on: log entries 51, 52. -/
def Obligations.BivouacStreams : Prop :=
  (∀ (s : State) (c : CtxId) (v : Word) (rest : List Word) (p : CoreId) (i : Nat),
    (s.ctx c).biv.trig = v :: rest → s.physOf (s.rd (R.BIV_CFG c) F.BIV_CFG.TRIG_CORE) = some p → s.slotOf p c = some i →
    (s.ctx c).fenced = false → (s.core p).jig = none → s.retry = [] → (∀ y ∈ s.out, s.stranded y = false) →
    let cell := s.rd (R.BIV_CFG c) F.BIV_CFG.GO_CELL
    let next := s.rd (R.BIV_NEXT c) F.BIV_NEXT.NEXT
    let k := s.rd (R.BIV_CTRL c) F.BIV_CTRL.INTERVAL
    let export_ := s.rd (R.BIV_CFG c) F.BIV_CFG.MODE = 2
    let slot := if export_ then 0 else s.nextSlot c
    let chip := s.rd (R.BIV_TARGET c slot) F.BIV_TARGET.CHIP
    let at_ := s.rd (R.BIV_TARGET c slot) F.BIV_TARGET.LOCAL
    cell ≠ s.rd (R.BIV_CFG c) F.BIV_CFG.TRIG_CELL → cell < s.cellCount p i → s.cellAt p i cell < 1024 →
    (s.cellValue p i cell).toNat + 1 < 2 ^ 64 →
    let went := fun (u : State) => u.cellValue p i cell = s.cellValue p i cell + 1 ∧ (u.ctx c).biv.trig = rest ∧ u.hbm = s.hbm
    let moved := fun (u : State) => (k = 0 → u.flag (R.BIV_CTRL c) F.BIV_CTRL.EN = false) ∧
      (k ≠ 0 → u.rd (R.BIV_NEXT c) F.BIV_NEXT.NEXT = (next + ((v.toNat - next) / k + 1) * k) % 2 ^ F.BIV_NEXT.NEXT.n)
    (s.flag (R.BIV_CTRL c) F.BIV_CTRL.EN = false ∨ v.toNat < next → ∃ u, exec (.bivTrigger c) s = .next u ∧ went u ∧
      u.bivState c = s.bivState c ∧ (u.ctx c).biv = { (s.ctx c).biv with trig := rest } ∧ u.outbox = s.outbox) ∧
    (s.flag (R.BIV_CTRL c) F.BIV_CTRL.EN = true → next ≤ v.toNat → s.bivState c ≠ 0 → ∃ u, exec (.bivTrigger c) s = .next u ∧
      went u ∧ moved u ∧ u.bivState c = s.bivState c ∧ u.rd (R.BIV_COUNT c) F.BIV_COUNT.SKIPPED =
        min (s.rd (R.BIV_COUNT c) F.BIV_COUNT.SKIPPED + 1) (2 ^ F.BIV_COUNT.SKIPPED.n - 1)) ∧
    (∀ port rw, s.flag (R.BIV_CTRL c) F.BIV_CTRL.EN = true → next ≤ v.toNat → s.bivState c = 0 → chip ≠ s.ownChip →
      s.path (some c.val) at_ s.ownChip chip false = .port port rw →
      ∃ u, exec (.bivTrigger c) s = .next u ∧ went u ∧ moved u ∧ u.bivState c = (if export_ then 2 else 1) ∧
        (u.ctx c).biv.step = v ∧ (u.ctx c).biv.streamSeq = (s.ctx c).biv.streamSeq + 1 ∧ (u.ctx c).biv.tsMark = s.time ∧
        (u.ctx c).biv.pend = (u.ctx c).biv.toSend ∧
        (s.rd (R.BIV_CFG c) F.BIV_CFG.MODE ≠ 1 → (u.ctx c).biv.toSend = upto (s.ctx c).pages) ∧
        (s.rd (R.BIV_CFG c) F.BIV_CFG.MODE = 1 → ∀ g, g ∈ (u.ctx c).biv.toSend ↔
          g ∈ (if slot = 0 then (s.ctx c).biv.dirtyA else (s.ctx c).biv.dirtyB)) ∧
        (¬ export_ → (if slot = 0 then (u.ctx c).biv.dirtyA else (u.ctx c).biv.dirtyB) = [] ∧
          u.rd (R.BIV_STATUS c) F.BIV_STATUS.SLOT = slot ∧ u.flag (R.BIV_TARGET c slot) F.BIV_TARGET.VALID_IMAGE = false) ∧
        ∃ h d, u.outbox = s.outbox ++ [.fab 2 (some port) rw false h d] ∧ h.dst.toNat = chip ∧ h.addr = BitVec.ofNat 40 at_)) ∧
  (∀ (s : State) (c : CtxId), let x := s.ctx c
    let chip := (s.slotBase c).1
    let routed := fun (w : State) => chip.toNat ≠ w.ownChip ∧ (∀ y ∈ w.out, w.stranded y = false) ∧
      ∀ a, ∃ port rw, w.path (some c.val) a w.ownChip chip.toNat false = .port port rw
    (∀ (page : BitVec 19) (h : Nat × Word) (a : Nat) (w : State) (l : List (List Byte × TileMeta)), let g := page.toNat
      x.biv.held.find? (fun h => h.1 == g) = some h → pageAddr x.extents g = some a → g ∈ x.biv.pend →
      s.heldBefore x.part h.2 < 4 → s.pageFree a = true →
      x.biv.reserve.length < s.rd (R.BIV_CFG c) F.BIV_CFG.RESERVE_PAGES → s.readPage a = (w, l) → w.quiet →
      ∃ u, exec (.urgentCopyDone c page) s = .next u ∧ (u.ctx c).biv.reserve = (w.ctx c).biv.reserve ++ [g] ∧
        g ∉ (u.ctx c).biv.pend ∧ (∀ y ∈ (w.ctx c).biv.pend, y ≠ g → y ∈ (u.ctx c).biv.pend) ∧ g ∉ (u.ctx c).biv.toSend ∧
        SMap.look (u.ctx c).biv.copies g = some (pageCopy l) ∧ (∀ y ∈ (u.ctx c).biv.held, y.1 ≠ g) ∧ u.hbm = w.hbm) ∧
    (∀ (g a : Nat) (rest : List Nat) (w : State) (l : List (List Byte × TileMeta)), s.bivState c = 1 → s.bivTurn c = true →
      x.biv.reserve = [] → x.biv.toSend = g :: rest → pageAddr x.extents g = some a → s.pageFree a = true →
      s.readPage a = (w, l) → w.quiet → w.bivState c = 1 → routed w →
      ∃ u sent, exec (.bivPageSend c) s = .next u ∧ (u.ctx c).biv.toSend = rest ∧ g ∉ (u.ctx c).biv.pend ∧
        (u.ctx c).biv.acks = (w.ctx c).biv.acks + l.length ∧ u.hbm = w.hbm ∧
        u.outbox = w.outbox ++ sent ∧ sent.length = l.length) ∧
    (s.retry = [] → routed s → x.biv.toSend = [] → x.biv.reserve = [] → x.biv.acks = 0 → x.biv.final = false →
      s.bivState c = 1 ∨ s.bivState c = 2 → ∃ u port rw h d, exec (.bivStreamComplete c) s = .next u ∧
        (u.ctx c).biv.final = true ∧ (u.ctx c).biv.acks = 1 ∧ u.outbox = s.outbox ++ [.fab 2 (some port) rw false h d] ∧
        h.dst = chip ∧ h.addr = BitVec.ofNat 40 (s.slotBase c).2 ∧
        d = (if s.bivState c = 2 then s.exportHead c true else s.manifestTile c true) ∧ u.hbm = s.hbm) ∧
    (x.biv.toSend ≠ [] ∨ x.biv.acks ≠ 0 → exec (.bivStreamComplete c) s = .next s))

/-- Power and pins. VDD_AON in tolerance starts the counter at 0, samples MGT_ADDR, presents the identity records of the always-on
domain, and asserts FAULT_N where the self-check fails; the loss of PWR_GOOD resets every other domain; a trip latches with its
source and stands; the removal of VDD_AON keeps fuses and flash alone; a PLL that loses lock stops its clock, and jig runs on its die are
abandoned.

Spec: 01_package.md: Tray management signals; 17_bringup.md: Power-on; 17_bringup.md: Clock domains and crossings.
The choices of the model it rests on: log entries 48, 63. -/
def Obligations.PowerPins : Prop :=
  ∀ s : State,
    (∀ (addr : BitVec 3) (ok : Bool), s.pins.aon = false → ∃ u, exec (.aonPowerUp addr ok) s = .next u ∧ u.pins.aon = true ∧
      u.pins.mgtAddr = addr ∧ u.time = 0 ∧ u.rd R.MGT_BOOT F.MGT_BOOT.STAGE = 1 ∧
      u.pins.fault = (s.pins.fault || !ok) ∧ (ok = false → s.pins.fault = false → u.rd R.ERR_ESC F.ERR_ESC.FAULT_CAUSE = 3) ∧
      (∀ i ∈ [0, 1, 10, 11], u.word (R.CHIP_IDENT i) =
        (match SMap.look s.fuses.ident i with | some r => r.setWidth 64 ||| BitVec.ofNat 64 (2 ^ 63) | none => 0))) ∧
    (s.pins.pwrGood = true → ∃ u, exec .powerGoodLoss s = .next u ∧ u.pins = { s.pins with pwrGood := false } ∧ u.cores = [] ∧
      u.ctxs = [] ∧ u.hbm = {} ∧ u.logs = [] ∧ u.recov.runs = [] ∧ u.recov.cairns = [] ∧
      u.flag R.MGT_BOOT F.MGT_BOOT.READY = false ∧ u.fuses = s.fuses ∧ u.flash = s.flash ∧ u.time = s.time) ∧
    (∀ (src : TripSrc) (idx : BitVec 4) (temp : BitVec 8), s.pins.aon = true →
      (s.pins.trip = false → (match src with
          | .die => idx.toNat < 2
          | .stack => s.stackPresent idx.toNat = true
          | .optics => idx.toNat < 2 ∧ s.fuses.ridges ≠ 0) →
        (match src with | .die => 115 | .stack => 115 | .optics => 90) ≤ temp.toNat →
        exec (.thermTrip src idx temp) s = .next { s with pins := { s.pins with
          trip := true, tripIdx := idx.toNat,
          tripSrc := (match src with | .die => 0 | .stack => 1 | .optics => 2) } }) ∧
      (s.pins.trip = true → exec (.thermTrip src idx temp) s = .next s)) ∧
    (∃ u, exec .vddAonRemoval s = .next u ∧ u.fuses = s.fuses ∧ u.flash = s.flash ∧ u.pins = {} ∧ u.cores = [] ∧ u.ctxs = [] ∧
      u.hbm = {} ∧ u.logs = [] ∧ u.fw = {} ∧ u.recov = {} ∧ u.pending = s.pending) ∧
    (∀ d : DieId,
      (∃ u, exec (.pllLossOfLock d .core) s = .next u ∧ u.flag (R.DIE_STATUS d) F.DIE_STATUS.CORE_PLL_LOCK = false ∧ u.clock d = 0 ∧
        (0 < s.rd R.CHIP_CAP_LIMITS F.CHIP_CAP_LIMITS.CLK_CAP_MHZ → ∀ p : CoreId, p.val / 52 = d.val → (u.core p).jig = none) ∧
        ((∀ p, (s.core p).jig = none) → u = { s with regs := u.regs }) ∧
        (∀ q, q / 52 ≠ d.val → u.core q = s.core q) ∧ u.hbm = s.hbm) ∧
      (∃ u, exec (.pllLossOfLock d .noc) s = .next u ∧ u.flag (R.DIE_STATUS d) F.DIE_STATUS.NOC_PLL_LOCK = false ∧
        u = { s with regs := u.regs }) ∧
      (s.flag (R.DIE_STATUS d) F.DIE_STATUS.BRIDGE_UP = true → ∃ u, exec (.pllLossOfLock d .bridge) s = .next u ∧
        u.flag (R.DIE_STATUS 0) F.DIE_STATUS.BRIDGE_UP = false ∧ u.flag (R.DIE_STATUS 1) F.DIE_STATUS.BRIDGE_UP = false))

/-- Starts. The first release of HOLD_RESET_N starts the chip cold from the active slot that passes its checks: clocks and bridge run,
memory is empty, and the chip is READY once no port is in training; with no slot that passes it stays at STAGE 9. A release with
PWR_GOOD asserted, and a chip reset, bring it up warm. An assertion resets every domain but the always-on one.

Spec: 17_bringup.md: Power-on; 15_recovery.md: Reset levels.
The choices of the model it rests on: log entry 48. -/
def Obligations.ChipStarts : Prop :=
  ∀ s : State,
    let up := fun (u : State) (warm : Bool) =>
      (∀ d : DieId, u.flag (R.DIE_STATUS d) F.DIE_STATUS.CORE_PLL_LOCK = true ∧ u.flag (R.DIE_STATUS d) F.DIE_STATUS.NOC_PLL_LOCK = true ∧
        u.flag (R.DIE_STATUS d) F.DIE_STATUS.BRIDGE_UP = true) ∧ u.ctxs = [] ∧
      ((u.flag R.MGT_BOOT F.MGT_BOOT.READY = true ∧ u.rd R.MGT_BOOT F.MGT_BOOT.STAGE = 8 ∧
          u.flag R.MGT_BOOT F.MGT_BOOT.WARM = warm ∧ u.recov.boot = none ∧ ∀ w, w < 32 → u.portState w ≠ 1) ∨
        ((∃ a b, u.recov.boot = some (warm, a, b)) ∧ u.flag R.MGT_BOOT F.MGT_BOOT.READY = false ∧ ∃ w, w < 32 ∧ u.portState w = 1))
    (∀ (okA okB : Bool) (st re : BitVec 104) (bad : BitVec 256), s.pins.aon = true → s.pins.hold = true → s.pins.pwrGood = false →
      let i := if s.flash.active then 1 else 0
      let good := fun (k : Nat) => (if k = 0 then okA else okB) = true ∧ s.fuses.svn.toNat ≤ (SMap.lookD s.flash.imgSvn k 0).toNat
      (good i → ∃ u, exec (.holdResetRelease okA okB st re bad) s = .next u ∧ up u false ∧ u.hbm = {} ∧
        u.pins = { s.pins with pwrGood := true, hold := false } ∧ u.rd R.MGT_BOOT F.MGT_BOOT.ACTIVE_SLOT = i ∧
        u.rd R.MGT_FW F.MGT_FW.VERSION = (SMap.lookD s.flash.version i 0).toNat) ∧
      (¬ good i → good (1 - i) → ∃ u, exec (.holdResetRelease okA okB st re bad) s = .next u ∧ up u false ∧
        u.rd R.MGT_BOOT F.MGT_BOOT.ACTIVE_SLOT = 1 - i ∧ u.flash.active = !s.flash.active) ∧
      (¬ good i → ¬ good (1 - i) → ∃ u, exec (.holdResetRelease okA okB st re bad) s = .next u ∧
        u.rd R.MGT_BOOT F.MGT_BOOT.STAGE = 9 ∧ u.flag R.MGT_BOOT F.MGT_BOOT.READY = false ∧ u.cores = [] ∧ u.ctxs = [])) ∧
    (∀ (okA okB : Bool) (st re : BitVec 104) (bad : BitVec 256), s.pins.aon = true → s.pins.hold = true → s.pins.pwrGood = true →
      s.rd R.MGT_BOOT F.MGT_BOOT.STAGE = 10 → s.flag R.MGT_BOOT F.MGT_BOOT.READY = false → s.cdc = [] → s.ctxs = [] →
      ∃ u, exec (.holdResetRelease okA okB st re bad) s = .next u ∧ up u true ∧ u.pins = { s.pins with hold := false }) ∧
    (∀ run, s.recov.runs.find? (fun x => x.level == 4) = some run → s.rd R.MGT_BOOT F.MGT_BOOT.STAGE ≠ 10 → s.pins.hold = false →
      s.cairnWaits run = false → ∀ (slots : BitVec 8) (bad : BitVec 256), ∃ u, exec (.warmChipReset slots bad) s = .next u ∧ up u true ∧ u.pins.hold = false ∧ u.fuses = s.fuses) ∧
    (s.pins.hold = false → s.pins.pwrGood = true → s.rd R.MGT_BOOT F.MGT_BOOT.STAGE ≠ 9 → (∀ r ∈ s.recov.runs, r.level ≤ 4) →
      ∃ u, exec .holdResetAssert s = .next u ∧ u.pins.hold = true ∧ u.rd R.MGT_BOOT F.MGT_BOOT.STAGE = 10 ∧ u.flag R.MGT_BOOT F.MGT_BOOT.READY = false ∧ u.ctxs = [] ∧
      (∃ run ∈ u.recov.runs, run.level = 4) ∧ u.fuses = s.fuses)

/-- Firmware processors. A restart of a hut core is counted and recorded and announced. One of the base-camp core also answers every
mailbox request in flight with FW_RESTARTED, and the bounds of resets in progress that have steps of it before them count from it; the third restart by its
watchdog within 10 s asserts FAULT_N.

Reports. ATTEST writes the signed report, and GET_MEASUREMENTS the measurement log, to the host's buffer where it fits, and is
answered BAD_ARG with nothing written where it does not.

Spec: 17_bringup.md: Firmware processors; 17_bringup.md: Measurement and attestation; 13_host.md: Mailboxes.
The choices of the model it rests on: log entries 11, 49, 50. -/
def Obligations.FirmwareRestartsAndReports : Prop :=
  (∀ s : State, s.pins.pwrGood = true → s.rd R.MGT_BOOT F.MGT_BOOT.STAGE ≠ 9 → (s.log 20).entries.length < 64 →
    let plus := fun (u : State) (f : Field) => u.rd R.MGT_FWPROC f = min (s.rd R.MGT_FWPROC f + 1) (2 ^ f.n - 1)
    (∀ cause : FwCause, cause ≠ .activation → s.pins.hold = false →
      (∃ u, exec (.fwProcRestart .hutN cause) s = .next u ∧ plus u F.MGT_FWPROC.HUT_N_RESTARTS ∧ u.hbm = s.hbm ∧ u.cores = s.cores ∧
        ∃ i r, SMap.look (u.log 20).entries i = some r ∧ r.cls = 0x0E ∧ r.st = .done ∧ r.unit = 0xB000) ∧
      (∃ u, exec (.fwProcRestart .hutS cause) s = .next u ∧ plus u F.MGT_FWPROC.HUT_S_RESTARTS ∧ u.hbm = s.hbm ∧
        u.cores = s.cores)) ∧
    (∃ u, exec (.fwProcRestart .base .except) s = .next u ∧ plus u F.MGT_FWPROC.BC_RESTARTS ∧ u.hbm = s.hbm ∧ u.cores = s.cores ∧
      (∀ ch : MbxId, s.flag (R.MBX_CTRL ch) F.MBX_CTRL.BUSY = true → s.answers u ch 6) ∧
      (∀ r ∈ u.recov.runs, s.needsBase r = true → r.bound = some s.time) ∧
      (∀ r ∈ s.recov.runs, s.needsBase r = false → r ∈ u.recov.runs) ∧ u.recov.mboxReset = []) ∧
    (∃ u, exec (.fwProcRestart .base .watchdog) s = .next u ∧ plus u F.MGT_FWPROC.BC_RESTARTS ∧
      (2 ≤ s.bcWatchdogs → u.pins.fault = true) ∧ (s.bcWatchdogs < 2 → u.pins.fault = s.pins.fault))) ∧
  (∀ (s : State) (ch : MbxId),
    (∀ pubkey sig : List Byte, s.asks ch 0x210 80 →
      let n := 384 + 128 * s.fw.mlog.length + 2592 + 4627
      let d := s.attestHead (s.reqBytes ch 32 64) n ++ s.mlogBytes ++ slice pubkey 0 2592 ++ slice sig 0 4627
      d.length = n ∧
      (n ≤ s.payload ch 72 4 → ∃ u, exec (.attest ch pubkey sig) s = .next u ∧ s.answers u ch 0 ∧
        u.outbox = s.outbox ++ [.hostWrite (s.payload ch 64 8) d] ∧ u.hbm = s.hbm) ∧
      (s.payload ch 72 4 < n → ∃ u, exec (.attest ch pubkey sig) s = .next u ∧ s.answers u ch 4 ∧ u.outbox = s.outbox)) ∧
    (s.asks ch 0x211 16 →
      (128 * s.fw.mlog.length ≤ s.payload ch 8 4 → ∃ u, exec (.getMeasurements ch) s = .next u ∧ s.answers u ch 0 ∧
        u.outbox = s.outbox ++ [.hostWrite (s.payload ch 0 8) s.mlogBytes] ∧ u.hbm = s.hbm) ∧
      (s.payload ch 8 4 < 128 * s.fw.mlog.length → ∃ u, exec (.getMeasurements ch) s = .next u ∧ s.answers u ch 4 ∧
        u.outbox = s.outbox)))

/-- Firmware images. FW_STAGE writes an image that passes its checks to the slot that is not active; a failing one is answered BAD_ARG
and changes no flash. FW_ACTIVATE of a staged image that passes again puts it in force and restarts the processors, during
EMERGENCY it is deferred; a deferred activation starts once EMERGENCY has been clear for 1 s. An image that raises the SVN does
so after 60 s.

Spec: 17_bringup.md: Staging and activation; 17_bringup.md: Flash and firmware images.
The choices of the model it rests on: log entries 11, 49, 50. -/
def Obligations.FirmwareImages : Prop :=
  ∀ s : State,
    let spare := s.spareSlot
    let pending := s.flag R.MGT_FW F.MGT_FW.PENDING
    let sound := s.rd R.MGT_FW F.MGT_FW.SVN_FLOOR ≤ (SMap.lookD s.flash.imgSvn spare 0).toNat
    let inForce := fun (u : State) => u.rd R.MGT_BOOT F.MGT_BOOT.ACTIVE_SLOT = spare ∧ u.flash.active = !s.flash.active ∧
      u.rd R.MGT_FW F.MGT_FW.VERSION = (SMap.lookD s.flash.version spare 0).toNat ∧
      u.flag R.MGT_FW F.MGT_FW.STAGED = false ∧ u.flag R.MGT_FW F.MGT_FW.PENDING = false ∧ u.hbm = s.hbm
    (∀ (ch : MbxId) (image : List Byte) (back : Bool), s.asks ch 0x200 16 →
      let im := slice image 0 (s.payload ch 8 4)
      (s.flag R.MGT_FW F.MGT_FW.STAGING = true ∨ pending = true → ∃ u, exec (.fwStage ch image back) s = .next u ∧
        s.answers u ch 5 ∧ u.flash = s.flash) ∧
      (s.flag R.MGT_FW F.MGT_FW.STAGING = false → pending = false → s.fwFails im ≠ 0 →
        ∃ u, exec (.fwStage ch image back) s = .next u ∧ s.answers u ch 4 ∧ u.flash = s.flash) ∧
      (s.flag R.MGT_FW F.MGT_FW.STAGING = false → pending = false → s.fwFails im = 0 →
        ∃ u, exec (.fwStage ch image back) s = .next u ∧ s.answers u ch (if back then 0 else 4) ∧ u.flash.staged = back ∧
          u.flag R.MGT_FW F.MGT_FW.STAGED = back ∧ u.flash.active = s.flash.active ∧
          SMap.look u.flash.version spare = some (BitVec.ofNat 64 (leAt im 8 8)) ∧ u.hbm = s.hbm)) ∧
    (∀ (ch : MbxId) (ok : Bool), s.asks ch 0x201 0 → s.mlogFull = false → pending = false →
      (s.flag R.MGT_FW F.MGT_FW.STAGED = false → ∃ u, exec (.fwActivate ch ok) s = .next u ∧ s.answers u ch 5 ∧ u.flash = s.flash) ∧
      (s.flag R.MGT_FW F.MGT_FW.STAGED = true → s.flag R.CLP_STATUS F.CLP_STATUS.EMERGENCY = true →
        ∃ u, exec (.fwActivate ch ok) s = .next u ∧ s.answers u ch 7 ∧ u.flag R.MGT_FW F.MGT_FW.PENDING = true ∧ u.flash = s.flash) ∧
      (s.flag R.MGT_FW F.MGT_FW.STAGED = true → s.flag R.CLP_STATUS F.CLP_STATUS.EMERGENCY = false →
        (ok = true → sound → ∃ u, exec (.fwActivate ch ok) s = .next u ∧ s.answers u ch 0 ∧ inForce u) ∧
        (ok = false → ∃ u, exec (.fwActivate ch ok) s = .next u ∧ s.answers u ch 0 ∧ u.flash.active = s.flash.active ∧
          u.flash.staged = false))) ∧
    (∀ t, s.fw.clearSince = some t → pending = true → s.flag R.MGT_BOOT F.MGT_BOOT.READY = true →
      (100000000 ≤ (s.time - t).toNat → sound → ∃ u, exec (.activationDeferredStart true) s = .next u ∧ inForce u) ∧
      ((s.time - t).toNat < 100000000 → exec (.activationDeferredStart true) s = .next s)) ∧
    (∀ t, s.fw.activatedAt = some t → s.fw.raiseSvn = true → s.fuses.svn.toNat < s.fw.imgSvn.toNat →
      (6000000000 ≤ (s.time - t).toNat → ∃ u, exec .svnFloorRaise s = .next u ∧ u.fuses = { s.fuses with svn := s.fw.imgSvn } ∧
        u.rd R.MGT_FW F.MGT_FW.SVN_FLOOR = s.fw.imgSvn.toNat ∧ u = { s with regs := u.regs, fuses := u.fuses }) ∧
      ((s.time - t).toNat < 6000000000 → exec .svnFloorRaise s = .next s))
end

