-- ==== Sys2Proof/Laws/Bits.lean ====
section
/-!
SUPPORT. Laws of finite maps, bit fields and byte memories.
-/
namespace Sys2Proof.Laws
open Sys2Proof.Machine

/-! ### Bytes of a number -/

theorem natLe_length (v n : Nat) : (natLe v n).length = n := by
  induction n generalizing v with
  | zero => rfl
  | succ n ih => simp [natLe, ih]

/-- A byte list is read back from the number it spells. -/
theorem natLe_leNat (l : List Byte) : natLe (leNat l) l.length = l := by
  induction l with
  | nil => rfl
  | cons b l ih =>
    have h := b.isLt
    simp only [leNat, List.length_cons, natLe]
    rw [show (b.toNat + 256 * leNat l) / 256 = leNat l by omega, ih]
    congr 1
    apply BitVec.eq_of_toNat_eq
    simp only [BitVec.toNat_ofNat]
    omega

theorem leNat_lt (l : List Byte) : leNat l < 256 ^ l.length := by
  induction l with
  | nil => decide
  | cons b l ih =>
    have h := b.isLt
    simp only [leNat, List.length_cons, Nat.pow_succ]
    omega

/-! ### Finite maps -/

theorem look_put_same {α : Type} (m : SMap α) (i : Nat) (v : α) : SMap.look (SMap.put m i v) i = some v := by
  induction m with
  | nil => simp [SMap.put, SMap.look]
  | cons x m ih =>
    obtain ⟨k, w⟩ := x
    simp only [SMap.put]
    split
    · simp [SMap.look]
    · split
      · simp [SMap.look]
      · rename_i h
        simp only [SMap.look, h]
        exact ih

theorem look_put_ne {α : Type} (m : SMap α) (i j : Nat) (v : α) (h : j ≠ i) :
    SMap.look (SMap.put m i v) j = SMap.look m j := by
  induction m with
  | nil => simp [SMap.put, SMap.look, Ne.symm h]
  | cons x m ih =>
    obtain ⟨k, w⟩ := x
    simp only [SMap.put]
    split
    · simp [SMap.look, Ne.symm h]
    · split
      · rename_i hk
        have : k = i := by simpa using hk
        subst this
        simp [SMap.look, Ne.symm h]
      · simp only [SMap.look, ih]

theorem look_del_same {α : Type} (m : SMap α) (i : Nat) : SMap.look (SMap.del m i) i = none := by
  induction m with
  | nil => rfl
  | cons x m ih =>
    obtain ⟨k, w⟩ := x
    by_cases hk : k = i
    · subst hk
      simpa [SMap.del, List.filter_cons] using ih
    · have : (k == i) = false := by simpa using hk
      simpa [SMap.del, List.filter_cons, this, SMap.look] using ih

theorem look_del_ne {α : Type} (m : SMap α) (i j : Nat) (h : j ≠ i) : SMap.look (SMap.del m i) j = SMap.look m j := by
  induction m with
  | nil => rfl
  | cons x m ih =>
    obtain ⟨k, w⟩ := x
    by_cases hk : k = i
    · subst hk
      have hj : (k == j) = false := by simpa using Ne.symm h
      have : SMap.del ((k, w) :: m) k = SMap.del m k := by simp [SMap.del]
      rw [this, ih]
      simp [SMap.look, hj]
    · have hd : SMap.del ((k, w) :: m) i = (k, w) :: SMap.del m i := by
        have : (k == i) = false := by simpa using hk
        simp [SMap.del, this]
      rw [hd]
      simp only [SMap.look, ih]

@[simp] theorem lookD_putD_same {α : Type} [DecidableEq α] (m : SMap α) (i : Nat) (v d : α) :
    SMap.lookD (SMap.putD m i v d) i d = v := by
  unfold SMap.lookD SMap.putD
  split
  · rename_i h
    simp [look_del_same, h]
  · simp [look_put_same]

theorem lookD_putD_ne {α : Type} [DecidableEq α] (m : SMap α) (i j : Nat) (v d e : α) (h : j ≠ i) :
    SMap.lookD (SMap.putD m i v d) j e = SMap.lookD m j e := by
  unfold SMap.lookD SMap.putD
  split
  · rw [look_del_ne m i j h]
  · rw [look_put_ne m i j v h]

/-! ### Bit fields -/

theorem bits_lt (v lo n : Nat) : bits v lo n < 2 ^ n := Nat.mod_lt _ (Nat.two_pow_pos n)

theorem setBits_eq (v lo n x : Nat) :
    setBits v lo n x = v / 2 ^ (lo + n) * 2 ^ (lo + n) + x % 2 ^ n * 2 ^ lo + v % 2 ^ lo := by
  have hp : 2 ^ (lo + n) = 2 ^ lo * 2 ^ n := Nat.pow_add 2 lo n
  have h1 : v = 2 ^ lo * (v / 2 ^ lo) + v % 2 ^ lo := (Nat.div_add_mod v (2 ^ lo)).symm
  have h2 : v / 2 ^ lo = 2 ^ n * (v / 2 ^ lo / 2 ^ n) + v / 2 ^ lo % 2 ^ n := (Nat.div_add_mod _ (2 ^ n)).symm
  have h3 : v / 2 ^ lo / 2 ^ n = v / 2 ^ (lo + n) := by rw [Nat.div_div_eq_div_mul, hp]
  unfold setBits bits
  rw [Nat.shiftRight_eq_div_pow, Nat.shiftLeft_eq, Nat.shiftLeft_eq]
  have h4 : v = v / 2 ^ (lo + n) * 2 ^ (lo + n) + v / 2 ^ lo % 2 ^ n * 2 ^ lo + v % 2 ^ lo := by
    calc v = 2 ^ lo * (v / 2 ^ lo) + v % 2 ^ lo := h1
      _ = 2 ^ lo * (2 ^ n * (v / 2 ^ lo / 2 ^ n) + v / 2 ^ lo % 2 ^ n) + v % 2 ^ lo := by rw [← h2]
      _ = v / 2 ^ (lo + n) * 2 ^ (lo + n) + v / 2 ^ lo % 2 ^ n * 2 ^ lo + v % 2 ^ lo := by
        rw [h3, hp, Nat.mul_add]
        congr 1
        congr 1
        · rw [← Nat.mul_assoc, Nat.mul_comm]
        · rw [Nat.mul_comm]
  omega

/-- A field that has been written reads its value. -/
theorem bits_setBits_same (v lo n x : Nat) : bits (setBits v lo n x) lo n = x % 2 ^ n := by
  have hp : 2 ^ (lo + n) = 2 ^ lo * 2 ^ n := Nat.pow_add 2 lo n
  have hpos : 0 < 2 ^ lo := Nat.two_pow_pos lo
  rw [setBits_eq]
  unfold bits
  rw [Nat.shiftRight_eq_div_pow]
  have : (v / 2 ^ (lo + n) * 2 ^ (lo + n) + x % 2 ^ n * 2 ^ lo + v % 2 ^ lo) / 2 ^ lo =
      v / 2 ^ (lo + n) * 2 ^ n + x % 2 ^ n := by
    have e : v / 2 ^ (lo + n) * 2 ^ (lo + n) + x % 2 ^ n * 2 ^ lo + v % 2 ^ lo =
        v % 2 ^ lo + 2 ^ lo * (v / 2 ^ (lo + n) * 2 ^ n + x % 2 ^ n) := by
      rw [hp, Nat.mul_add, Nat.mul_comm (2 ^ lo) (x % 2 ^ n)]
      have : v / (2 ^ lo * 2 ^ n) * (2 ^ lo * 2 ^ n) = 2 ^ lo * (v / (2 ^ lo * 2 ^ n) * 2 ^ n) := by
        rw [Nat.mul_left_comm]
      omega
    rw [e, Nat.add_mul_div_left _ _ hpos, Nat.div_eq_of_lt (Nat.mod_lt v hpos), Nat.zero_add]
  rw [this, Nat.mul_comm, Nat.mul_add_mod, Nat.mod_mod]

/-- A field below a written one keeps its value. -/
theorem bits_setBits_below (v lo n x a k : Nat) (h : a + k ≤ lo) : bits (setBits v lo n x) a k = bits v a k := by
  have hd : 2 ^ (a + k) ∣ 2 ^ lo := Nat.pow_dvd_pow 2 h
  have key : ∀ w, bits w a k = w % 2 ^ (a + k) / 2 ^ a := by
    intro w
    unfold bits
    rw [Nat.shiftRight_eq_div_pow, Nat.pow_add, Nat.mod_mul_right_div_self]
  have hlo : 2 ^ lo ∣ 2 ^ (lo + n) := Nat.pow_dvd_pow 2 (Nat.le_add_right lo n)
  have e : setBits v lo n x % 2 ^ lo = v % 2 ^ lo := by
    rw [setBits_eq]
    have h1 : 2 ^ lo ∣ v / 2 ^ (lo + n) * 2 ^ (lo + n) + x % 2 ^ n * 2 ^ lo :=
      Nat.dvd_add (Nat.dvd_trans hlo (Nat.dvd_mul_left _ _)) (Nat.dvd_mul_left _ _)
    rw [Nat.add_mod, Nat.mod_eq_zero_of_dvd h1, Nat.zero_add, Nat.mod_mod, Nat.mod_mod]
  rw [key, key, ← Nat.mod_mod_of_dvd (setBits v lo n x) hd, e, Nat.mod_mod_of_dvd v hd]

/-- A field above a written one keeps its value. -/
theorem bits_setBits_above (v lo n x a k : Nat) (h : lo + n ≤ a) : bits (setBits v lo n x) a k = bits v a k := by
  have hx : x % 2 ^ n < 2 ^ n := Nat.mod_lt x (Nat.two_pow_pos n)
  have hl : v % 2 ^ lo < 2 ^ lo := Nat.mod_lt v (Nat.two_pow_pos lo)
  have hp : 2 ^ (lo + n) = 2 ^ lo * 2 ^ n := Nat.pow_add 2 lo n
  have hlow : x % 2 ^ n * 2 ^ lo + v % 2 ^ lo < 2 ^ (lo + n) := by
    have : (x % 2 ^ n + 1) * 2 ^ lo ≤ 2 ^ n * 2 ^ lo := Nat.mul_le_mul_right _ hx
    rw [hp, Nat.mul_comm (2 ^ lo)]
    rw [Nat.add_mul, Nat.one_mul] at this
    omega
  have hdiv : setBits v lo n x / 2 ^ (lo + n) = v / 2 ^ (lo + n) := by
    rw [setBits_eq, Nat.add_assoc, Nat.mul_comm, Nat.mul_add_div (Nat.two_pow_pos _), Nat.div_eq_of_lt hlow, Nat.add_zero]
  obtain ⟨d, rfl⟩ := Nat.exists_eq_add_of_le h
  unfold bits
  rw [Nat.shiftRight_eq_div_pow, Nat.shiftRight_eq_div_pow, Nat.pow_add 2 (lo + n) d, ← Nat.div_div_eq_div_mul,
    ← Nat.div_div_eq_div_mul, hdiv]

/-- Replacing a field inside the low `w` bits keeps a number below `2 ^ w`. -/
theorem setBits_lt (v lo n x w : Nat) (hv : v < 2 ^ w) (h : lo + n ≤ w) : setBits v lo n x < 2 ^ w := by
  have hx : x % 2 ^ n < 2 ^ n := Nat.mod_lt x (Nat.two_pow_pos n)
  have hl : v % 2 ^ lo < 2 ^ lo := Nat.mod_lt v (Nat.two_pow_pos lo)
  have hp : 2 ^ (lo + n) = 2 ^ lo * 2 ^ n := Nat.pow_add 2 lo n
  have hlow : x % 2 ^ n * 2 ^ lo + v % 2 ^ lo < 2 ^ (lo + n) := by
    have : (x % 2 ^ n + 1) * 2 ^ lo ≤ 2 ^ n * 2 ^ lo := Nat.mul_le_mul_right _ hx
    rw [hp, Nat.mul_comm (2 ^ lo)]
    rw [Nat.add_mul, Nat.one_mul] at this
    omega
  obtain ⟨d, rfl⟩ := Nat.exists_eq_add_of_le h
  have hq : v / 2 ^ (lo + n) < 2 ^ d := by
    rw [Nat.div_lt_iff_lt_mul (Nat.two_pow_pos _), ← Nat.pow_add, Nat.add_comm]
    exact hv
  have : (v / 2 ^ (lo + n) + 1) * 2 ^ (lo + n) ≤ 2 ^ d * 2 ^ (lo + n) := Nat.mul_le_mul_right _ hq
  rw [setBits_eq, Nat.pow_add 2 (lo + n) d, Nat.mul_comm (2 ^ (lo + n)) (2 ^ d)]
  rw [Nat.add_mul, Nat.one_mul] at this
  omega

/-! ### Byte memories -/

/-- The canonical form as two properties: keys rise strictly, and no cell holds zero. -/
theorem memory_wf_iff (m : Memory) : Memory.wf m = true ↔ m.Pairwise (fun c d => c.1 < d.1) ∧ ∀ c ∈ m, c.2 ≠ 0 := by
  induction m with
  | nil => simp [Memory.wf]
  | cons x m ih =>
    obtain ⟨a, b⟩ := x
    cases m with
    | nil => simp [Memory.wf]
    | cons y m =>
      obtain ⟨a', b'⟩ := y
      simp only [Memory.wf, Bool.and_eq_true, decide_eq_true_eq, bne_iff_ne, ne_eq]
      constructor
      · rintro ⟨⟨hb, hlt⟩, hw⟩
        have ⟨hp, hz⟩ := ih.mp hw
        refine ⟨List.pairwise_cons.mpr ⟨?_, hp⟩, ?_⟩
        · intro c hc
          rcases List.mem_cons.mp hc with rfl | hc
          · exact hlt
          · exact Nat.lt_trans hlt ((List.pairwise_cons.mp hp).1 c hc)
        · intro c hc
          rcases List.mem_cons.mp hc with rfl | hc
          · exact hb
          · exact hz c hc
      · rintro ⟨hp, hz⟩
        have hp' := List.pairwise_cons.mp hp
        exact ⟨⟨hz (a, b) (by simp), hp'.1 (a', b') (by simp)⟩,
          ih.mpr ⟨hp'.2, fun c hc => hz c (List.mem_cons_of_mem _ hc)⟩⟩

theorem cellsOf_bounds (a : Nat) (l : List Byte) : ∀ c ∈ cellsOf a l, a ≤ c.1 ∧ c.1 < a + l.length ∧ c.2 ≠ 0 := by
  induction l generalizing a with
  | nil => simp [cellsOf]
  | cons b bs ih =>
    intro c hc
    simp only [cellsOf] at hc
    have tail : c ∈ cellsOf (a + 1) bs → a ≤ c.1 ∧ c.1 < a + (b :: bs).length ∧ c.2 ≠ 0 := by
      intro h
      have := ih (a + 1) c h
      simp only [List.length_cons]
      exact ⟨by omega, by omega, this.2.2⟩
    split at hc
    · exact tail hc
    · rename_i hb
      rcases List.mem_cons.mp hc with rfl | hc
      · simp only [List.length_cons]
        exact ⟨by omega, by omega, hb⟩
      · exact tail hc

theorem cellsOf_pairwise (a : Nat) (l : List Byte) : (cellsOf a l).Pairwise (fun c d => c.1 < d.1) := by
  induction l generalizing a with
  | nil => simp [cellsOf]
  | cons b bs ih =>
    simp only [cellsOf]
    split
    · exact ih (a + 1)
    · refine List.pairwise_cons.mpr ⟨fun c hc => ?_, ih (a + 1)⟩
      have := cellsOf_bounds (a + 1) bs c hc
      exact this.1

/-- A store keeps the canonical form of a byte memory. -/
theorem memory_write_wf (m : Memory) (a : Nat) (l : List Byte) (h : Memory.wf m = true) :
    Memory.wf (Memory.write m a l) = true := by
  obtain ⟨hp, hz⟩ := (memory_wf_iff m).mp h
  refine (memory_wf_iff _).mpr ⟨?_, ?_⟩
  · unfold Memory.write
    rw [List.pairwise_append, List.pairwise_append]
    refine ⟨⟨hp.filter _, cellsOf_pairwise a l, ?_⟩, hp.filter _, ?_⟩
    · intro c hc d hd
      have h1 := (List.mem_filter.mp hc).2
      have h2 := cellsOf_bounds a l d hd
      simp only [decide_eq_true_eq] at h1
      omega
    · intro c hc d hd
      have h2 := (List.mem_filter.mp hd).2
      simp only [decide_eq_true_eq] at h2
      rcases List.mem_append.mp hc with hc | hc
      · have h1 := (List.mem_filter.mp hc).2
        simp only [decide_eq_true_eq] at h1
        omega
      · have := cellsOf_bounds a l c hc
        omega
  · intro c hc
    unfold Memory.write at hc
    rcases List.mem_append.mp hc with hc | hc
    · rcases List.mem_append.mp hc with hc | hc
      · exact hz c (List.mem_filter.mp hc).1
      · exact (cellsOf_bounds a l c hc).2.2
    · exact hz c (List.mem_filter.mp hc).1

/-- Clearing a range keeps the canonical form of a byte memory. -/
theorem memory_clear_wf (m : Memory) (a n : Nat) (h : Memory.wf m = true) : Memory.wf (Memory.clear m a n) = true := by
  obtain ⟨hp, hz⟩ := (memory_wf_iff m).mp h
  exact (memory_wf_iff _).mpr ⟨hp.filter _, fun c hc => hz c (List.mem_filter.mp hc).1⟩

theorem look_append {α : Type} (m n : SMap α) (i : Nat) : SMap.look (m ++ n) i = (SMap.look m i).or (SMap.look n i) := by
  induction m with
  | nil => simp [SMap.look]
  | cons x m ih =>
    obtain ⟨k, w⟩ := x
    simp only [List.cons_append, SMap.look]
    split
    · rfl
    · exact ih

theorem look_filter_in {α : Type} (m : SMap α) (q : Nat → Bool) (i : Nat) (h : q i = true) :
    SMap.look (m.filter (fun c => q c.1)) i = SMap.look m i := by
  induction m with
  | nil => rfl
  | cons x m ih =>
    obtain ⟨k, w⟩ := x
    by_cases hk : k = i
    · subst hk
      simp [h, SMap.look]
    · have hb : (k == i) = false := by simpa using hk
      by_cases hq : q k = true
      · simp [hq, SMap.look, hb, ih]
      · simp [hq, SMap.look, hb, ih]

theorem look_filter_out {α : Type} (m : SMap α) (q : Nat → Bool) (i : Nat) (h : q i = false) :
    SMap.look (m.filter (fun c => q c.1)) i = none := by
  induction m with
  | nil => rfl
  | cons x m ih =>
    obtain ⟨k, w⟩ := x
    by_cases hk : k = i
    · subst hk
      simp [h, ih]
    · have hb : (k == i) = false := by simpa using hk
      by_cases hq : q k = true
      · simp [hq, SMap.look, hb, ih]
      · simp [hq, ih]

theorem look_cellsOf (a i : Nat) (l : List Byte) :
    (SMap.look (cellsOf a l) i).getD 0 = if a ≤ i ∧ i < a + l.length then l.getD (i - a) 0 else 0 := by
  induction l generalizing a with
  | nil =>
    simp only [cellsOf, SMap.look, Option.getD_none, List.length_nil]
    split <;> simp
  | cons b bs ih =>
    have hs : (SMap.look (cellsOf a (b :: bs)) i).getD 0 =
        if a = i then b else (SMap.look (cellsOf (a + 1) bs) i).getD 0 := by
      by_cases hai : a = i
      · subst hai
        simp only [cellsOf]
        split
        · rename_i hb
          rw [ih, if_neg (by omega), if_pos trivial, hb]
        · simp [SMap.look]
      · simp only [cellsOf, if_neg hai]
        have hb' : (a == i) = false := by simpa using hai
        split
        · rfl
        · simp [SMap.look, hb']
    rw [hs]
    by_cases hai : a = i
    · subst hai
      simp
    · rw [if_neg hai, ih]
      by_cases hr : a + 1 ≤ i ∧ i < a + 1 + bs.length
      · rw [if_pos hr, if_pos (by simp only [List.length_cons]; omega)]
        have : i - a = (i - (a + 1)) + 1 := by omega
        rw [this]
        simp
      · rw [if_neg hr, if_neg (by simp only [List.length_cons]; omega)]

/-- A byte read after a store: the stored byte inside the store, the old byte outside it. -/
theorem memory_byte_write (m : Memory) (a b : Nat) (l : List Byte) :
    Memory.byte (Memory.write m a l) b =
      if a ≤ b ∧ b < a + l.length then l.getD (b - a) 0 else Memory.byte m b := by
  unfold Memory.byte Memory.write SMap.lookD
  rw [look_append, look_append]
  by_cases h1 : b < a
  · rw [look_filter_in m (fun k => decide (k < a)) b (by simpa using h1),
      look_filter_out m (fun k => decide (a + l.length ≤ k)) b (by simp only [decide_eq_false_iff_not]; omega)]
    have hc := look_cellsOf a b l
    rw [if_neg (by omega)] at hc ⊢
    cases h : SMap.look m b with
    | some v => simp
    | none => simpa [h] using hc
  · rw [look_filter_out m (fun k => decide (k < a)) b (by simpa using h1)]
    by_cases h2 : a + l.length ≤ b
    · have hn : SMap.look (cellsOf a l) b = none := by
        cases hh : SMap.look (cellsOf a l) b with
        | none => rfl
        | some v =>
          have mem : ∀ (m : SMap Byte) (v : Byte), SMap.look m b = some v → (b, v) ∈ m := by
            intro m
            induction m with
            | nil => intro v h; simp [SMap.look] at h
            | cons x m ih =>
              obtain ⟨k, w⟩ := x
              intro v h
              simp only [SMap.look] at h
              split at h
              · rename_i hk
                have : k = b := by simpa using hk
                subst this
                simp only [Option.some.injEq] at h
                subst h
                simp
              · exact List.mem_cons_of_mem _ (ih v h)
          have := cellsOf_bounds a l (b, v) (mem _ v hh)
          omega
      rw [look_filter_in m (fun k => decide (a + l.length ≤ k)) b (by simpa using h2), hn, if_neg (by omega)]
      simp
    · rw [look_filter_out m (fun k => decide (a + l.length ≤ k)) b (by simpa using h2)]
      have hc := look_cellsOf a b l
      rw [if_pos (by omega)] at hc ⊢
      simpa using hc

/-- A byte read after a range has been cleared. -/
theorem memory_byte_clear (m : Memory) (a n b : Nat) :
    Memory.byte (Memory.clear m a n) b = if a ≤ b ∧ b < a + n then 0 else Memory.byte m b := by
  unfold Memory.byte Memory.clear SMap.lookD
  have e : (m.filter fun c => !inRange a n c) = m.filter (fun c => (fun k => !(decide (a ≤ k) && decide (k < a + n))) c.1) := rfl
  rw [e]
  by_cases h : a ≤ b ∧ b < a + n
  · rw [look_filter_out m (fun k => !(decide (a ≤ k) && decide (k < a + n))) b (by simpa using h), if_pos h]
    rfl
  · rw [look_filter_in m (fun k => !(decide (a ≤ k) && decide (k < a + n))) b
      (by simp only [Bool.not_eq_true', Bool.and_eq_false_iff, decide_eq_false_iff_not]; omega), if_neg h]

/-! ### Keys of a map in order -/

theorem rising_iff {α : Type} (m : SMap α) : SMap.rising m = true ↔ m.Pairwise (fun c d => c.1 < d.1) := by
  induction m with
  | nil => simp [SMap.rising]
  | cons x m ih =>
    obtain ⟨a, b⟩ := x
    cases m with
    | nil => simp [SMap.rising]
    | cons y m =>
      obtain ⟨a', b'⟩ := y
      simp only [SMap.rising, Bool.and_eq_true, decide_eq_true_eq]
      constructor
      · rintro ⟨hlt, hw⟩
        have hp := ih.mp hw
        refine List.pairwise_cons.mpr ⟨?_, hp⟩
        intro c hc
        rcases List.mem_cons.mp hc with rfl | hc
        · exact hlt
        · exact Nat.lt_trans hlt ((List.pairwise_cons.mp hp).1 c hc)
      · intro hp
        have hp' := List.pairwise_cons.mp hp
        exact ⟨hp'.1 (a', b') (by simp), ih.mpr hp'.2⟩

theorem mem_put {α : Type} (m : SMap α) (i : Nat) (v : α) (x : Nat × α) (h : x ∈ SMap.put m i v) : x = (i, v) ∨ x ∈ m := by
  induction m with
  | nil => simpa [SMap.put] using h
  | cons y m ih =>
    obtain ⟨k, w⟩ := y
    simp only [SMap.put] at h
    split at h
    · simpa using h
    · split at h
      · rcases List.mem_cons.mp h with h | h
        · exact Or.inl h
        · exact Or.inr (List.mem_cons_of_mem _ h)
      · rcases List.mem_cons.mp h with h | h
        · exact Or.inr (by simp [h])
        · exact (ih h).imp id (List.mem_cons_of_mem _)

theorem put_pairwise {α : Type} (m : SMap α) (i : Nat) (v : α) (h : m.Pairwise (fun c d => c.1 < d.1)) :
    (SMap.put m i v).Pairwise (fun c d => c.1 < d.1) := by
  induction m with
  | nil => simp [SMap.put]
  | cons y m ih =>
    obtain ⟨k, w⟩ := y
    have hp := List.pairwise_cons.mp h
    simp only [SMap.put]
    split
    · rename_i hik
      refine List.pairwise_cons.mpr ⟨?_, h⟩
      intro c hc
      rcases List.mem_cons.mp hc with rfl | hc
      · exact hik
      · exact Nat.lt_trans hik (hp.1 c hc)
    · split
      · rename_i hk
        have : k = i := by simpa using hk
        subst this
        exact List.pairwise_cons.mpr ⟨hp.1, hp.2⟩
      · rename_i h1 h2
        refine List.pairwise_cons.mpr ⟨?_, ih hp.2⟩
        intro c hc
        rcases mem_put m i v c hc with rfl | hc
        · have : k ≠ i := by simpa using h2
          show k < i
          omega
        · exact hp.1 c hc

/-- A write to a map keeps its keys rising. -/
theorem putD_rising {α : Type} [DecidableEq α] (m : SMap α) (i : Nat) (v d : α) (h : SMap.rising m = true) :
    SMap.rising (SMap.putD m i v d) = true := by
  rw [rising_iff] at *
  unfold SMap.putD
  split
  · exact h.filter _
  · exact put_pairwise m i v h

end Sys2Proof.Laws
end

