-- ==== Sys2Proof/Laws/State.lean ====
section
/-!
SUPPORT. What each update of the state leaves as it was, field by field, and what it gives back when it is read.
-/
namespace Sys2Proof.Laws
open Sys2Proof.Machine

/-! ### State.setWord -/

@[simp] theorem setWord_pending (s : State) (a : Nat) (v : Word) : (s.setWord a v).pending = s.pending := rfl
@[simp] theorem setWord_time (s : State) (a : Nat) (v : Word) : (s.setWord a v).time = s.time := rfl
@[simp] theorem setWord_fuses (s : State) (a : Nat) (v : Word) : (s.setWord a v).fuses = s.fuses := rfl
@[simp] theorem setWord_pins (s : State) (a : Nat) (v : Word) : (s.setWord a v).pins = s.pins := rfl
@[simp] theorem setWord_flash (s : State) (a : Nat) (v : Word) : (s.setWord a v).flash = s.flash := rfl
@[simp] theorem setWord_cores (s : State) (a : Nat) (v : Word) : (s.setWord a v).cores = s.cores := rfl
@[simp] theorem setWord_logical (s : State) (a : Nat) (v : Word) : (s.setWord a v).logical = s.logical := rfl
@[simp] theorem setWord_ctxs (s : State) (a : Nat) (v : Word) : (s.setWord a v).ctxs = s.ctxs := rfl
@[simp] theorem setWord_hbm (s : State) (a : Nat) (v : Word) : (s.setWord a v).hbm = s.hbm := rfl
@[simp] theorem setWord_ue (s : State) (a : Nat) (v : Word) : (s.setWord a v).ue = s.ue := rfl
@[simp] theorem setWord_plinths (s : State) (a : Nat) (v : Word) : (s.setWord a v).plinths = s.plinths := rfl
@[simp] theorem setWord_out (s : State) (a : Nat) (v : Word) : (s.setWord a v).out = s.out := rfl
@[simp] theorem setWord_nextTag (s : State) (a : Nat) (v : Word) : (s.setWord a v).nextTag = s.nextTag := rfl
@[simp] theorem setWord_retry (s : State) (a : Nat) (v : Word) : (s.setWord a v).retry = s.retry := rfl
@[simp] theorem setWord_incs (s : State) (a : Nat) (v : Word) : (s.setWord a v).incs = s.incs := rfl
@[simp] theorem setWord_ports (s : State) (a : Nat) (v : Word) : (s.setWord a v).ports = s.ports := rfl
@[simp] theorem setWord_pauses (s : State) (a : Nat) (v : Word) : (s.setWord a v).pauses = s.pauses := rfl
@[simp] theorem setWord_seen (s : State) (a : Nat) (v : Word) : (s.setWord a v).seen = s.seen := rfl
@[simp] theorem setWord_noticeSeq (s : State) (a : Nat) (v : Word) : (s.setWord a v).noticeSeq = s.noticeSeq := rfl
@[simp] theorem setWord_wits (s : State) (a : Nat) (v : Word) : (s.setWord a v).wits = s.wits := rfl
@[simp] theorem setWord_queues (s : State) (a : Nat) (v : Word) : (s.setWord a v).queues = s.queues := rfl
@[simp] theorem setWord_msix (s : State) (a : Nat) (v : Word) : (s.setWord a v).msix = s.msix := rfl
@[simp] theorem setWord_evtLost (s : State) (a : Nat) (v : Word) : (s.setWord a v).evtLost = s.evtLost := rfl
@[simp] theorem setWord_mbx (s : State) (a : Nat) (v : Word) : (s.setWord a v).mbx = s.mbx := rfl
@[simp] theorem setWord_snoop (s : State) (a : Nat) (v : Word) : (s.setWord a v).snoop = s.snoop := rfl
@[simp] theorem setWord_biSent (s : State) (a : Nat) (v : Word) : (s.setWord a v).biSent = s.biSent := rfl
@[simp] theorem setWord_lineReqs (s : State) (a : Nat) (v : Word) : (s.setWord a v).lineReqs = s.lineReqs := rfl
@[simp] theorem setWord_biWait (s : State) (a : Nat) (v : Word) : (s.setWord a v).biWait = s.biWait := rfl
@[simp] theorem setWord_logs (s : State) (a : Nat) (v : Word) : (s.setWord a v).logs = s.logs := rfl
@[simp] theorem setWord_jig (s : State) (a : Nat) (v : Word) : (s.setWord a v).jig = s.jig := rfl
@[simp] theorem setWord_recov (s : State) (a : Nat) (v : Word) : (s.setWord a v).recov = s.recov := rfl
@[simp] theorem setWord_fw (s : State) (a : Nat) (v : Word) : (s.setWord a v).fw = s.fw := rfl
@[simp] theorem setWord_clamp (s : State) (a : Nat) (v : Word) : (s.setWord a v).clamp = s.clamp := rfl
@[simp] theorem setWord_cdc (s : State) (a : Nat) (v : Word) : (s.setWord a v).cdc = s.cdc := rfl
@[simp] theorem setWord_prog (s : State) (a : Nat) (v : Word) : (s.setWord a v).prog = s.prog := rfl
@[simp] theorem setWord_free (s : State) (a : Nat) (v : Word) : (s.setWord a v).free = s.free := rfl
@[simp] theorem setWord_outbox (s : State) (a : Nat) (v : Word) : (s.setWord a v).outbox = s.outbox := rfl

/-! ### State.wr -/

@[simp] theorem wr_pending (s : State) (r : Nat) (f : Field) (v : Nat) : (s.wr r f v).pending = s.pending := rfl
@[simp] theorem wr_time (s : State) (r : Nat) (f : Field) (v : Nat) : (s.wr r f v).time = s.time := rfl
@[simp] theorem wr_fuses (s : State) (r : Nat) (f : Field) (v : Nat) : (s.wr r f v).fuses = s.fuses := rfl
@[simp] theorem wr_pins (s : State) (r : Nat) (f : Field) (v : Nat) : (s.wr r f v).pins = s.pins := rfl
@[simp] theorem wr_flash (s : State) (r : Nat) (f : Field) (v : Nat) : (s.wr r f v).flash = s.flash := rfl
@[simp] theorem wr_cores (s : State) (r : Nat) (f : Field) (v : Nat) : (s.wr r f v).cores = s.cores := rfl
@[simp] theorem wr_logical (s : State) (r : Nat) (f : Field) (v : Nat) : (s.wr r f v).logical = s.logical := rfl
@[simp] theorem wr_ctxs (s : State) (r : Nat) (f : Field) (v : Nat) : (s.wr r f v).ctxs = s.ctxs := rfl
@[simp] theorem wr_hbm (s : State) (r : Nat) (f : Field) (v : Nat) : (s.wr r f v).hbm = s.hbm := rfl
@[simp] theorem wr_ue (s : State) (r : Nat) (f : Field) (v : Nat) : (s.wr r f v).ue = s.ue := rfl
@[simp] theorem wr_plinths (s : State) (r : Nat) (f : Field) (v : Nat) : (s.wr r f v).plinths = s.plinths := rfl
@[simp] theorem wr_out (s : State) (r : Nat) (f : Field) (v : Nat) : (s.wr r f v).out = s.out := rfl
@[simp] theorem wr_nextTag (s : State) (r : Nat) (f : Field) (v : Nat) : (s.wr r f v).nextTag = s.nextTag := rfl
@[simp] theorem wr_retry (s : State) (r : Nat) (f : Field) (v : Nat) : (s.wr r f v).retry = s.retry := rfl
@[simp] theorem wr_incs (s : State) (r : Nat) (f : Field) (v : Nat) : (s.wr r f v).incs = s.incs := rfl
@[simp] theorem wr_ports (s : State) (r : Nat) (f : Field) (v : Nat) : (s.wr r f v).ports = s.ports := rfl
@[simp] theorem wr_pauses (s : State) (r : Nat) (f : Field) (v : Nat) : (s.wr r f v).pauses = s.pauses := rfl
@[simp] theorem wr_seen (s : State) (r : Nat) (f : Field) (v : Nat) : (s.wr r f v).seen = s.seen := rfl
@[simp] theorem wr_noticeSeq (s : State) (r : Nat) (f : Field) (v : Nat) : (s.wr r f v).noticeSeq = s.noticeSeq := rfl
@[simp] theorem wr_wits (s : State) (r : Nat) (f : Field) (v : Nat) : (s.wr r f v).wits = s.wits := rfl
@[simp] theorem wr_queues (s : State) (r : Nat) (f : Field) (v : Nat) : (s.wr r f v).queues = s.queues := rfl
@[simp] theorem wr_msix (s : State) (r : Nat) (f : Field) (v : Nat) : (s.wr r f v).msix = s.msix := rfl
@[simp] theorem wr_evtLost (s : State) (r : Nat) (f : Field) (v : Nat) : (s.wr r f v).evtLost = s.evtLost := rfl
@[simp] theorem wr_mbx (s : State) (r : Nat) (f : Field) (v : Nat) : (s.wr r f v).mbx = s.mbx := rfl
@[simp] theorem wr_snoop (s : State) (r : Nat) (f : Field) (v : Nat) : (s.wr r f v).snoop = s.snoop := rfl
@[simp] theorem wr_biSent (s : State) (r : Nat) (f : Field) (v : Nat) : (s.wr r f v).biSent = s.biSent := rfl
@[simp] theorem wr_lineReqs (s : State) (r : Nat) (f : Field) (v : Nat) : (s.wr r f v).lineReqs = s.lineReqs := rfl
@[simp] theorem wr_biWait (s : State) (r : Nat) (f : Field) (v : Nat) : (s.wr r f v).biWait = s.biWait := rfl
@[simp] theorem wr_logs (s : State) (r : Nat) (f : Field) (v : Nat) : (s.wr r f v).logs = s.logs := rfl
@[simp] theorem wr_jig (s : State) (r : Nat) (f : Field) (v : Nat) : (s.wr r f v).jig = s.jig := rfl
@[simp] theorem wr_recov (s : State) (r : Nat) (f : Field) (v : Nat) : (s.wr r f v).recov = s.recov := rfl
@[simp] theorem wr_fw (s : State) (r : Nat) (f : Field) (v : Nat) : (s.wr r f v).fw = s.fw := rfl
@[simp] theorem wr_clamp (s : State) (r : Nat) (f : Field) (v : Nat) : (s.wr r f v).clamp = s.clamp := rfl
@[simp] theorem wr_cdc (s : State) (r : Nat) (f : Field) (v : Nat) : (s.wr r f v).cdc = s.cdc := rfl
@[simp] theorem wr_prog (s : State) (r : Nat) (f : Field) (v : Nat) : (s.wr r f v).prog = s.prog := rfl
@[simp] theorem wr_free (s : State) (r : Nat) (f : Field) (v : Nat) : (s.wr r f v).free = s.free := rfl
@[simp] theorem wr_outbox (s : State) (r : Nat) (f : Field) (v : Nat) : (s.wr r f v).outbox = s.outbox := rfl

/-! ### State.bump -/

@[simp] theorem bump_pending (s : State) (r : Nat) (f : Field) (k : Nat) : (s.bump r f k).pending = s.pending := rfl
@[simp] theorem bump_time (s : State) (r : Nat) (f : Field) (k : Nat) : (s.bump r f k).time = s.time := rfl
@[simp] theorem bump_fuses (s : State) (r : Nat) (f : Field) (k : Nat) : (s.bump r f k).fuses = s.fuses := rfl
@[simp] theorem bump_pins (s : State) (r : Nat) (f : Field) (k : Nat) : (s.bump r f k).pins = s.pins := rfl
@[simp] theorem bump_flash (s : State) (r : Nat) (f : Field) (k : Nat) : (s.bump r f k).flash = s.flash := rfl
@[simp] theorem bump_cores (s : State) (r : Nat) (f : Field) (k : Nat) : (s.bump r f k).cores = s.cores := rfl
@[simp] theorem bump_logical (s : State) (r : Nat) (f : Field) (k : Nat) : (s.bump r f k).logical = s.logical := rfl
@[simp] theorem bump_ctxs (s : State) (r : Nat) (f : Field) (k : Nat) : (s.bump r f k).ctxs = s.ctxs := rfl
@[simp] theorem bump_hbm (s : State) (r : Nat) (f : Field) (k : Nat) : (s.bump r f k).hbm = s.hbm := rfl
@[simp] theorem bump_ue (s : State) (r : Nat) (f : Field) (k : Nat) : (s.bump r f k).ue = s.ue := rfl
@[simp] theorem bump_plinths (s : State) (r : Nat) (f : Field) (k : Nat) : (s.bump r f k).plinths = s.plinths := rfl
@[simp] theorem bump_out (s : State) (r : Nat) (f : Field) (k : Nat) : (s.bump r f k).out = s.out := rfl
@[simp] theorem bump_nextTag (s : State) (r : Nat) (f : Field) (k : Nat) : (s.bump r f k).nextTag = s.nextTag := rfl
@[simp] theorem bump_retry (s : State) (r : Nat) (f : Field) (k : Nat) : (s.bump r f k).retry = s.retry := rfl
@[simp] theorem bump_incs (s : State) (r : Nat) (f : Field) (k : Nat) : (s.bump r f k).incs = s.incs := rfl
@[simp] theorem bump_ports (s : State) (r : Nat) (f : Field) (k : Nat) : (s.bump r f k).ports = s.ports := rfl
@[simp] theorem bump_pauses (s : State) (r : Nat) (f : Field) (k : Nat) : (s.bump r f k).pauses = s.pauses := rfl
@[simp] theorem bump_seen (s : State) (r : Nat) (f : Field) (k : Nat) : (s.bump r f k).seen = s.seen := rfl
@[simp] theorem bump_noticeSeq (s : State) (r : Nat) (f : Field) (k : Nat) : (s.bump r f k).noticeSeq = s.noticeSeq := rfl
@[simp] theorem bump_wits (s : State) (r : Nat) (f : Field) (k : Nat) : (s.bump r f k).wits = s.wits := rfl
@[simp] theorem bump_queues (s : State) (r : Nat) (f : Field) (k : Nat) : (s.bump r f k).queues = s.queues := rfl
@[simp] theorem bump_msix (s : State) (r : Nat) (f : Field) (k : Nat) : (s.bump r f k).msix = s.msix := rfl
@[simp] theorem bump_evtLost (s : State) (r : Nat) (f : Field) (k : Nat) : (s.bump r f k).evtLost = s.evtLost := rfl
@[simp] theorem bump_mbx (s : State) (r : Nat) (f : Field) (k : Nat) : (s.bump r f k).mbx = s.mbx := rfl
@[simp] theorem bump_snoop (s : State) (r : Nat) (f : Field) (k : Nat) : (s.bump r f k).snoop = s.snoop := rfl
@[simp] theorem bump_biSent (s : State) (r : Nat) (f : Field) (k : Nat) : (s.bump r f k).biSent = s.biSent := rfl
@[simp] theorem bump_lineReqs (s : State) (r : Nat) (f : Field) (k : Nat) : (s.bump r f k).lineReqs = s.lineReqs := rfl
@[simp] theorem bump_biWait (s : State) (r : Nat) (f : Field) (k : Nat) : (s.bump r f k).biWait = s.biWait := rfl
@[simp] theorem bump_logs (s : State) (r : Nat) (f : Field) (k : Nat) : (s.bump r f k).logs = s.logs := rfl
@[simp] theorem bump_jig (s : State) (r : Nat) (f : Field) (k : Nat) : (s.bump r f k).jig = s.jig := rfl
@[simp] theorem bump_recov (s : State) (r : Nat) (f : Field) (k : Nat) : (s.bump r f k).recov = s.recov := rfl
@[simp] theorem bump_fw (s : State) (r : Nat) (f : Field) (k : Nat) : (s.bump r f k).fw = s.fw := rfl
@[simp] theorem bump_clamp (s : State) (r : Nat) (f : Field) (k : Nat) : (s.bump r f k).clamp = s.clamp := rfl
@[simp] theorem bump_cdc (s : State) (r : Nat) (f : Field) (k : Nat) : (s.bump r f k).cdc = s.cdc := rfl
@[simp] theorem bump_prog (s : State) (r : Nat) (f : Field) (k : Nat) : (s.bump r f k).prog = s.prog := rfl
@[simp] theorem bump_free (s : State) (r : Nat) (f : Field) (k : Nat) : (s.bump r f k).free = s.free := rfl
@[simp] theorem bump_outbox (s : State) (r : Nat) (f : Field) (k : Nat) : (s.bump r f k).outbox = s.outbox := rfl

/-! ### State.count -/

@[simp] theorem count_pending (s : State) (r : Nat) (f : Field) (k : Nat) : (s.count r f k).pending = s.pending := rfl
@[simp] theorem count_time (s : State) (r : Nat) (f : Field) (k : Nat) : (s.count r f k).time = s.time := rfl
@[simp] theorem count_fuses (s : State) (r : Nat) (f : Field) (k : Nat) : (s.count r f k).fuses = s.fuses := rfl
@[simp] theorem count_pins (s : State) (r : Nat) (f : Field) (k : Nat) : (s.count r f k).pins = s.pins := rfl
@[simp] theorem count_flash (s : State) (r : Nat) (f : Field) (k : Nat) : (s.count r f k).flash = s.flash := rfl
@[simp] theorem count_cores (s : State) (r : Nat) (f : Field) (k : Nat) : (s.count r f k).cores = s.cores := rfl
@[simp] theorem count_logical (s : State) (r : Nat) (f : Field) (k : Nat) : (s.count r f k).logical = s.logical := rfl
@[simp] theorem count_ctxs (s : State) (r : Nat) (f : Field) (k : Nat) : (s.count r f k).ctxs = s.ctxs := rfl
@[simp] theorem count_hbm (s : State) (r : Nat) (f : Field) (k : Nat) : (s.count r f k).hbm = s.hbm := rfl
@[simp] theorem count_ue (s : State) (r : Nat) (f : Field) (k : Nat) : (s.count r f k).ue = s.ue := rfl
@[simp] theorem count_plinths (s : State) (r : Nat) (f : Field) (k : Nat) : (s.count r f k).plinths = s.plinths := rfl
@[simp] theorem count_out (s : State) (r : Nat) (f : Field) (k : Nat) : (s.count r f k).out = s.out := rfl
@[simp] theorem count_nextTag (s : State) (r : Nat) (f : Field) (k : Nat) : (s.count r f k).nextTag = s.nextTag := rfl
@[simp] theorem count_retry (s : State) (r : Nat) (f : Field) (k : Nat) : (s.count r f k).retry = s.retry := rfl
@[simp] theorem count_incs (s : State) (r : Nat) (f : Field) (k : Nat) : (s.count r f k).incs = s.incs := rfl
@[simp] theorem count_ports (s : State) (r : Nat) (f : Field) (k : Nat) : (s.count r f k).ports = s.ports := rfl
@[simp] theorem count_pauses (s : State) (r : Nat) (f : Field) (k : Nat) : (s.count r f k).pauses = s.pauses := rfl
@[simp] theorem count_seen (s : State) (r : Nat) (f : Field) (k : Nat) : (s.count r f k).seen = s.seen := rfl
@[simp] theorem count_noticeSeq (s : State) (r : Nat) (f : Field) (k : Nat) : (s.count r f k).noticeSeq = s.noticeSeq := rfl
@[simp] theorem count_wits (s : State) (r : Nat) (f : Field) (k : Nat) : (s.count r f k).wits = s.wits := rfl
@[simp] theorem count_queues (s : State) (r : Nat) (f : Field) (k : Nat) : (s.count r f k).queues = s.queues := rfl
@[simp] theorem count_msix (s : State) (r : Nat) (f : Field) (k : Nat) : (s.count r f k).msix = s.msix := rfl
@[simp] theorem count_evtLost (s : State) (r : Nat) (f : Field) (k : Nat) : (s.count r f k).evtLost = s.evtLost := rfl
@[simp] theorem count_mbx (s : State) (r : Nat) (f : Field) (k : Nat) : (s.count r f k).mbx = s.mbx := rfl
@[simp] theorem count_snoop (s : State) (r : Nat) (f : Field) (k : Nat) : (s.count r f k).snoop = s.snoop := rfl
@[simp] theorem count_biSent (s : State) (r : Nat) (f : Field) (k : Nat) : (s.count r f k).biSent = s.biSent := rfl
@[simp] theorem count_lineReqs (s : State) (r : Nat) (f : Field) (k : Nat) : (s.count r f k).lineReqs = s.lineReqs := rfl
@[simp] theorem count_biWait (s : State) (r : Nat) (f : Field) (k : Nat) : (s.count r f k).biWait = s.biWait := rfl
@[simp] theorem count_logs (s : State) (r : Nat) (f : Field) (k : Nat) : (s.count r f k).logs = s.logs := rfl
@[simp] theorem count_jig (s : State) (r : Nat) (f : Field) (k : Nat) : (s.count r f k).jig = s.jig := rfl
@[simp] theorem count_recov (s : State) (r : Nat) (f : Field) (k : Nat) : (s.count r f k).recov = s.recov := rfl
@[simp] theorem count_fw (s : State) (r : Nat) (f : Field) (k : Nat) : (s.count r f k).fw = s.fw := rfl
@[simp] theorem count_clamp (s : State) (r : Nat) (f : Field) (k : Nat) : (s.count r f k).clamp = s.clamp := rfl
@[simp] theorem count_cdc (s : State) (r : Nat) (f : Field) (k : Nat) : (s.count r f k).cdc = s.cdc := rfl
@[simp] theorem count_prog (s : State) (r : Nat) (f : Field) (k : Nat) : (s.count r f k).prog = s.prog := rfl
@[simp] theorem count_free (s : State) (r : Nat) (f : Field) (k : Nat) : (s.count r f k).free = s.free := rfl
@[simp] theorem count_outbox (s : State) (r : Nat) (f : Field) (k : Nat) : (s.count r f k).outbox = s.outbox := rfl

/-! ### State.setCore -/

@[simp] theorem setCore_pending (s : State) (p : Nat) (x : Core) : (s.setCore p x).pending = s.pending := rfl
@[simp] theorem setCore_regs (s : State) (p : Nat) (x : Core) : (s.setCore p x).regs = s.regs := rfl
@[simp] theorem setCore_time (s : State) (p : Nat) (x : Core) : (s.setCore p x).time = s.time := rfl
@[simp] theorem setCore_fuses (s : State) (p : Nat) (x : Core) : (s.setCore p x).fuses = s.fuses := rfl
@[simp] theorem setCore_pins (s : State) (p : Nat) (x : Core) : (s.setCore p x).pins = s.pins := rfl
@[simp] theorem setCore_flash (s : State) (p : Nat) (x : Core) : (s.setCore p x).flash = s.flash := rfl
@[simp] theorem setCore_logical (s : State) (p : Nat) (x : Core) : (s.setCore p x).logical = s.logical := rfl
@[simp] theorem setCore_ctxs (s : State) (p : Nat) (x : Core) : (s.setCore p x).ctxs = s.ctxs := rfl
@[simp] theorem setCore_hbm (s : State) (p : Nat) (x : Core) : (s.setCore p x).hbm = s.hbm := rfl
@[simp] theorem setCore_ue (s : State) (p : Nat) (x : Core) : (s.setCore p x).ue = s.ue := rfl
@[simp] theorem setCore_plinths (s : State) (p : Nat) (x : Core) : (s.setCore p x).plinths = s.plinths := rfl
@[simp] theorem setCore_out (s : State) (p : Nat) (x : Core) : (s.setCore p x).out = s.out := rfl
@[simp] theorem setCore_nextTag (s : State) (p : Nat) (x : Core) : (s.setCore p x).nextTag = s.nextTag := rfl
@[simp] theorem setCore_retry (s : State) (p : Nat) (x : Core) : (s.setCore p x).retry = s.retry := rfl
@[simp] theorem setCore_incs (s : State) (p : Nat) (x : Core) : (s.setCore p x).incs = s.incs := rfl
@[simp] theorem setCore_ports (s : State) (p : Nat) (x : Core) : (s.setCore p x).ports = s.ports := rfl
@[simp] theorem setCore_pauses (s : State) (p : Nat) (x : Core) : (s.setCore p x).pauses = s.pauses := rfl
@[simp] theorem setCore_seen (s : State) (p : Nat) (x : Core) : (s.setCore p x).seen = s.seen := rfl
@[simp] theorem setCore_noticeSeq (s : State) (p : Nat) (x : Core) : (s.setCore p x).noticeSeq = s.noticeSeq := rfl
@[simp] theorem setCore_wits (s : State) (p : Nat) (x : Core) : (s.setCore p x).wits = s.wits := rfl
@[simp] theorem setCore_queues (s : State) (p : Nat) (x : Core) : (s.setCore p x).queues = s.queues := rfl
@[simp] theorem setCore_msix (s : State) (p : Nat) (x : Core) : (s.setCore p x).msix = s.msix := rfl
@[simp] theorem setCore_evtLost (s : State) (p : Nat) (x : Core) : (s.setCore p x).evtLost = s.evtLost := rfl
@[simp] theorem setCore_mbx (s : State) (p : Nat) (x : Core) : (s.setCore p x).mbx = s.mbx := rfl
@[simp] theorem setCore_snoop (s : State) (p : Nat) (x : Core) : (s.setCore p x).snoop = s.snoop := rfl
@[simp] theorem setCore_biSent (s : State) (p : Nat) (x : Core) : (s.setCore p x).biSent = s.biSent := rfl
@[simp] theorem setCore_lineReqs (s : State) (p : Nat) (x : Core) : (s.setCore p x).lineReqs = s.lineReqs := rfl
@[simp] theorem setCore_biWait (s : State) (p : Nat) (x : Core) : (s.setCore p x).biWait = s.biWait := rfl
@[simp] theorem setCore_logs (s : State) (p : Nat) (x : Core) : (s.setCore p x).logs = s.logs := rfl
@[simp] theorem setCore_jig (s : State) (p : Nat) (x : Core) : (s.setCore p x).jig = s.jig := rfl
@[simp] theorem setCore_recov (s : State) (p : Nat) (x : Core) : (s.setCore p x).recov = s.recov := rfl
@[simp] theorem setCore_fw (s : State) (p : Nat) (x : Core) : (s.setCore p x).fw = s.fw := rfl
@[simp] theorem setCore_clamp (s : State) (p : Nat) (x : Core) : (s.setCore p x).clamp = s.clamp := rfl
@[simp] theorem setCore_cdc (s : State) (p : Nat) (x : Core) : (s.setCore p x).cdc = s.cdc := rfl
@[simp] theorem setCore_prog (s : State) (p : Nat) (x : Core) : (s.setCore p x).prog = s.prog := rfl
@[simp] theorem setCore_free (s : State) (p : Nat) (x : Core) : (s.setCore p x).free = s.free := rfl
@[simp] theorem setCore_outbox (s : State) (p : Nat) (x : Core) : (s.setCore p x).outbox = s.outbox := rfl

/-! ### State.setCtx -/

@[simp] theorem setCtx_pending (s : State) (c : Nat) (x : Ctx) : (s.setCtx c x).pending = s.pending := rfl
@[simp] theorem setCtx_regs (s : State) (c : Nat) (x : Ctx) : (s.setCtx c x).regs = s.regs := rfl
@[simp] theorem setCtx_time (s : State) (c : Nat) (x : Ctx) : (s.setCtx c x).time = s.time := rfl
@[simp] theorem setCtx_fuses (s : State) (c : Nat) (x : Ctx) : (s.setCtx c x).fuses = s.fuses := rfl
@[simp] theorem setCtx_pins (s : State) (c : Nat) (x : Ctx) : (s.setCtx c x).pins = s.pins := rfl
@[simp] theorem setCtx_flash (s : State) (c : Nat) (x : Ctx) : (s.setCtx c x).flash = s.flash := rfl
@[simp] theorem setCtx_cores (s : State) (c : Nat) (x : Ctx) : (s.setCtx c x).cores = s.cores := rfl
@[simp] theorem setCtx_logical (s : State) (c : Nat) (x : Ctx) : (s.setCtx c x).logical = s.logical := rfl
@[simp] theorem setCtx_hbm (s : State) (c : Nat) (x : Ctx) : (s.setCtx c x).hbm = s.hbm := rfl
@[simp] theorem setCtx_ue (s : State) (c : Nat) (x : Ctx) : (s.setCtx c x).ue = s.ue := rfl
@[simp] theorem setCtx_plinths (s : State) (c : Nat) (x : Ctx) : (s.setCtx c x).plinths = s.plinths := rfl
@[simp] theorem setCtx_out (s : State) (c : Nat) (x : Ctx) : (s.setCtx c x).out = s.out := rfl
@[simp] theorem setCtx_nextTag (s : State) (c : Nat) (x : Ctx) : (s.setCtx c x).nextTag = s.nextTag := rfl
@[simp] theorem setCtx_retry (s : State) (c : Nat) (x : Ctx) : (s.setCtx c x).retry = s.retry := rfl
@[simp] theorem setCtx_incs (s : State) (c : Nat) (x : Ctx) : (s.setCtx c x).incs = s.incs := rfl
@[simp] theorem setCtx_ports (s : State) (c : Nat) (x : Ctx) : (s.setCtx c x).ports = s.ports := rfl
@[simp] theorem setCtx_pauses (s : State) (c : Nat) (x : Ctx) : (s.setCtx c x).pauses = s.pauses := rfl
@[simp] theorem setCtx_seen (s : State) (c : Nat) (x : Ctx) : (s.setCtx c x).seen = s.seen := rfl
@[simp] theorem setCtx_noticeSeq (s : State) (c : Nat) (x : Ctx) : (s.setCtx c x).noticeSeq = s.noticeSeq := rfl
@[simp] theorem setCtx_wits (s : State) (c : Nat) (x : Ctx) : (s.setCtx c x).wits = s.wits := rfl
@[simp] theorem setCtx_queues (s : State) (c : Nat) (x : Ctx) : (s.setCtx c x).queues = s.queues := rfl
@[simp] theorem setCtx_msix (s : State) (c : Nat) (x : Ctx) : (s.setCtx c x).msix = s.msix := rfl
@[simp] theorem setCtx_evtLost (s : State) (c : Nat) (x : Ctx) : (s.setCtx c x).evtLost = s.evtLost := rfl
@[simp] theorem setCtx_mbx (s : State) (c : Nat) (x : Ctx) : (s.setCtx c x).mbx = s.mbx := rfl
@[simp] theorem setCtx_snoop (s : State) (c : Nat) (x : Ctx) : (s.setCtx c x).snoop = s.snoop := rfl
@[simp] theorem setCtx_biSent (s : State) (c : Nat) (x : Ctx) : (s.setCtx c x).biSent = s.biSent := rfl
@[simp] theorem setCtx_lineReqs (s : State) (c : Nat) (x : Ctx) : (s.setCtx c x).lineReqs = s.lineReqs := rfl
@[simp] theorem setCtx_biWait (s : State) (c : Nat) (x : Ctx) : (s.setCtx c x).biWait = s.biWait := rfl
@[simp] theorem setCtx_logs (s : State) (c : Nat) (x : Ctx) : (s.setCtx c x).logs = s.logs := rfl
@[simp] theorem setCtx_jig (s : State) (c : Nat) (x : Ctx) : (s.setCtx c x).jig = s.jig := rfl
@[simp] theorem setCtx_recov (s : State) (c : Nat) (x : Ctx) : (s.setCtx c x).recov = s.recov := rfl
@[simp] theorem setCtx_fw (s : State) (c : Nat) (x : Ctx) : (s.setCtx c x).fw = s.fw := rfl
@[simp] theorem setCtx_clamp (s : State) (c : Nat) (x : Ctx) : (s.setCtx c x).clamp = s.clamp := rfl
@[simp] theorem setCtx_cdc (s : State) (c : Nat) (x : Ctx) : (s.setCtx c x).cdc = s.cdc := rfl
@[simp] theorem setCtx_prog (s : State) (c : Nat) (x : Ctx) : (s.setCtx c x).prog = s.prog := rfl
@[simp] theorem setCtx_free (s : State) (c : Nat) (x : Ctx) : (s.setCtx c x).free = s.free := rfl
@[simp] theorem setCtx_outbox (s : State) (c : Nat) (x : Ctx) : (s.setCtx c x).outbox = s.outbox := rfl

/-! ### State.setPlinth -/

@[simp] theorem setPlinth_pending (s : State) (i : Nat) (x : Plinth) : (s.setPlinth i x).pending = s.pending := rfl
@[simp] theorem setPlinth_regs (s : State) (i : Nat) (x : Plinth) : (s.setPlinth i x).regs = s.regs := rfl
@[simp] theorem setPlinth_time (s : State) (i : Nat) (x : Plinth) : (s.setPlinth i x).time = s.time := rfl
@[simp] theorem setPlinth_fuses (s : State) (i : Nat) (x : Plinth) : (s.setPlinth i x).fuses = s.fuses := rfl
@[simp] theorem setPlinth_pins (s : State) (i : Nat) (x : Plinth) : (s.setPlinth i x).pins = s.pins := rfl
@[simp] theorem setPlinth_flash (s : State) (i : Nat) (x : Plinth) : (s.setPlinth i x).flash = s.flash := rfl
@[simp] theorem setPlinth_cores (s : State) (i : Nat) (x : Plinth) : (s.setPlinth i x).cores = s.cores := rfl
@[simp] theorem setPlinth_logical (s : State) (i : Nat) (x : Plinth) : (s.setPlinth i x).logical = s.logical := rfl
@[simp] theorem setPlinth_ctxs (s : State) (i : Nat) (x : Plinth) : (s.setPlinth i x).ctxs = s.ctxs := rfl
@[simp] theorem setPlinth_hbm (s : State) (i : Nat) (x : Plinth) : (s.setPlinth i x).hbm = s.hbm := rfl
@[simp] theorem setPlinth_ue (s : State) (i : Nat) (x : Plinth) : (s.setPlinth i x).ue = s.ue := rfl
@[simp] theorem setPlinth_out (s : State) (i : Nat) (x : Plinth) : (s.setPlinth i x).out = s.out := rfl
@[simp] theorem setPlinth_nextTag (s : State) (i : Nat) (x : Plinth) : (s.setPlinth i x).nextTag = s.nextTag := rfl
@[simp] theorem setPlinth_retry (s : State) (i : Nat) (x : Plinth) : (s.setPlinth i x).retry = s.retry := rfl
@[simp] theorem setPlinth_incs (s : State) (i : Nat) (x : Plinth) : (s.setPlinth i x).incs = s.incs := rfl
@[simp] theorem setPlinth_ports (s : State) (i : Nat) (x : Plinth) : (s.setPlinth i x).ports = s.ports := rfl
@[simp] theorem setPlinth_pauses (s : State) (i : Nat) (x : Plinth) : (s.setPlinth i x).pauses = s.pauses := rfl
@[simp] theorem setPlinth_seen (s : State) (i : Nat) (x : Plinth) : (s.setPlinth i x).seen = s.seen := rfl
@[simp] theorem setPlinth_noticeSeq (s : State) (i : Nat) (x : Plinth) : (s.setPlinth i x).noticeSeq = s.noticeSeq := rfl
@[simp] theorem setPlinth_wits (s : State) (i : Nat) (x : Plinth) : (s.setPlinth i x).wits = s.wits := rfl
@[simp] theorem setPlinth_queues (s : State) (i : Nat) (x : Plinth) : (s.setPlinth i x).queues = s.queues := rfl
@[simp] theorem setPlinth_msix (s : State) (i : Nat) (x : Plinth) : (s.setPlinth i x).msix = s.msix := rfl
@[simp] theorem setPlinth_evtLost (s : State) (i : Nat) (x : Plinth) : (s.setPlinth i x).evtLost = s.evtLost := rfl
@[simp] theorem setPlinth_mbx (s : State) (i : Nat) (x : Plinth) : (s.setPlinth i x).mbx = s.mbx := rfl
@[simp] theorem setPlinth_snoop (s : State) (i : Nat) (x : Plinth) : (s.setPlinth i x).snoop = s.snoop := rfl
@[simp] theorem setPlinth_biSent (s : State) (i : Nat) (x : Plinth) : (s.setPlinth i x).biSent = s.biSent := rfl
@[simp] theorem setPlinth_lineReqs (s : State) (i : Nat) (x : Plinth) : (s.setPlinth i x).lineReqs = s.lineReqs := rfl
@[simp] theorem setPlinth_biWait (s : State) (i : Nat) (x : Plinth) : (s.setPlinth i x).biWait = s.biWait := rfl
@[simp] theorem setPlinth_logs (s : State) (i : Nat) (x : Plinth) : (s.setPlinth i x).logs = s.logs := rfl
@[simp] theorem setPlinth_jig (s : State) (i : Nat) (x : Plinth) : (s.setPlinth i x).jig = s.jig := rfl
@[simp] theorem setPlinth_recov (s : State) (i : Nat) (x : Plinth) : (s.setPlinth i x).recov = s.recov := rfl
@[simp] theorem setPlinth_fw (s : State) (i : Nat) (x : Plinth) : (s.setPlinth i x).fw = s.fw := rfl
@[simp] theorem setPlinth_clamp (s : State) (i : Nat) (x : Plinth) : (s.setPlinth i x).clamp = s.clamp := rfl
@[simp] theorem setPlinth_cdc (s : State) (i : Nat) (x : Plinth) : (s.setPlinth i x).cdc = s.cdc := rfl
@[simp] theorem setPlinth_prog (s : State) (i : Nat) (x : Plinth) : (s.setPlinth i x).prog = s.prog := rfl
@[simp] theorem setPlinth_free (s : State) (i : Nat) (x : Plinth) : (s.setPlinth i x).free = s.free := rfl
@[simp] theorem setPlinth_outbox (s : State) (i : Nat) (x : Plinth) : (s.setPlinth i x).outbox = s.outbox := rfl

/-! ### State.setPort -/

@[simp] theorem setPort_pending (s : State) (w : Nat) (x : Port) : (s.setPort w x).pending = s.pending := rfl
@[simp] theorem setPort_regs (s : State) (w : Nat) (x : Port) : (s.setPort w x).regs = s.regs := rfl
@[simp] theorem setPort_time (s : State) (w : Nat) (x : Port) : (s.setPort w x).time = s.time := rfl
@[simp] theorem setPort_fuses (s : State) (w : Nat) (x : Port) : (s.setPort w x).fuses = s.fuses := rfl
@[simp] theorem setPort_pins (s : State) (w : Nat) (x : Port) : (s.setPort w x).pins = s.pins := rfl
@[simp] theorem setPort_flash (s : State) (w : Nat) (x : Port) : (s.setPort w x).flash = s.flash := rfl
@[simp] theorem setPort_cores (s : State) (w : Nat) (x : Port) : (s.setPort w x).cores = s.cores := rfl
@[simp] theorem setPort_logical (s : State) (w : Nat) (x : Port) : (s.setPort w x).logical = s.logical := rfl
@[simp] theorem setPort_ctxs (s : State) (w : Nat) (x : Port) : (s.setPort w x).ctxs = s.ctxs := rfl
@[simp] theorem setPort_hbm (s : State) (w : Nat) (x : Port) : (s.setPort w x).hbm = s.hbm := rfl
@[simp] theorem setPort_ue (s : State) (w : Nat) (x : Port) : (s.setPort w x).ue = s.ue := rfl
@[simp] theorem setPort_plinths (s : State) (w : Nat) (x : Port) : (s.setPort w x).plinths = s.plinths := rfl
@[simp] theorem setPort_out (s : State) (w : Nat) (x : Port) : (s.setPort w x).out = s.out := rfl
@[simp] theorem setPort_nextTag (s : State) (w : Nat) (x : Port) : (s.setPort w x).nextTag = s.nextTag := rfl
@[simp] theorem setPort_retry (s : State) (w : Nat) (x : Port) : (s.setPort w x).retry = s.retry := rfl
@[simp] theorem setPort_incs (s : State) (w : Nat) (x : Port) : (s.setPort w x).incs = s.incs := rfl
@[simp] theorem setPort_pauses (s : State) (w : Nat) (x : Port) : (s.setPort w x).pauses = s.pauses := rfl
@[simp] theorem setPort_seen (s : State) (w : Nat) (x : Port) : (s.setPort w x).seen = s.seen := rfl
@[simp] theorem setPort_noticeSeq (s : State) (w : Nat) (x : Port) : (s.setPort w x).noticeSeq = s.noticeSeq := rfl
@[simp] theorem setPort_wits (s : State) (w : Nat) (x : Port) : (s.setPort w x).wits = s.wits := rfl
@[simp] theorem setPort_queues (s : State) (w : Nat) (x : Port) : (s.setPort w x).queues = s.queues := rfl
@[simp] theorem setPort_msix (s : State) (w : Nat) (x : Port) : (s.setPort w x).msix = s.msix := rfl
@[simp] theorem setPort_evtLost (s : State) (w : Nat) (x : Port) : (s.setPort w x).evtLost = s.evtLost := rfl
@[simp] theorem setPort_mbx (s : State) (w : Nat) (x : Port) : (s.setPort w x).mbx = s.mbx := rfl
@[simp] theorem setPort_snoop (s : State) (w : Nat) (x : Port) : (s.setPort w x).snoop = s.snoop := rfl
@[simp] theorem setPort_biSent (s : State) (w : Nat) (x : Port) : (s.setPort w x).biSent = s.biSent := rfl
@[simp] theorem setPort_lineReqs (s : State) (w : Nat) (x : Port) : (s.setPort w x).lineReqs = s.lineReqs := rfl
@[simp] theorem setPort_biWait (s : State) (w : Nat) (x : Port) : (s.setPort w x).biWait = s.biWait := rfl
@[simp] theorem setPort_logs (s : State) (w : Nat) (x : Port) : (s.setPort w x).logs = s.logs := rfl
@[simp] theorem setPort_jig (s : State) (w : Nat) (x : Port) : (s.setPort w x).jig = s.jig := rfl
@[simp] theorem setPort_recov (s : State) (w : Nat) (x : Port) : (s.setPort w x).recov = s.recov := rfl
@[simp] theorem setPort_fw (s : State) (w : Nat) (x : Port) : (s.setPort w x).fw = s.fw := rfl
@[simp] theorem setPort_clamp (s : State) (w : Nat) (x : Port) : (s.setPort w x).clamp = s.clamp := rfl
@[simp] theorem setPort_cdc (s : State) (w : Nat) (x : Port) : (s.setPort w x).cdc = s.cdc := rfl
@[simp] theorem setPort_prog (s : State) (w : Nat) (x : Port) : (s.setPort w x).prog = s.prog := rfl
@[simp] theorem setPort_free (s : State) (w : Nat) (x : Port) : (s.setPort w x).free = s.free := rfl
@[simp] theorem setPort_outbox (s : State) (w : Nat) (x : Port) : (s.setPort w x).outbox = s.outbox := rfl

/-! ### State.setQueue -/

@[simp] theorem setQueue_pending (s : State) (q : Nat) (x : Queue) : (s.setQueue q x).pending = s.pending := rfl
@[simp] theorem setQueue_regs (s : State) (q : Nat) (x : Queue) : (s.setQueue q x).regs = s.regs := rfl
@[simp] theorem setQueue_time (s : State) (q : Nat) (x : Queue) : (s.setQueue q x).time = s.time := rfl
@[simp] theorem setQueue_fuses (s : State) (q : Nat) (x : Queue) : (s.setQueue q x).fuses = s.fuses := rfl
@[simp] theorem setQueue_pins (s : State) (q : Nat) (x : Queue) : (s.setQueue q x).pins = s.pins := rfl
@[simp] theorem setQueue_flash (s : State) (q : Nat) (x : Queue) : (s.setQueue q x).flash = s.flash := rfl
@[simp] theorem setQueue_cores (s : State) (q : Nat) (x : Queue) : (s.setQueue q x).cores = s.cores := rfl
@[simp] theorem setQueue_logical (s : State) (q : Nat) (x : Queue) : (s.setQueue q x).logical = s.logical := rfl
@[simp] theorem setQueue_ctxs (s : State) (q : Nat) (x : Queue) : (s.setQueue q x).ctxs = s.ctxs := rfl
@[simp] theorem setQueue_hbm (s : State) (q : Nat) (x : Queue) : (s.setQueue q x).hbm = s.hbm := rfl
@[simp] theorem setQueue_ue (s : State) (q : Nat) (x : Queue) : (s.setQueue q x).ue = s.ue := rfl
@[simp] theorem setQueue_plinths (s : State) (q : Nat) (x : Queue) : (s.setQueue q x).plinths = s.plinths := rfl
@[simp] theorem setQueue_out (s : State) (q : Nat) (x : Queue) : (s.setQueue q x).out = s.out := rfl
@[simp] theorem setQueue_nextTag (s : State) (q : Nat) (x : Queue) : (s.setQueue q x).nextTag = s.nextTag := rfl
@[simp] theorem setQueue_retry (s : State) (q : Nat) (x : Queue) : (s.setQueue q x).retry = s.retry := rfl
@[simp] theorem setQueue_incs (s : State) (q : Nat) (x : Queue) : (s.setQueue q x).incs = s.incs := rfl
@[simp] theorem setQueue_ports (s : State) (q : Nat) (x : Queue) : (s.setQueue q x).ports = s.ports := rfl
@[simp] theorem setQueue_pauses (s : State) (q : Nat) (x : Queue) : (s.setQueue q x).pauses = s.pauses := rfl
@[simp] theorem setQueue_seen (s : State) (q : Nat) (x : Queue) : (s.setQueue q x).seen = s.seen := rfl
@[simp] theorem setQueue_noticeSeq (s : State) (q : Nat) (x : Queue) : (s.setQueue q x).noticeSeq = s.noticeSeq := rfl
@[simp] theorem setQueue_wits (s : State) (q : Nat) (x : Queue) : (s.setQueue q x).wits = s.wits := rfl
@[simp] theorem setQueue_msix (s : State) (q : Nat) (x : Queue) : (s.setQueue q x).msix = s.msix := rfl
@[simp] theorem setQueue_evtLost (s : State) (q : Nat) (x : Queue) : (s.setQueue q x).evtLost = s.evtLost := rfl
@[simp] theorem setQueue_mbx (s : State) (q : Nat) (x : Queue) : (s.setQueue q x).mbx = s.mbx := rfl
@[simp] theorem setQueue_snoop (s : State) (q : Nat) (x : Queue) : (s.setQueue q x).snoop = s.snoop := rfl
@[simp] theorem setQueue_biSent (s : State) (q : Nat) (x : Queue) : (s.setQueue q x).biSent = s.biSent := rfl
@[simp] theorem setQueue_lineReqs (s : State) (q : Nat) (x : Queue) : (s.setQueue q x).lineReqs = s.lineReqs := rfl
@[simp] theorem setQueue_biWait (s : State) (q : Nat) (x : Queue) : (s.setQueue q x).biWait = s.biWait := rfl
@[simp] theorem setQueue_logs (s : State) (q : Nat) (x : Queue) : (s.setQueue q x).logs = s.logs := rfl
@[simp] theorem setQueue_jig (s : State) (q : Nat) (x : Queue) : (s.setQueue q x).jig = s.jig := rfl
@[simp] theorem setQueue_recov (s : State) (q : Nat) (x : Queue) : (s.setQueue q x).recov = s.recov := rfl
@[simp] theorem setQueue_fw (s : State) (q : Nat) (x : Queue) : (s.setQueue q x).fw = s.fw := rfl
@[simp] theorem setQueue_clamp (s : State) (q : Nat) (x : Queue) : (s.setQueue q x).clamp = s.clamp := rfl
@[simp] theorem setQueue_cdc (s : State) (q : Nat) (x : Queue) : (s.setQueue q x).cdc = s.cdc := rfl
@[simp] theorem setQueue_prog (s : State) (q : Nat) (x : Queue) : (s.setQueue q x).prog = s.prog := rfl
@[simp] theorem setQueue_free (s : State) (q : Nat) (x : Queue) : (s.setQueue q x).free = s.free := rfl
@[simp] theorem setQueue_outbox (s : State) (q : Nat) (x : Queue) : (s.setQueue q x).outbox = s.outbox := rfl

/-! ### State.setVector -/

@[simp] theorem setVector_pending (s : State) (v : Nat) (x : Msix) : (s.setVector v x).pending = s.pending := rfl
@[simp] theorem setVector_regs (s : State) (v : Nat) (x : Msix) : (s.setVector v x).regs = s.regs := rfl
@[simp] theorem setVector_time (s : State) (v : Nat) (x : Msix) : (s.setVector v x).time = s.time := rfl
@[simp] theorem setVector_fuses (s : State) (v : Nat) (x : Msix) : (s.setVector v x).fuses = s.fuses := rfl
@[simp] theorem setVector_pins (s : State) (v : Nat) (x : Msix) : (s.setVector v x).pins = s.pins := rfl
@[simp] theorem setVector_flash (s : State) (v : Nat) (x : Msix) : (s.setVector v x).flash = s.flash := rfl
@[simp] theorem setVector_cores (s : State) (v : Nat) (x : Msix) : (s.setVector v x).cores = s.cores := rfl
@[simp] theorem setVector_logical (s : State) (v : Nat) (x : Msix) : (s.setVector v x).logical = s.logical := rfl
@[simp] theorem setVector_ctxs (s : State) (v : Nat) (x : Msix) : (s.setVector v x).ctxs = s.ctxs := rfl
@[simp] theorem setVector_hbm (s : State) (v : Nat) (x : Msix) : (s.setVector v x).hbm = s.hbm := rfl
@[simp] theorem setVector_ue (s : State) (v : Nat) (x : Msix) : (s.setVector v x).ue = s.ue := rfl
@[simp] theorem setVector_plinths (s : State) (v : Nat) (x : Msix) : (s.setVector v x).plinths = s.plinths := rfl
@[simp] theorem setVector_out (s : State) (v : Nat) (x : Msix) : (s.setVector v x).out = s.out := rfl
@[simp] theorem setVector_nextTag (s : State) (v : Nat) (x : Msix) : (s.setVector v x).nextTag = s.nextTag := rfl
@[simp] theorem setVector_retry (s : State) (v : Nat) (x : Msix) : (s.setVector v x).retry = s.retry := rfl
@[simp] theorem setVector_incs (s : State) (v : Nat) (x : Msix) : (s.setVector v x).incs = s.incs := rfl
@[simp] theorem setVector_ports (s : State) (v : Nat) (x : Msix) : (s.setVector v x).ports = s.ports := rfl
@[simp] theorem setVector_pauses (s : State) (v : Nat) (x : Msix) : (s.setVector v x).pauses = s.pauses := rfl
@[simp] theorem setVector_seen (s : State) (v : Nat) (x : Msix) : (s.setVector v x).seen = s.seen := rfl
@[simp] theorem setVector_noticeSeq (s : State) (v : Nat) (x : Msix) : (s.setVector v x).noticeSeq = s.noticeSeq := rfl
@[simp] theorem setVector_wits (s : State) (v : Nat) (x : Msix) : (s.setVector v x).wits = s.wits := rfl
@[simp] theorem setVector_queues (s : State) (v : Nat) (x : Msix) : (s.setVector v x).queues = s.queues := rfl
@[simp] theorem setVector_evtLost (s : State) (v : Nat) (x : Msix) : (s.setVector v x).evtLost = s.evtLost := rfl
@[simp] theorem setVector_mbx (s : State) (v : Nat) (x : Msix) : (s.setVector v x).mbx = s.mbx := rfl
@[simp] theorem setVector_snoop (s : State) (v : Nat) (x : Msix) : (s.setVector v x).snoop = s.snoop := rfl
@[simp] theorem setVector_biSent (s : State) (v : Nat) (x : Msix) : (s.setVector v x).biSent = s.biSent := rfl
@[simp] theorem setVector_lineReqs (s : State) (v : Nat) (x : Msix) : (s.setVector v x).lineReqs = s.lineReqs := rfl
@[simp] theorem setVector_biWait (s : State) (v : Nat) (x : Msix) : (s.setVector v x).biWait = s.biWait := rfl
@[simp] theorem setVector_logs (s : State) (v : Nat) (x : Msix) : (s.setVector v x).logs = s.logs := rfl
@[simp] theorem setVector_jig (s : State) (v : Nat) (x : Msix) : (s.setVector v x).jig = s.jig := rfl
@[simp] theorem setVector_recov (s : State) (v : Nat) (x : Msix) : (s.setVector v x).recov = s.recov := rfl
@[simp] theorem setVector_fw (s : State) (v : Nat) (x : Msix) : (s.setVector v x).fw = s.fw := rfl
@[simp] theorem setVector_clamp (s : State) (v : Nat) (x : Msix) : (s.setVector v x).clamp = s.clamp := rfl
@[simp] theorem setVector_cdc (s : State) (v : Nat) (x : Msix) : (s.setVector v x).cdc = s.cdc := rfl
@[simp] theorem setVector_prog (s : State) (v : Nat) (x : Msix) : (s.setVector v x).prog = s.prog := rfl
@[simp] theorem setVector_free (s : State) (v : Nat) (x : Msix) : (s.setVector v x).free = s.free := rfl
@[simp] theorem setVector_outbox (s : State) (v : Nat) (x : Msix) : (s.setVector v x).outbox = s.outbox := rfl

/-! ### State.setLog -/

@[simp] theorem setLog_pending (s : State) (d : Nat) (x : ErrLog) : (s.setLog d x).pending = s.pending := rfl
@[simp] theorem setLog_regs (s : State) (d : Nat) (x : ErrLog) : (s.setLog d x).regs = s.regs := rfl
@[simp] theorem setLog_time (s : State) (d : Nat) (x : ErrLog) : (s.setLog d x).time = s.time := rfl
@[simp] theorem setLog_fuses (s : State) (d : Nat) (x : ErrLog) : (s.setLog d x).fuses = s.fuses := rfl
@[simp] theorem setLog_pins (s : State) (d : Nat) (x : ErrLog) : (s.setLog d x).pins = s.pins := rfl
@[simp] theorem setLog_flash (s : State) (d : Nat) (x : ErrLog) : (s.setLog d x).flash = s.flash := rfl
@[simp] theorem setLog_cores (s : State) (d : Nat) (x : ErrLog) : (s.setLog d x).cores = s.cores := rfl
@[simp] theorem setLog_logical (s : State) (d : Nat) (x : ErrLog) : (s.setLog d x).logical = s.logical := rfl
@[simp] theorem setLog_ctxs (s : State) (d : Nat) (x : ErrLog) : (s.setLog d x).ctxs = s.ctxs := rfl
@[simp] theorem setLog_hbm (s : State) (d : Nat) (x : ErrLog) : (s.setLog d x).hbm = s.hbm := rfl
@[simp] theorem setLog_ue (s : State) (d : Nat) (x : ErrLog) : (s.setLog d x).ue = s.ue := rfl
@[simp] theorem setLog_plinths (s : State) (d : Nat) (x : ErrLog) : (s.setLog d x).plinths = s.plinths := rfl
@[simp] theorem setLog_out (s : State) (d : Nat) (x : ErrLog) : (s.setLog d x).out = s.out := rfl
@[simp] theorem setLog_nextTag (s : State) (d : Nat) (x : ErrLog) : (s.setLog d x).nextTag = s.nextTag := rfl
@[simp] theorem setLog_retry (s : State) (d : Nat) (x : ErrLog) : (s.setLog d x).retry = s.retry := rfl
@[simp] theorem setLog_incs (s : State) (d : Nat) (x : ErrLog) : (s.setLog d x).incs = s.incs := rfl
@[simp] theorem setLog_ports (s : State) (d : Nat) (x : ErrLog) : (s.setLog d x).ports = s.ports := rfl
@[simp] theorem setLog_pauses (s : State) (d : Nat) (x : ErrLog) : (s.setLog d x).pauses = s.pauses := rfl
@[simp] theorem setLog_seen (s : State) (d : Nat) (x : ErrLog) : (s.setLog d x).seen = s.seen := rfl
@[simp] theorem setLog_noticeSeq (s : State) (d : Nat) (x : ErrLog) : (s.setLog d x).noticeSeq = s.noticeSeq := rfl
@[simp] theorem setLog_wits (s : State) (d : Nat) (x : ErrLog) : (s.setLog d x).wits = s.wits := rfl
@[simp] theorem setLog_queues (s : State) (d : Nat) (x : ErrLog) : (s.setLog d x).queues = s.queues := rfl
@[simp] theorem setLog_msix (s : State) (d : Nat) (x : ErrLog) : (s.setLog d x).msix = s.msix := rfl
@[simp] theorem setLog_evtLost (s : State) (d : Nat) (x : ErrLog) : (s.setLog d x).evtLost = s.evtLost := rfl
@[simp] theorem setLog_mbx (s : State) (d : Nat) (x : ErrLog) : (s.setLog d x).mbx = s.mbx := rfl
@[simp] theorem setLog_snoop (s : State) (d : Nat) (x : ErrLog) : (s.setLog d x).snoop = s.snoop := rfl
@[simp] theorem setLog_biSent (s : State) (d : Nat) (x : ErrLog) : (s.setLog d x).biSent = s.biSent := rfl
@[simp] theorem setLog_lineReqs (s : State) (d : Nat) (x : ErrLog) : (s.setLog d x).lineReqs = s.lineReqs := rfl
@[simp] theorem setLog_biWait (s : State) (d : Nat) (x : ErrLog) : (s.setLog d x).biWait = s.biWait := rfl
@[simp] theorem setLog_jig (s : State) (d : Nat) (x : ErrLog) : (s.setLog d x).jig = s.jig := rfl
@[simp] theorem setLog_recov (s : State) (d : Nat) (x : ErrLog) : (s.setLog d x).recov = s.recov := rfl
@[simp] theorem setLog_fw (s : State) (d : Nat) (x : ErrLog) : (s.setLog d x).fw = s.fw := rfl
@[simp] theorem setLog_clamp (s : State) (d : Nat) (x : ErrLog) : (s.setLog d x).clamp = s.clamp := rfl
@[simp] theorem setLog_cdc (s : State) (d : Nat) (x : ErrLog) : (s.setLog d x).cdc = s.cdc := rfl
@[simp] theorem setLog_prog (s : State) (d : Nat) (x : ErrLog) : (s.setLog d x).prog = s.prog := rfl
@[simp] theorem setLog_free (s : State) (d : Nat) (x : ErrLog) : (s.setLog d x).free = s.free := rfl
@[simp] theorem setLog_outbox (s : State) (d : Nat) (x : ErrLog) : (s.setLog d x).outbox = s.outbox := rfl

/-! ### State.draw -/

@[simp] theorem draw_pending (s : State) : (s.draw).pending = s.pending := rfl
@[simp] theorem draw_regs (s : State) : (s.draw).regs = s.regs := rfl
@[simp] theorem draw_time (s : State) : (s.draw).time = s.time := rfl
@[simp] theorem draw_fuses (s : State) : (s.draw).fuses = s.fuses := rfl
@[simp] theorem draw_pins (s : State) : (s.draw).pins = s.pins := rfl
@[simp] theorem draw_flash (s : State) : (s.draw).flash = s.flash := rfl
@[simp] theorem draw_cores (s : State) : (s.draw).cores = s.cores := rfl
@[simp] theorem draw_logical (s : State) : (s.draw).logical = s.logical := rfl
@[simp] theorem draw_ctxs (s : State) : (s.draw).ctxs = s.ctxs := rfl
@[simp] theorem draw_hbm (s : State) : (s.draw).hbm = s.hbm := rfl
@[simp] theorem draw_ue (s : State) : (s.draw).ue = s.ue := rfl
@[simp] theorem draw_plinths (s : State) : (s.draw).plinths = s.plinths := rfl
@[simp] theorem draw_out (s : State) : (s.draw).out = s.out := rfl
@[simp] theorem draw_nextTag (s : State) : (s.draw).nextTag = s.nextTag := rfl
@[simp] theorem draw_retry (s : State) : (s.draw).retry = s.retry := rfl
@[simp] theorem draw_incs (s : State) : (s.draw).incs = s.incs := rfl
@[simp] theorem draw_ports (s : State) : (s.draw).ports = s.ports := rfl
@[simp] theorem draw_pauses (s : State) : (s.draw).pauses = s.pauses := rfl
@[simp] theorem draw_seen (s : State) : (s.draw).seen = s.seen := rfl
@[simp] theorem draw_noticeSeq (s : State) : (s.draw).noticeSeq = s.noticeSeq := rfl
@[simp] theorem draw_wits (s : State) : (s.draw).wits = s.wits := rfl
@[simp] theorem draw_queues (s : State) : (s.draw).queues = s.queues := rfl
@[simp] theorem draw_msix (s : State) : (s.draw).msix = s.msix := rfl
@[simp] theorem draw_evtLost (s : State) : (s.draw).evtLost = s.evtLost := rfl
@[simp] theorem draw_mbx (s : State) : (s.draw).mbx = s.mbx := rfl
@[simp] theorem draw_snoop (s : State) : (s.draw).snoop = s.snoop := rfl
@[simp] theorem draw_biSent (s : State) : (s.draw).biSent = s.biSent := rfl
@[simp] theorem draw_lineReqs (s : State) : (s.draw).lineReqs = s.lineReqs := rfl
@[simp] theorem draw_biWait (s : State) : (s.draw).biWait = s.biWait := rfl
@[simp] theorem draw_logs (s : State) : (s.draw).logs = s.logs := rfl
@[simp] theorem draw_jig (s : State) : (s.draw).jig = s.jig := rfl
@[simp] theorem draw_recov (s : State) : (s.draw).recov = s.recov := rfl
@[simp] theorem draw_fw (s : State) : (s.draw).fw = s.fw := rfl
@[simp] theorem draw_clamp (s : State) : (s.draw).clamp = s.clamp := rfl
@[simp] theorem draw_cdc (s : State) : (s.draw).cdc = s.cdc := rfl
@[simp] theorem draw_prog (s : State) : (s.draw).prog = s.prog := rfl
@[simp] theorem draw_outbox (s : State) : (s.draw).outbox = s.outbox := rfl

/-! ### State.stamp -/

@[simp] theorem stamp_pending (s : State) (u : Nat) : (s.stamp u).pending = s.pending := rfl
@[simp] theorem stamp_regs (s : State) (u : Nat) : (s.stamp u).regs = s.regs := rfl
@[simp] theorem stamp_time (s : State) (u : Nat) : (s.stamp u).time = s.time := rfl
@[simp] theorem stamp_fuses (s : State) (u : Nat) : (s.stamp u).fuses = s.fuses := rfl
@[simp] theorem stamp_pins (s : State) (u : Nat) : (s.stamp u).pins = s.pins := rfl
@[simp] theorem stamp_flash (s : State) (u : Nat) : (s.stamp u).flash = s.flash := rfl
@[simp] theorem stamp_cores (s : State) (u : Nat) : (s.stamp u).cores = s.cores := rfl
@[simp] theorem stamp_logical (s : State) (u : Nat) : (s.stamp u).logical = s.logical := rfl
@[simp] theorem stamp_ctxs (s : State) (u : Nat) : (s.stamp u).ctxs = s.ctxs := rfl
@[simp] theorem stamp_hbm (s : State) (u : Nat) : (s.stamp u).hbm = s.hbm := rfl
@[simp] theorem stamp_ue (s : State) (u : Nat) : (s.stamp u).ue = s.ue := rfl
@[simp] theorem stamp_plinths (s : State) (u : Nat) : (s.stamp u).plinths = s.plinths := rfl
@[simp] theorem stamp_out (s : State) (u : Nat) : (s.stamp u).out = s.out := rfl
@[simp] theorem stamp_nextTag (s : State) (u : Nat) : (s.stamp u).nextTag = s.nextTag := rfl
@[simp] theorem stamp_retry (s : State) (u : Nat) : (s.stamp u).retry = s.retry := rfl
@[simp] theorem stamp_incs (s : State) (u : Nat) : (s.stamp u).incs = s.incs := rfl
@[simp] theorem stamp_ports (s : State) (u : Nat) : (s.stamp u).ports = s.ports := rfl
@[simp] theorem stamp_pauses (s : State) (u : Nat) : (s.stamp u).pauses = s.pauses := rfl
@[simp] theorem stamp_seen (s : State) (u : Nat) : (s.stamp u).seen = s.seen := rfl
@[simp] theorem stamp_noticeSeq (s : State) (u : Nat) : (s.stamp u).noticeSeq = s.noticeSeq := rfl
@[simp] theorem stamp_wits (s : State) (u : Nat) : (s.stamp u).wits = s.wits := rfl
@[simp] theorem stamp_queues (s : State) (u : Nat) : (s.stamp u).queues = s.queues := rfl
@[simp] theorem stamp_msix (s : State) (u : Nat) : (s.stamp u).msix = s.msix := rfl
@[simp] theorem stamp_evtLost (s : State) (u : Nat) : (s.stamp u).evtLost = s.evtLost := rfl
@[simp] theorem stamp_mbx (s : State) (u : Nat) : (s.stamp u).mbx = s.mbx := rfl
@[simp] theorem stamp_snoop (s : State) (u : Nat) : (s.stamp u).snoop = s.snoop := rfl
@[simp] theorem stamp_biSent (s : State) (u : Nat) : (s.stamp u).biSent = s.biSent := rfl
@[simp] theorem stamp_lineReqs (s : State) (u : Nat) : (s.stamp u).lineReqs = s.lineReqs := rfl
@[simp] theorem stamp_biWait (s : State) (u : Nat) : (s.stamp u).biWait = s.biWait := rfl
@[simp] theorem stamp_logs (s : State) (u : Nat) : (s.stamp u).logs = s.logs := rfl
@[simp] theorem stamp_jig (s : State) (u : Nat) : (s.stamp u).jig = s.jig := rfl
@[simp] theorem stamp_recov (s : State) (u : Nat) : (s.stamp u).recov = s.recov := rfl
@[simp] theorem stamp_fw (s : State) (u : Nat) : (s.stamp u).fw = s.fw := rfl
@[simp] theorem stamp_clamp (s : State) (u : Nat) : (s.stamp u).clamp = s.clamp := rfl
@[simp] theorem stamp_cdc (s : State) (u : Nat) : (s.stamp u).cdc = s.cdc := rfl
@[simp] theorem stamp_free (s : State) (u : Nat) : (s.stamp u).free = s.free := rfl
@[simp] theorem stamp_outbox (s : State) (u : Nat) : (s.stamp u).outbox = s.outbox := rfl

/-! ### Reading back -/

@[simp] theorem core_setCore_same (s : State) (p : Nat) (x : Core) : (s.setCore p x).core p = x := by
  simp [State.core, State.setCore]

theorem core_setCore_ne (s : State) (p j : Nat) (x : Core) (h : j ≠ p) : (s.setCore p x).core j = s.core j :=
  lookD_putD_ne _ _ _ _ _ _ h

@[simp] theorem ctx_setCtx_same (s : State) (c : Nat) (x : Ctx) : (s.setCtx c x).ctx c = x := by
  simp [State.ctx, State.setCtx]

theorem ctx_setCtx_ne (s : State) (c j : Nat) (x : Ctx) (h : j ≠ c) : (s.setCtx c x).ctx j = s.ctx j :=
  lookD_putD_ne _ _ _ _ _ _ h

@[simp] theorem plinth_setPlinth_same (s : State) (i : Nat) (x : Plinth) : (s.setPlinth i x).plinth i = x := by
  simp [State.plinth, State.setPlinth]

theorem plinth_setPlinth_ne (s : State) (i j : Nat) (x : Plinth) (h : j ≠ i) : (s.setPlinth i x).plinth j = s.plinth j :=
  lookD_putD_ne _ _ _ _ _ _ h

@[simp] theorem port_setPort_same (s : State) (w : Nat) (x : Port) : (s.setPort w x).port w = x := by
  simp [State.port, State.setPort]

theorem port_setPort_ne (s : State) (w j : Nat) (x : Port) (h : j ≠ w) : (s.setPort w x).port j = s.port j :=
  lookD_putD_ne _ _ _ _ _ _ h

@[simp] theorem queue_setQueue_same (s : State) (q : Nat) (x : Queue) : (s.setQueue q x).queue q = x := by
  simp [State.queue, State.setQueue]

theorem queue_setQueue_ne (s : State) (q j : Nat) (x : Queue) (h : j ≠ q) : (s.setQueue q x).queue j = s.queue j :=
  lookD_putD_ne _ _ _ _ _ _ h

@[simp] theorem vector_setVector_same (s : State) (v : Nat) (x : Msix) : (s.setVector v x).vector v = x := by
  simp [State.vector, State.setVector]

theorem vector_setVector_ne (s : State) (v j : Nat) (x : Msix) (h : j ≠ v) : (s.setVector v x).vector j = s.vector j :=
  lookD_putD_ne _ _ _ _ _ _ h

@[simp] theorem log_setLog_same (s : State) (d : Nat) (x : ErrLog) : (s.setLog d x).log d = x := by
  simp [State.log, State.setLog]

theorem log_setLog_ne (s : State) (d j : Nat) (x : ErrLog) (h : j ≠ d) : (s.setLog d x).log j = s.log j :=
  lookD_putD_ne _ _ _ _ _ _ h

@[simp] theorem core_setWord (s : State) (a : Nat) (v : Word) (j : Nat) : (s.setWord a v).core j = s.core j := rfl
@[simp] theorem core_wr (s : State) (r : Nat) (f : Field) (v : Nat) (j : Nat) : (s.wr r f v).core j = s.core j := rfl
@[simp] theorem core_bump (s : State) (r : Nat) (f : Field) (k : Nat) (j : Nat) : (s.bump r f k).core j = s.core j := rfl
@[simp] theorem core_count (s : State) (r : Nat) (f : Field) (k : Nat) (j : Nat) : (s.count r f k).core j = s.core j := rfl
@[simp] theorem core_setCtx (s : State) (c : Nat) (x : Ctx) (j : Nat) : (s.setCtx c x).core j = s.core j := rfl
@[simp] theorem core_setPlinth (s : State) (i : Nat) (x : Plinth) (j : Nat) : (s.setPlinth i x).core j = s.core j := rfl
@[simp] theorem core_setPort (s : State) (w : Nat) (x : Port) (j : Nat) : (s.setPort w x).core j = s.core j := rfl
@[simp] theorem core_setQueue (s : State) (q : Nat) (x : Queue) (j : Nat) : (s.setQueue q x).core j = s.core j := rfl
@[simp] theorem core_setVector (s : State) (v : Nat) (x : Msix) (j : Nat) : (s.setVector v x).core j = s.core j := rfl
@[simp] theorem core_setLog (s : State) (d : Nat) (x : ErrLog) (j : Nat) : (s.setLog d x).core j = s.core j := rfl
@[simp] theorem core_draw (s : State) (j : Nat) : (s.draw).core j = s.core j := rfl
@[simp] theorem core_stamp (s : State) (u : Nat) (j : Nat) : (s.stamp u).core j = s.core j := rfl

@[simp] theorem ctx_setWord (s : State) (a : Nat) (v : Word) (j : Nat) : (s.setWord a v).ctx j = s.ctx j := rfl
@[simp] theorem ctx_wr (s : State) (r : Nat) (f : Field) (v : Nat) (j : Nat) : (s.wr r f v).ctx j = s.ctx j := rfl
@[simp] theorem ctx_bump (s : State) (r : Nat) (f : Field) (k : Nat) (j : Nat) : (s.bump r f k).ctx j = s.ctx j := rfl
@[simp] theorem ctx_count (s : State) (r : Nat) (f : Field) (k : Nat) (j : Nat) : (s.count r f k).ctx j = s.ctx j := rfl
@[simp] theorem ctx_setCore (s : State) (p : Nat) (x : Core) (j : Nat) : (s.setCore p x).ctx j = s.ctx j := rfl
@[simp] theorem ctx_setPlinth (s : State) (i : Nat) (x : Plinth) (j : Nat) : (s.setPlinth i x).ctx j = s.ctx j := rfl
@[simp] theorem ctx_setPort (s : State) (w : Nat) (x : Port) (j : Nat) : (s.setPort w x).ctx j = s.ctx j := rfl
@[simp] theorem ctx_setQueue (s : State) (q : Nat) (x : Queue) (j : Nat) : (s.setQueue q x).ctx j = s.ctx j := rfl
@[simp] theorem ctx_setVector (s : State) (v : Nat) (x : Msix) (j : Nat) : (s.setVector v x).ctx j = s.ctx j := rfl
@[simp] theorem ctx_setLog (s : State) (d : Nat) (x : ErrLog) (j : Nat) : (s.setLog d x).ctx j = s.ctx j := rfl
@[simp] theorem ctx_draw (s : State) (j : Nat) : (s.draw).ctx j = s.ctx j := rfl
@[simp] theorem ctx_stamp (s : State) (u : Nat) (j : Nat) : (s.stamp u).ctx j = s.ctx j := rfl

@[simp] theorem plinth_setWord (s : State) (a : Nat) (v : Word) (j : Nat) : (s.setWord a v).plinth j = s.plinth j := rfl
@[simp] theorem plinth_wr (s : State) (r : Nat) (f : Field) (v : Nat) (j : Nat) : (s.wr r f v).plinth j = s.plinth j := rfl
@[simp] theorem plinth_bump (s : State) (r : Nat) (f : Field) (k : Nat) (j : Nat) : (s.bump r f k).plinth j = s.plinth j := rfl
@[simp] theorem plinth_count (s : State) (r : Nat) (f : Field) (k : Nat) (j : Nat) : (s.count r f k).plinth j = s.plinth j := rfl
@[simp] theorem plinth_setCore (s : State) (p : Nat) (x : Core) (j : Nat) : (s.setCore p x).plinth j = s.plinth j := rfl
@[simp] theorem plinth_setCtx (s : State) (c : Nat) (x : Ctx) (j : Nat) : (s.setCtx c x).plinth j = s.plinth j := rfl
@[simp] theorem plinth_setPort (s : State) (w : Nat) (x : Port) (j : Nat) : (s.setPort w x).plinth j = s.plinth j := rfl
@[simp] theorem plinth_setQueue (s : State) (q : Nat) (x : Queue) (j : Nat) : (s.setQueue q x).plinth j = s.plinth j := rfl
@[simp] theorem plinth_setVector (s : State) (v : Nat) (x : Msix) (j : Nat) : (s.setVector v x).plinth j = s.plinth j := rfl
@[simp] theorem plinth_setLog (s : State) (d : Nat) (x : ErrLog) (j : Nat) : (s.setLog d x).plinth j = s.plinth j := rfl
@[simp] theorem plinth_draw (s : State) (j : Nat) : (s.draw).plinth j = s.plinth j := rfl
@[simp] theorem plinth_stamp (s : State) (u : Nat) (j : Nat) : (s.stamp u).plinth j = s.plinth j := rfl

@[simp] theorem port_setWord (s : State) (a : Nat) (v : Word) (j : Nat) : (s.setWord a v).port j = s.port j := rfl
@[simp] theorem port_wr (s : State) (r : Nat) (f : Field) (v : Nat) (j : Nat) : (s.wr r f v).port j = s.port j := rfl
@[simp] theorem port_bump (s : State) (r : Nat) (f : Field) (k : Nat) (j : Nat) : (s.bump r f k).port j = s.port j := rfl
@[simp] theorem port_count (s : State) (r : Nat) (f : Field) (k : Nat) (j : Nat) : (s.count r f k).port j = s.port j := rfl
@[simp] theorem port_setCore (s : State) (p : Nat) (x : Core) (j : Nat) : (s.setCore p x).port j = s.port j := rfl
@[simp] theorem port_setCtx (s : State) (c : Nat) (x : Ctx) (j : Nat) : (s.setCtx c x).port j = s.port j := rfl
@[simp] theorem port_setPlinth (s : State) (i : Nat) (x : Plinth) (j : Nat) : (s.setPlinth i x).port j = s.port j := rfl
@[simp] theorem port_setQueue (s : State) (q : Nat) (x : Queue) (j : Nat) : (s.setQueue q x).port j = s.port j := rfl
@[simp] theorem port_setVector (s : State) (v : Nat) (x : Msix) (j : Nat) : (s.setVector v x).port j = s.port j := rfl
@[simp] theorem port_setLog (s : State) (d : Nat) (x : ErrLog) (j : Nat) : (s.setLog d x).port j = s.port j := rfl
@[simp] theorem port_draw (s : State) (j : Nat) : (s.draw).port j = s.port j := rfl
@[simp] theorem port_stamp (s : State) (u : Nat) (j : Nat) : (s.stamp u).port j = s.port j := rfl

@[simp] theorem queue_setWord (s : State) (a : Nat) (v : Word) (j : Nat) : (s.setWord a v).queue j = s.queue j := rfl
@[simp] theorem queue_wr (s : State) (r : Nat) (f : Field) (v : Nat) (j : Nat) : (s.wr r f v).queue j = s.queue j := rfl
@[simp] theorem queue_bump (s : State) (r : Nat) (f : Field) (k : Nat) (j : Nat) : (s.bump r f k).queue j = s.queue j := rfl
@[simp] theorem queue_count (s : State) (r : Nat) (f : Field) (k : Nat) (j : Nat) : (s.count r f k).queue j = s.queue j := rfl
@[simp] theorem queue_setCore (s : State) (p : Nat) (x : Core) (j : Nat) : (s.setCore p x).queue j = s.queue j := rfl
@[simp] theorem queue_setCtx (s : State) (c : Nat) (x : Ctx) (j : Nat) : (s.setCtx c x).queue j = s.queue j := rfl
@[simp] theorem queue_setPlinth (s : State) (i : Nat) (x : Plinth) (j : Nat) : (s.setPlinth i x).queue j = s.queue j := rfl
@[simp] theorem queue_setPort (s : State) (w : Nat) (x : Port) (j : Nat) : (s.setPort w x).queue j = s.queue j := rfl
@[simp] theorem queue_setVector (s : State) (v : Nat) (x : Msix) (j : Nat) : (s.setVector v x).queue j = s.queue j := rfl
@[simp] theorem queue_setLog (s : State) (d : Nat) (x : ErrLog) (j : Nat) : (s.setLog d x).queue j = s.queue j := rfl
@[simp] theorem queue_draw (s : State) (j : Nat) : (s.draw).queue j = s.queue j := rfl
@[simp] theorem queue_stamp (s : State) (u : Nat) (j : Nat) : (s.stamp u).queue j = s.queue j := rfl

@[simp] theorem vector_setWord (s : State) (a : Nat) (v : Word) (j : Nat) : (s.setWord a v).vector j = s.vector j := rfl
@[simp] theorem vector_wr (s : State) (r : Nat) (f : Field) (v : Nat) (j : Nat) : (s.wr r f v).vector j = s.vector j := rfl
@[simp] theorem vector_bump (s : State) (r : Nat) (f : Field) (k : Nat) (j : Nat) : (s.bump r f k).vector j = s.vector j := rfl
@[simp] theorem vector_count (s : State) (r : Nat) (f : Field) (k : Nat) (j : Nat) : (s.count r f k).vector j = s.vector j := rfl
@[simp] theorem vector_setCore (s : State) (p : Nat) (x : Core) (j : Nat) : (s.setCore p x).vector j = s.vector j := rfl
@[simp] theorem vector_setCtx (s : State) (c : Nat) (x : Ctx) (j : Nat) : (s.setCtx c x).vector j = s.vector j := rfl
@[simp] theorem vector_setPlinth (s : State) (i : Nat) (x : Plinth) (j : Nat) : (s.setPlinth i x).vector j = s.vector j := rfl
@[simp] theorem vector_setPort (s : State) (w : Nat) (x : Port) (j : Nat) : (s.setPort w x).vector j = s.vector j := rfl
@[simp] theorem vector_setQueue (s : State) (q : Nat) (x : Queue) (j : Nat) : (s.setQueue q x).vector j = s.vector j := rfl
@[simp] theorem vector_setLog (s : State) (d : Nat) (x : ErrLog) (j : Nat) : (s.setLog d x).vector j = s.vector j := rfl
@[simp] theorem vector_draw (s : State) (j : Nat) : (s.draw).vector j = s.vector j := rfl
@[simp] theorem vector_stamp (s : State) (u : Nat) (j : Nat) : (s.stamp u).vector j = s.vector j := rfl

@[simp] theorem log_setWord (s : State) (a : Nat) (v : Word) (j : Nat) : (s.setWord a v).log j = s.log j := rfl
@[simp] theorem log_wr (s : State) (r : Nat) (f : Field) (v : Nat) (j : Nat) : (s.wr r f v).log j = s.log j := rfl
@[simp] theorem log_bump (s : State) (r : Nat) (f : Field) (k : Nat) (j : Nat) : (s.bump r f k).log j = s.log j := rfl
@[simp] theorem log_count (s : State) (r : Nat) (f : Field) (k : Nat) (j : Nat) : (s.count r f k).log j = s.log j := rfl
@[simp] theorem log_setCore (s : State) (p : Nat) (x : Core) (j : Nat) : (s.setCore p x).log j = s.log j := rfl
@[simp] theorem log_setCtx (s : State) (c : Nat) (x : Ctx) (j : Nat) : (s.setCtx c x).log j = s.log j := rfl
@[simp] theorem log_setPlinth (s : State) (i : Nat) (x : Plinth) (j : Nat) : (s.setPlinth i x).log j = s.log j := rfl
@[simp] theorem log_setPort (s : State) (w : Nat) (x : Port) (j : Nat) : (s.setPort w x).log j = s.log j := rfl
@[simp] theorem log_setQueue (s : State) (q : Nat) (x : Queue) (j : Nat) : (s.setQueue q x).log j = s.log j := rfl
@[simp] theorem log_setVector (s : State) (v : Nat) (x : Msix) (j : Nat) : (s.setVector v x).log j = s.log j := rfl
@[simp] theorem log_draw (s : State) (j : Nat) : (s.draw).log j = s.log j := rfl
@[simp] theorem log_stamp (s : State) (u : Nat) (j : Nat) : (s.stamp u).log j = s.log j := rfl

@[simp] theorem word_setCore (s : State) (p : Nat) (x : Core) (j : Nat) : (s.setCore p x).word j = s.word j := rfl
@[simp] theorem rd_setCore (s : State) (p : Nat) (x : Core) (j : Nat) (g : Field) : (s.setCore p x).rd j g = s.rd j g := rfl
@[simp] theorem flag_setCore (s : State) (p : Nat) (x : Core) (j : Nat) (g : Field) : (s.setCore p x).flag j g = s.flag j g := rfl
@[simp] theorem word_setCtx (s : State) (c : Nat) (x : Ctx) (j : Nat) : (s.setCtx c x).word j = s.word j := rfl
@[simp] theorem rd_setCtx (s : State) (c : Nat) (x : Ctx) (j : Nat) (g : Field) : (s.setCtx c x).rd j g = s.rd j g := rfl
@[simp] theorem flag_setCtx (s : State) (c : Nat) (x : Ctx) (j : Nat) (g : Field) : (s.setCtx c x).flag j g = s.flag j g := rfl
@[simp] theorem word_setPlinth (s : State) (i : Nat) (x : Plinth) (j : Nat) : (s.setPlinth i x).word j = s.word j := rfl
@[simp] theorem rd_setPlinth (s : State) (i : Nat) (x : Plinth) (j : Nat) (g : Field) : (s.setPlinth i x).rd j g = s.rd j g := rfl
@[simp] theorem flag_setPlinth (s : State) (i : Nat) (x : Plinth) (j : Nat) (g : Field) : (s.setPlinth i x).flag j g = s.flag j g := rfl
@[simp] theorem word_setPort (s : State) (w : Nat) (x : Port) (j : Nat) : (s.setPort w x).word j = s.word j := rfl
@[simp] theorem rd_setPort (s : State) (w : Nat) (x : Port) (j : Nat) (g : Field) : (s.setPort w x).rd j g = s.rd j g := rfl
@[simp] theorem flag_setPort (s : State) (w : Nat) (x : Port) (j : Nat) (g : Field) : (s.setPort w x).flag j g = s.flag j g := rfl
@[simp] theorem word_setQueue (s : State) (q : Nat) (x : Queue) (j : Nat) : (s.setQueue q x).word j = s.word j := rfl
@[simp] theorem rd_setQueue (s : State) (q : Nat) (x : Queue) (j : Nat) (g : Field) : (s.setQueue q x).rd j g = s.rd j g := rfl
@[simp] theorem flag_setQueue (s : State) (q : Nat) (x : Queue) (j : Nat) (g : Field) : (s.setQueue q x).flag j g = s.flag j g := rfl
@[simp] theorem word_setVector (s : State) (v : Nat) (x : Msix) (j : Nat) : (s.setVector v x).word j = s.word j := rfl
@[simp] theorem rd_setVector (s : State) (v : Nat) (x : Msix) (j : Nat) (g : Field) : (s.setVector v x).rd j g = s.rd j g := rfl
@[simp] theorem flag_setVector (s : State) (v : Nat) (x : Msix) (j : Nat) (g : Field) : (s.setVector v x).flag j g = s.flag j g := rfl
@[simp] theorem word_setLog (s : State) (d : Nat) (x : ErrLog) (j : Nat) : (s.setLog d x).word j = s.word j := rfl
@[simp] theorem rd_setLog (s : State) (d : Nat) (x : ErrLog) (j : Nat) (g : Field) : (s.setLog d x).rd j g = s.rd j g := rfl
@[simp] theorem flag_setLog (s : State) (d : Nat) (x : ErrLog) (j : Nat) (g : Field) : (s.setLog d x).flag j g = s.flag j g := rfl
@[simp] theorem word_draw (s : State) (j : Nat) : (s.draw).word j = s.word j := rfl
@[simp] theorem rd_draw (s : State) (j : Nat) (g : Field) : (s.draw).rd j g = s.rd j g := rfl
@[simp] theorem flag_draw (s : State) (j : Nat) (g : Field) : (s.draw).flag j g = s.flag j g := rfl
@[simp] theorem word_stamp (s : State) (u : Nat) (j : Nat) : (s.stamp u).word j = s.word j := rfl
@[simp] theorem rd_stamp (s : State) (u : Nat) (j : Nat) (g : Field) : (s.stamp u).rd j g = s.rd j g := rfl
@[simp] theorem flag_stamp (s : State) (u : Nat) (j : Nat) (g : Field) : (s.stamp u).flag j g = s.flag j g := rfl

@[simp] theorem word_setWord_same (s : State) (a : Nat) (v : Word) : (s.setWord a v).word a = v := by
  simp [State.word, State.setWord]

theorem word_setWord_ne (s : State) (a b : Nat) (v : Word) (h : b ≠ a) : (s.setWord a v).word b = s.word b :=
  lookD_putD_ne _ _ _ _ _ _ h

/-- The slot a field of a register lies in. -/
theorem word_wr_ne (s : State) (r a : Nat) (f : Field) (v : Nat) (h : a ≠ r + 8 * (f.lo / 64)) :
    (s.wr r f v).word a = s.word a := word_setWord_ne _ _ _ _ h

theorem word_bump_ne (s : State) (r a : Nat) (f : Field) (k : Nat) (h : a ≠ r + 8 * (f.lo / 64)) :
    (s.bump r f k).word a = s.word a := word_wr_ne _ _ _ _ _ h

theorem word_count_ne (s : State) (r a : Nat) (f : Field) (k : Nat) (h : a ≠ r + 8 * (f.lo / 64)) :
    (s.count r f k).word a = s.word a := word_wr_ne _ _ _ _ _ h

/-- The slot after a field has been written. -/
theorem word_wr_same (s : State) (r : Nat) (f : Field) (v : Nat) (h : f.lo % 64 + f.n ≤ 64) :
    ((s.wr r f v).word (r + 8 * (f.lo / 64))).toNat = setBits (s.word (r + 8 * (f.lo / 64))).toNat (f.lo % 64) f.n v := by
  simp only [State.wr, word_setWord_same, BitVec.toNat_ofNat]
  exact Nat.mod_eq_of_lt (setBits_lt _ _ _ _ 64 (BitVec.isLt _) h)

/-- A field reads back what was written to it. -/
theorem rd_wr_same (s : State) (r : Nat) (f : Field) (v : Nat) (h : f.lo % 64 + f.n ≤ 64) :
    (s.wr r f v).rd r f = v % 2 ^ f.n := by
  unfold State.rd
  rw [word_wr_same s r f v h, bits_setBits_same]

/-- A field of another slot keeps its value. -/
theorem rd_wr_slot (s : State) (r q : Nat) (f g : Field) (v : Nat) (h : q + 8 * (g.lo / 64) ≠ r + 8 * (f.lo / 64)) :
    (s.wr r f v).rd q g = s.rd q g := by
  unfold State.rd
  rw [word_wr_ne s r _ f v h]

/-- Another field of the same register keeps its value. -/
theorem rd_wr_field (s : State) (r : Nat) (f g : Field) (v : Nat) (hf : f.lo % 64 + f.n ≤ 64)
    (h : g.lo / 64 ≠ f.lo / 64 ∨ g.lo % 64 + g.n ≤ f.lo % 64 ∨ f.lo % 64 + f.n ≤ g.lo % 64) :
    (s.wr r f v).rd r g = s.rd r g := by
  by_cases hs : g.lo / 64 = f.lo / 64
  · unfold State.rd
    rw [hs, word_wr_same s r f v hf]
    rcases h with h | h | h
    · exact absurd hs h
    · exact bits_setBits_below _ _ _ _ _ _ h
    · exact bits_setBits_above _ _ _ _ _ _ h
  · exact rd_wr_slot s r r f g v (by omega)

/-- A register write keeps the register file canonical: keys rising, and no slot listed at its reset value. -/
theorem setWord_regs (s : State) (a : Nat) (v : Word)
    (h : SMap.rising s.regs = true ∧ ∀ kv ∈ s.regs, kv.2 ≠ resetWord kv.1) :
    SMap.rising (s.setWord a v).regs = true ∧ ∀ kv ∈ (s.setWord a v).regs, kv.2 ≠ resetWord kv.1 := by
  refine ⟨putD_rising _ _ _ _ h.1, ?_⟩
  intro kv hk
  simp only [State.setWord, SMap.putD] at hk
  split at hk
  · exact h.2 kv (List.mem_filter.mp hk).1
  · rename_i hv
    rcases mem_put _ _ _ _ hk with rfl | hk
    · exact hv
    · exact h.2 kv hk

end Sys2Proof.Laws
end

