-- ==== Sys2Proof/Laws/Ops.lean ====
section
/-!
SUPPORT. What the shared operations do: scalar and vector registers, the program counter, issue and commit, tiles, HBM places, belay
increments, and the fabric's refusals. Proofs cite these and do not unfold the operations.
-/
namespace Sys2Proof.Laws
open Sys2Proof.Machine

/-! ### Scalar registers (R32) -/

@[simp] theorem sreg_zero (s : State) (p : Nat) : s.sreg p 0 = 0 := rfl

@[simp] theorem setSreg_zero (s : State) (p : Nat) (v : Word) : s.setSreg p 0 v = s := rfl

theorem sreg_setSreg_same (s : State) (p : Nat) (r : SReg) (v : Word) (h : r ≠ 0) : (s.setSreg p r v).sreg p r = v := by
  simp [State.sreg, State.setSreg, h]

theorem sreg_setSreg_ne (s : State) (p : Nat) (r q : SReg) (v : Word) (h : q ≠ r) : (s.setSreg p r v).sreg p q = s.sreg p q := by
  unfold State.setSreg
  split
  · rfl
  · simp only [State.sreg, core_setCore_same]
    rw [lookD_putD_ne _ _ _ _ _ _ (fun e => h (Fin.ext e))]

/-- What a scalar register holds after a write, s0 included. -/
theorem sreg_setSreg (s : State) (p : Nat) (r q : SReg) (v : Word) :
    (s.setSreg p r v).sreg p q = if q = r ∧ r ≠ 0 then v else s.sreg p q := by
  by_cases h : q = r
  · subst h
    by_cases z : q = 0
    · subst z
      rfl
    · rw [sreg_setSreg_same s p q v z]
      simp [z]
  · rw [sreg_setSreg_ne s p r q v h]
    simp [h]

theorem core_setSreg_ne (s : State) (p j : Nat) (r : SReg) (v : Word) (h : j ≠ p) : (s.setSreg p r v).core j = s.core j := by
  unfold State.setSreg
  split
  · rfl
  · exact core_setCore_ne _ _ _ _ h

/-- A scalar write changes that core's scalar registers alone. -/
theorem setSreg_frame (s : State) (p : Nat) (r : SReg) (v : Word) :
    s.setSreg p r v = { s with cores := (s.setSreg p r v).cores } ∧
    (s.setSreg p r v).core p = { s.core p with sregs := ((s.setSreg p r v).core p).sregs } := by
  unfold State.setSreg
  split
  · exact ⟨rfl, rfl⟩
  · refine ⟨rfl, ?_⟩
    rw [core_setCore_same]

@[simp] theorem word_setSreg (s : State) (p : Nat) (r : SReg) (v : Word) (a : Nat) : (s.setSreg p r v).word a = s.word a := by
  unfold State.setSreg
  split <;> rfl

/-! ### Vector registers -/

@[simp] theorem vreg_setVreg_same (s : State) (p r : Nat) (v : VWord) : (s.setVreg p r v).vreg p r = v := by
  simp [State.vreg, State.setVreg]

theorem vreg_setVreg_ne (s : State) (p r q : Nat) (v : VWord) (h : q ≠ r) : (s.setVreg p r v).vreg p q = s.vreg p q := by
  simp only [State.vreg, State.setVreg, core_setCore_same]
  rw [lookD_putD_ne _ _ _ _ _ _ h]

@[simp] theorem word_setVreg (s : State) (p r : Nat) (v : VWord) (a : Nat) : (s.setVreg p r v).word a = s.word a := rfl

@[simp] theorem sreg_setVreg (s : State) (p r : Nat) (v : VWord) (q : SReg) : (s.setVreg p r v).sreg p q = s.sreg p q := by
  unfold State.setVreg State.sreg
  rw [core_setCore_same]

/-! ### The program counter and commit (R149) -/

@[simp] theorem pc_setPc_same (s : State) (p : Nat) (v : Word) : (s.setPc p v).pc p = v := word_setWord_same _ _ _

theorem pc_setPc_ne (s : State) (p q : Nat) (v : Word) (h : q ≠ p) : (s.setPc p v).pc q = s.pc q :=
  word_setWord_ne _ _ _ _ (by unfold R.SEQ_PC; omega)

@[simp] theorem core_setPc (s : State) (p q : Nat) (v : Word) : (s.setPc p v).core q = s.core q := rfl

/-- SEQ_CTRL is the one slot that an instruction boundary writes. -/
theorem word_seqBoundary (s : State) (p a : Nat) (h : a ≠ R.SEQ_CTRL p) : (s.seqBoundary p).word a = s.word a := by
  unfold State.seqBoundary
  dsimp only
  split
  · rfl
  · rw [show ∀ (t : State) (x : Core), (t.setCore p x).word a = t.word a from fun _ _ => rfl]
    rw [word_wr_ne _ _ _ _ _ (by simpa [F.SEQ_CTRL.SPEC_HBM_EN] using h),
      word_wr_ne _ _ _ _ _ (by simpa [F.SEQ_CTRL.RUNAHEAD_DEPTH] using h),
      word_wr_ne _ _ _ _ _ (by simpa [F.SEQ_CTRL.RUNAHEAD_EN] using h)]

theorem wr_frame (s : State) (r : Nat) (f : Field) (v : Nat) : ∃ l, s.wr r f v = { s with regs := l } := ⟨_, rfl⟩

/-- An instruction boundary changes registers and the pending values of SEQ_CTRL alone. -/
theorem seqBoundary_frame (s : State) (p : Nat) :
    s.seqBoundary p = { s with regs := (s.seqBoundary p).regs, cores := (s.seqBoundary p).cores } ∧
    (s.seqBoundary p).core p = { s.core p with seqP := (none, none, none) } ∧
    ∀ q, q ≠ p → (s.seqBoundary p).core q = s.core q := by
  unfold State.seqBoundary
  dsimp only
  split
  · rename_i h
    refine ⟨rfl, ?_, fun _ _ => rfl⟩
    rw [← h]
  · obtain ⟨l, e⟩ := wr_frame s (R.SEQ_CTRL p) F.SEQ_CTRL.RUNAHEAD_EN
      (pendNat (s.core p).seqP.1 (s.rd (R.SEQ_CTRL p) F.SEQ_CTRL.RUNAHEAD_EN))
    rw [e]
    generalize pendNat _ _ = y
    obtain ⟨l, e⟩ := wr_frame { s with regs := l } (R.SEQ_CTRL p) F.SEQ_CTRL.RUNAHEAD_DEPTH y
    rw [e]
    dsimp only
    generalize pendNat _ _ = y
    obtain ⟨l, e⟩ := wr_frame { s with regs := l } (R.SEQ_CTRL p) F.SEQ_CTRL.SPEC_HBM_EN y
    rw [e]
    dsimp only
    refine ⟨rfl, ?_, fun q hq => ?_⟩
    · rw [core_setCore_same]
      rfl
    · rw [core_setCore_ne _ _ _ _ hq]
      rfl

@[simp] theorem sreg_seqBoundary (s : State) (p : Nat) (r : SReg) : (s.seqBoundary p).sreg p r = s.sreg p r := by
  unfold State.sreg
  rw [(seqBoundary_frame s p).2.1]

@[simp] theorem vreg_seqBoundary (s : State) (p r : Nat) : (s.seqBoundary p).vreg p r = s.vreg p r := by
  unfold State.vreg
  rw [(seqBoundary_frame s p).2.1]

@[simp] theorem pc_seqBoundary (s : State) (p q : Nat) : (s.seqBoundary p).pc q = s.pc q := by
  by_cases h : R.SEQ_PC q = R.SEQ_CTRL p
  · unfold R.SEQ_PC R.SEQ_CTRL at h
    omega
  · exact word_seqBoundary s p _ h

/-! ### Progress of units (R350) -/

@[simp] theorem pc_stamp (s : State) (u p : Nat) : (s.stamp u).pc p = s.pc p := rfl
@[simp] theorem sreg_stamp (s : State) (u p : Nat) (r : SReg) : (s.stamp u).sreg p r = s.sreg p r := rfl
@[simp] theorem vreg_stamp (s : State) (u p r : Nat) : (s.stamp u).vreg p r = s.vreg p r := rfl

/-- A stamp is the present time at one unit; the others keep theirs. -/
theorem prog_stamp (s : State) (u v : Nat) :
    SMap.lookD (s.stamp u).prog v 0 = if v = u then s.time else SMap.lookD s.prog v 0 := by
  unfold State.stamp
  by_cases h : v = u
  · subst h
    simp [SMap.lookD, look_put_same]
  · simp [SMap.lookD, look_put_ne _ _ _ _ h, h]

/-- A unit of core `p` is one. -/
theorem coreOfUnit_uCore (p : Nat) (h : p < 104) : coreOfUnit (uCore p) = some p := by
  have a : bits (uCore p) 12 4 = 1 := by
    unfold bits uCore unitOf
    rw [Nat.shiftRight_eq_div_pow]
    omega
  have b : bits (uCore p) 0 12 = p := by
    unfold bits uCore unitOf
    rw [Nat.shiftRight_eq_div_pow]
    omega
  unfold coreOfUnit
  simp only [a, b, if_true]

@[simp] theorem pc_commitAt (s : State) (p : Nat) (v : Word) : (s.commitAt p v).pc p = v := by
  simp [State.commitAt]

@[simp] theorem sreg_commitAt (s : State) (p : Nat) (v : Word) (r : SReg) : (s.commitAt p v).sreg p r = s.sreg p r := by
  simp only [State.commitAt, sreg_stamp, sreg_seqBoundary]
  rfl

@[simp] theorem vreg_commitAt (s : State) (p : Nat) (v : Word) (r : Nat) : (s.commitAt p v).vreg p r = s.vreg p r := by
  simp only [State.commitAt, vreg_stamp, vreg_seqBoundary]
  rfl

/-- A commit moves the program counter, lets SEQ_CTRL take its pending values, and notes the sequencer's progress; nothing else changes. -/
theorem commitAt_sameBut (s : State) (p : Nat) (v : Word) (hp : p < 104) :
    sameBut p [R.SEQ_PC p, R.SEQ_CTRL p] s (s.commitAt p v) := by
  obtain ⟨e, _, o⟩ := seqBoundary_frame (s.setPc p v) p
  refine ⟨?_, fun q h => o q h, fun a h => ?_, fun u h => ?_⟩
  · unfold State.commitAt
    rw [e]
    rfl
  · simp only [List.mem_cons, List.not_mem_nil, or_false, not_or] at h
    unfold State.commitAt
    rw [word_stamp, word_seqBoundary _ _ _ h.2]
    exact word_setWord_ne _ _ _ _ h.1
  · unfold State.commitAt
    have n : u ≠ uCore p := fun x => h (by rw [x]; exact coreOfUnit_uCore p hp)
    rw [prog_stamp, if_neg n, e]
    rfl

/-- A commit with a scalar result: the result stands in its register, and the program counter moves on by 8. -/
theorem commitReg_result (s : State) (p : Nat) (rd q : SReg) (v : Word) :
    (s.commitReg p rd v).sreg p q = (if q = rd ∧ rd ≠ 0 then v else s.sreg p q) ∧ (s.commitReg p rd v).pc p = s.pc p + 8 := by
  unfold State.commitReg State.commit
  refine ⟨?_, ?_⟩
  · rw [sreg_commitAt, sreg_setSreg]
  · rw [pc_commitAt]
    unfold State.pc
    rw [word_setSreg]

/-- A commit with a scalar result touches that core, its program counter and its SEQ_CTRL alone. -/
theorem commitReg_sameBut (s : State) (p : Nat) (rd : SReg) (v : Word) (hp : p < 104) :
    sameBut p [R.SEQ_PC p, R.SEQ_CTRL p] s (s.commitReg p rd v) := by
  obtain ⟨e, o, w, g⟩ := commitAt_sameBut (s.setSreg p rd v) p ((s.setSreg p rd v).pc p + 8) hp
  have f := (setSreg_frame s p rd v).1
  refine ⟨?_, fun q h => (o q h).trans (core_setSreg_ne s p q rd v h), fun a h => (w a h).trans (word_setSreg s p rd v a),
    fun u h => (g u h).trans (by rw [f])⟩
  unfold State.commitReg State.commit
  rw [e, f]

/-! ### Issue (R149, R168) -/

/-- An instruction that is fetched and legal runs. -/
theorem issue_runs (s t : State) (p n c : Nat) (f : State → Nat → State) (h : s.issues p n c t) : s.issue p true n f = f t c := by
  obtain ⟨-, a, b, e⟩ := h
  simp [State.issue, a, b, e]

/-- An illegal encoding raises ILLEGAL_INSN. -/
theorem issue_illegal (s t : State) (p n c : Nat) (f : State → Nat → State) (h : s.issues p n c t) :
    s.issue p false n f = t.raiseInsn p c cIllegalInsn (t.pc p).toNat 0 := by
  obtain ⟨-, a, b, e⟩ := h
  simp [State.issue, a, b, e]

/-- On a core that runs no context that may issue, an instruction has no effect. -/
theorem issue_idle (s : State) (p n : Nat) (l : Bool) (f : State → Nat → State) (h : s.running p = none) : s.issue p l n f = s := by
  simp [State.issue, h]

/-- While a load, a wait, a yield or a halt stands, no instruction has an effect. -/
theorem issue_stalled (s : State) (p n : Nat) (l : Bool) (f : State → Nat → State) (h : s.mayIssue p = false) : s.issue p l n f = s := by
  unfold State.issue
  cases s.running p <;> simp [h]

/-! ### Tiles (R38, R40) -/

@[simp] theorem info_put_same (t : Tiled) (i : Nat) (d : List Byte) (m : TileMeta) : (t.put i d m).info i = m := by
  simp [Tiled.put, Tiled.info]

theorem info_put_ne (t : Tiled) (i j : Nat) (d : List Byte) (m : TileMeta) (h : j ≠ i) : (t.put i d m).info j = t.info j :=
  lookD_putD_ne _ _ _ _ _ _ h

@[simp] theorem info_mark_same (t : Tiled) (i : Nat) (m : TileMeta) : (t.mark i m).info i = m := by
  simp [Tiled.mark, Tiled.info]

theorem info_mark_ne (t : Tiled) (i j : Nat) (m : TileMeta) (h : j ≠ i) : (t.mark i m).info j = t.info j :=
  lookD_putD_ne _ _ _ _ _ _ h

/-- A tile's seal and state leave its bytes. -/
@[simp] theorem bytes_mark (t : Tiled) (i : Nat) (m : TileMeta) : (t.mark i m).bytes = t.bytes := rfl

/-- Storing a tile keeps the byte memory canonical. -/
theorem put_wf (t : Tiled) (i : Nat) (d : List Byte) (m : TileMeta) (h : Memory.wf t.bytes = true) :
    Memory.wf (t.put i d m).bytes = true := memory_write_wf _ _ _ h

/-- So does erasing. -/
theorem erase_wf (t : Tiled) (i n : Nat) (h : Memory.wf t.bytes = true) : Memory.wf (t.erase i n).bytes = true :=
  memory_clear_wf _ _ _ h

/-- Storing a tile of 2048 bytes leaves every byte outside it. -/
theorem byte_put_outside (t : Tiled) (i b : Nat) (d : List Byte) (m : TileMeta) (h : b / 2048 ≠ i) (l : d.length = 2048) :
    Memory.byte (t.put i d m).bytes b = Memory.byte t.bytes b := by
  unfold Tiled.put
  rw [memory_byte_write]
  have : ¬ (2048 * i ≤ b ∧ b < 2048 * i + d.length) := by
    rw [l]
    omega
  simp [this]

/-! ### Places of HBM (R196 to R198) -/

theorem mem_natsFrom (a n x : Nat) (h : x ∈ natsFrom a n) : a ≤ x ∧ x < a + n := by
  induction n generalizing a with
  | zero => cases h
  | succ n ih =>
    rcases List.mem_cons.mp h with h | h
    · omega
    · have := ih _ h
      omega

/-- The stacks of a partition are sites of the package. -/
theorem sites_lt (s : State) (p v : Nat) (m : v ∈ s.sitesOf p) : v < 8 := by
  unfold State.sitesOf onesOf at m
  have := mem_natsFrom 0 8 v (List.mem_filter.mp m).1
  omega

theorem site_lt (l : List Nat) (h : ∀ v ∈ l, v < 8) (k : Nat) : l.getD k 0 < 8 := by
  rw [List.getD_eq_getElem?_getD]
  cases e : l[k]? with
  | none => exact Nat.zero_lt_succ 7
  | some v => exact h v (List.mem_of_getElem? e)

/-- An HBM address lies in one of the eight sites. -/
theorem place_lt (s : State) (a : Nat) (x : Nat × Nat × Nat) (h : s.place a = some x) : x.1 < 8 := by
  unfold State.place at h
  generalize s.partOfAddr a = q at h
  cases q with
  | none => cases h
  | some p =>
    dsimp only at h
    generalize hbmMap (a - s.rd (R.MEM_PART p) F.MEM_PART.BASE <<< 30) (s.sitesOf p).length = z at h
    obtain ⟨z, y, w⟩ := z
    dsimp only at h
    split at h
    · cases h
    · injection h with h
      rw [← h]
      exact site_lt _ (sites_lt s p) _

theorem siteOf_lt (s : State) (i : Nat) : s.siteOf i < 8 := by
  unfold State.siteOf
  cases e : s.place (2048 * i) with
  | none => exact Nat.zero_lt_succ 7
  | some x => exact place_lt s _ x e

/-! ### Belay increments (R51, R221) -/

/-- An increment from outside the core is applied exactly where the context is resident, not fenced, and the cell is its own. -/
theorem blyInc_done (s t : State) (c p cell amount : Nat) (h : s.blyInc c p cell amount = .done t) :
    ∃ i, s.slotOf p c = some i ∧ (s.ctx c).fenced = false ∧ cell < s.cellCount p i ∧ t = s.blyAdd c p i cell amount := by
  unfold State.blyInc at h
  cases e : s.slotOf p c with
  | none => simp [e] at h
  | some i =>
    simp only [e] at h
    split at h
    · cases h
    · rename_i hf
      split at h
      · cases h
      · rename_i hc
        injection h with h
        exact ⟨i, rfl, by simpa using hf, by omega, h.symm⟩

/-! ### Fabric requests (R220) -/

/-- A request whose KEY no live context has is refused. -/
theorem serve_unkeyed (s : State) (cls : Nat) (h : FabHdr) (d : List Byte) (r : Bool) (v : (s.region h.addr.toNat).reached = true)
    (k : s.keyed h.key.toNat = []) : s.serve cls h d r = (s.refuse none h 1, true) := by
  simp [State.serve, v, k]

/-- A request for a fenced context is refused. -/
theorem serve_fenced (s : State) (cls c : Nat) (h : FabHdr) (d : List Byte) (r : Bool) (v : (s.region h.addr.toNat).reached = true)
    (k : s.keyed h.key.toNat = [c]) (f : (s.ctx c).fenced = true) : s.serve cls h d r = (s.refuse (some c) h 4, true) := by
  simp [State.serve, v, k, f]

/-- A request whose KEY more than one live context has is refused. -/
theorem serve_ambiguous (s : State) (cls a b : Nat) (l : List Nat) (h : FabHdr) (d : List Byte) (r : Bool)
    (v : (s.region h.addr.toNat).reached = true) (k : s.keyed h.key.toNat = a :: b :: l) :
    s.serve cls h d r = (s.refuse none h 3, true) := by
  simp [State.serve, v, k]

/-- A request for an address that no request reaches is refused before its KEY is looked at (R221). -/
theorem serve_unreached (s : State) (cls : Nat) (h : FabHdr) (d : List Byte) (r : Bool) (v : (s.region h.addr.toNat).reached = false) :
    s.serve cls h d r = (s.refuse none h 2, true) := by
  simp [State.serve, v]

/-! ### What the place of an address rests on (R194, R206, R207) -/

theorem rd_regs (s t : State) (h : t.regs = s.regs) (r : Nat) (f : Field) : t.rd r f = s.rd r f := by
  unfold State.rd State.word
  rw [h]

theorem partOfAddr_regs (s t : State) (h : t.regs = s.regs) (a : Nat) : t.partOfAddr a = s.partOfAddr a := by
  unfold State.partOfAddr
  simp only [rd_regs s t h]

/-- The place of an address rests on registers alone. -/
theorem place_regs (s t : State) (h : t.regs = s.regs) (a : Nat) : t.place a = s.place a := by
  unfold State.place State.sitesOf
  simp only [rd_regs s t h, partOfAddr_regs s t h]

theorem siteOf_regs (s t : State) (h : t.regs = s.regs) (i : Nat) : t.siteOf i = s.siteOf i := by
  unfold State.siteOf
  rw [place_regs s t h]

/-- So does the channel that serves it. -/
theorem served_regs (s t : State) (h : t.regs = s.regs) (a : Nat) : t.served a = s.served a := by
  unfold State.served State.chanOf
  simp only [rd_regs s t h, place_regs s t h]

theorem tilePlace_regs (s t : State) (h : t.regs = s.regs) (i : Nat) : t.tilePlace i = s.tilePlace i := by
  unfold State.tilePlace
  simp only [served_regs s t h, place_regs s t h]

/-- Whether a tile must wait rests on registers and plinths. -/
theorem tileBlocked_regs (s t : State) (h : t.regs = s.regs) (k : t.plinths = s.plinths) (i : Nat) :
    t.tileBlocked i = s.tileBlocked i := by
  unfold State.tileBlocked State.tileHeld State.stopped State.plinth
  simp only [rd_regs s t h, siteOf_regs s t h, tilePlace_regs s t h, k]

/-! ### DRAM operations (R192, R196, R350) -/

/-- Noting a DRAM operation changes nothing but the channels' progress. -/
theorem dramDone_frame (s : State) (i : Nat) : s.dramDone i = { s with prog := (s.dramDone i).prog } := by
  unfold State.dramDone
  cases s.tilePlace i with
  | none => rfl
  | some x =>
    obtain ⟨site, cs⟩ := x
    dsimp only
    induction cs generalizing s with
    | nil => rfl
    | cons c cs ih =>
      simp only [List.foldl_cons]
      rw [ih]
      rfl

@[simp] theorem dramDone_hbm (s : State) (i : Nat) : (s.dramDone i).hbm = s.hbm := by rw [dramDone_frame]

@[simp] theorem dramDone_ue (s : State) (i : Nat) : (s.dramDone i).ue = s.ue := by rw [dramDone_frame]

@[simp] theorem dramDone_tileBlocked (s : State) (i j : Nat) : (s.dramDone i).tileBlocked j = s.tileBlocked j := by
  refine tileBlocked_regs _ _ ?_ ?_ j <;> rw [dramDone_frame]

@[simp] theorem dramDone_siteOf (s : State) (i j : Nat) : (s.dramDone i).siteOf j = s.siteOf j := by
  refine siteOf_regs _ _ ?_ j
  rw [dramDone_frame]

/-- A check of an HBM tile that finds it sound and sealed changes nothing else (R196). -/
theorem hbmCheck_sealed (s : State) (i : Nat) (n : Bool) (st : (s.hbm.info i).st = .sealed) (b : s.badSectors i = [])
    (ok : sealOf (s.hbm.data i) = (s.hbm.info i).sl) : s.hbmCheck i n = (s.dramDone i, false) := by
  have d : (s.dramDone i).badSectors i = [] := by simpa [State.badSectors] using b
  simp [State.hbmCheck, st, d, ok]

/-- A tile that is stored holds the bytes, seal and state it was given, and its sectors carry fresh ECC (R192, R198). -/
theorem putTile_hbm (s : State) (i : Nat) (d : List Byte) (m : TileMeta) :
    (s.putTile i d m).hbm = s.hbm.put i d m ∧ (s.putTile i d m).badSectors i = [] := by
  simp [State.putTile, State.badSectors, State.freshEcc]

/-! ### Keys of packages and images (R336, R394) -/

theorem keccakRound_length (a : List Nat) (rc : Nat) : (keccakRound a rc).length = 25 := by rfl

theorem keccakF_length (a : List Nat) (h : a.length = 25) : (keccakF a).length = 25 := by
  unfold keccakF
  generalize keccakRc = l
  induction l generalizing a with
  | nil => exact h
  | cons c l ih => exact ih _ (keccakRound_length a c)

/-- A SHA3-512 digest has 64 bytes. -/
theorem sha3_length (m : List Byte) : (sha3_512 m).length = 64 := by
  have k : ∀ (l : List (List Byte)) (a : List Nat), a.length = 25 → (l.foldl absorb a).length = 25 := by
    intro l
    induction l with
    | nil => intro a h; exact h
    | cons b l ih => intro a _; exact ih _ (keccakF_length _ (by rfl))
  have f : ∀ (l : List Nat), (l.flatMap (fun x => natLe x 8)).length = 8 * l.length := by
    intro l
    induction l with
    | nil => rfl
    | cons b l ih =>
      rw [List.flatMap_cons, List.length_append, ih, natLe_length, List.length_cons]
      omega
  unfold sha3_512
  simp only [f, List.length_take, k _ _ (List.length_replicate ..)]
  rfl
/-- A key fits the fuse that holds its own hash. -/
theorem keyFits_own (k : List Byte) : keyFits k (BitVec.ofNat 512 (leNat (sha3_512 (slice k 0x40 2592)))) = true := by
  have l := leNat_lt (sha3_512 (slice k 0x40 2592))
  have n := natLe_leNat (sha3_512 (slice k 0x40 2592))
  rw [sha3_length] at l n
  unfold keyFits
  rw [BitVec.toNat_ofNat, Nat.mod_eq_of_lt (by omega), n]
  exact beq_self_eq_true _

end Sys2Proof.Laws
end

