-- ==== Sys2Proof/Laws/PerInstr.lean ====
section
/-!
SUPPORT. The family Encoding: what an instruction's words say does not depend on the hardware checks that a command reports
as failing, nor on the core that commits it.
-/
namespace Sys2Proof.Laws
open Sys2Proof.Machine

/-- The words and the legality of an instruction are those of its quiet form. -/
def Encoding.Statement (i : Instr) : Prop :=
  ∀ p, encodeTis (quiet p i) = encodeTis i ∧ (quiet p i).wellFormed = i.wellFormed

theorem Encoding.sclAdd (p : CoreId) (rd ra rb : SReg) :
    Encoding.Statement (.sclAdd p rd ra rb) := fun _ => ⟨rfl, rfl⟩
theorem Encoding.sclSub (p : CoreId) (rd ra rb : SReg) :
    Encoding.Statement (.sclSub p rd ra rb) := fun _ => ⟨rfl, rfl⟩
theorem Encoding.sclMul (p : CoreId) (rd ra rb : SReg) :
    Encoding.Statement (.sclMul p rd ra rb) := fun _ => ⟨rfl, rfl⟩
theorem Encoding.sclAnd (p : CoreId) (rd ra rb : SReg) :
    Encoding.Statement (.sclAnd p rd ra rb) := fun _ => ⟨rfl, rfl⟩
theorem Encoding.sclOr (p : CoreId) (rd ra rb : SReg) :
    Encoding.Statement (.sclOr p rd ra rb) := fun _ => ⟨rfl, rfl⟩
theorem Encoding.sclXor (p : CoreId) (rd ra rb : SReg) :
    Encoding.Statement (.sclXor p rd ra rb) := fun _ => ⟨rfl, rfl⟩
theorem Encoding.sclShl (p : CoreId) (rd ra rb : SReg) :
    Encoding.Statement (.sclShl p rd ra rb) := fun _ => ⟨rfl, rfl⟩
theorem Encoding.sclShr (p : CoreId) (rd ra rb : SReg) :
    Encoding.Statement (.sclShr p rd ra rb) := fun _ => ⟨rfl, rfl⟩
theorem Encoding.sclSar (p : CoreId) (rd ra rb : SReg) :
    Encoding.Statement (.sclSar p rd ra rb) := fun _ => ⟨rfl, rfl⟩
theorem Encoding.sclSlt (p : CoreId) (rd ra rb : SReg) :
    Encoding.Statement (.sclSlt p rd ra rb) := fun _ => ⟨rfl, rfl⟩
theorem Encoding.sclSltu (p : CoreId) (rd ra rb : SReg) :
    Encoding.Statement (.sclSltu p rd ra rb) := fun _ => ⟨rfl, rfl⟩
theorem Encoding.sclAddi (p : CoreId) (rd ra : SReg) (imm : BitVec 40) :
    Encoding.Statement (.sclAddi p rd ra imm) := fun _ => ⟨rfl, rfl⟩
theorem Encoding.sclAndi (p : CoreId) (rd ra : SReg) (imm : BitVec 40) :
    Encoding.Statement (.sclAndi p rd ra imm) := fun _ => ⟨rfl, rfl⟩
theorem Encoding.sclOri (p : CoreId) (rd ra : SReg) (imm : BitVec 40) :
    Encoding.Statement (.sclOri p rd ra imm) := fun _ => ⟨rfl, rfl⟩
theorem Encoding.sclXori (p : CoreId) (rd ra : SReg) (imm : BitVec 40) :
    Encoding.Statement (.sclXori p rd ra imm) := fun _ => ⟨rfl, rfl⟩
theorem Encoding.sclShli (p : CoreId) (rd ra : SReg) (count : BitVec 6) :
    Encoding.Statement (.sclShli p rd ra count) := fun _ => ⟨rfl, rfl⟩
theorem Encoding.sclShri (p : CoreId) (rd ra : SReg) (count : BitVec 6) :
    Encoding.Statement (.sclShri p rd ra count) := fun _ => ⟨rfl, rfl⟩
theorem Encoding.sclSari (p : CoreId) (rd ra : SReg) (count : BitVec 6) :
    Encoding.Statement (.sclSari p rd ra count) := fun _ => ⟨rfl, rfl⟩
theorem Encoding.sclSlti (p : CoreId) (rd ra : SReg) (imm : BitVec 40) :
    Encoding.Statement (.sclSlti p rd ra imm) := fun _ => ⟨rfl, rfl⟩
theorem Encoding.sclLi (p : CoreId) (rd : SReg) (imm : BitVec 40) :
    Encoding.Statement (.sclLi p rd imm) := fun _ => ⟨rfl, rfl⟩
theorem Encoding.sclLih (p : CoreId) (rd ra : SReg) (imm : BitVec 24) :
    Encoding.Statement (.sclLih p rd ra imm) := fun _ => ⟨rfl, rfl⟩
theorem Encoding.sclLd (p : CoreId) (rd ra : SReg) (size : MSize) (space : Space) (off : BitVec 32) :
    Encoding.Statement (.sclLd p rd ra size space off) := fun _ => ⟨rfl, rfl⟩
theorem Encoding.sclLds (p : CoreId) (rd ra : SReg) (size : MSize) (space : Space) (off : BitVec 32) :
    Encoding.Statement (.sclLds p rd ra size space off) := fun _ => ⟨rfl, rfl⟩
theorem Encoding.sclSt (p : CoreId) (rd ra : SReg) (size : MSize) (space : Space) (off : BitVec 32) :
    Encoding.Statement (.sclSt p rd ra size space off) := fun _ => ⟨rfl, rfl⟩
theorem Encoding.sclInfo (p : CoreId) (rd : SReg) (sel : BitVec 4) :
    Encoding.Statement (.sclInfo p rd sel) := fun _ => ⟨rfl, rfl⟩
theorem Encoding.seqLoadReturn (p : CoreId) :
    Encoding.Statement (.seqLoadReturn p) := fun _ => ⟨rfl, rfl⟩
theorem Encoding.specReadReturn (p : CoreId) :
    Encoding.Statement (.specReadReturn p) := fun _ => ⟨rfl, rfl⟩
theorem Encoding.runaheadSquash (p : CoreId) :
    Encoding.Statement (.runaheadSquash p) := fun _ => ⟨rfl, rfl⟩
theorem Encoding.ctlNop (p : CoreId) :
    Encoding.Statement (.ctlNop p) := fun _ => ⟨rfl, rfl⟩
theorem Encoding.ctlBr (p : CoreId) (cond : Cond) (hint : Bool) (ra rb : SReg) (off : BitVec 34) :
    Encoding.Statement (.ctlBr p cond hint ra rb off) := fun _ => ⟨rfl, rfl⟩
theorem Encoding.ctlJmp (p : CoreId) (rd : SReg) (off : BitVec 40) :
    Encoding.Statement (.ctlJmp p rd off) := fun _ => ⟨rfl, rfl⟩
theorem Encoding.ctlJr (p : CoreId) (rd ra : SReg) :
    Encoding.Statement (.ctlJr p rd ra) := fun _ => ⟨rfl, rfl⟩
theorem Encoding.ctlStep (p : CoreId) :
    Encoding.Statement (.ctlStep p) := fun _ => ⟨rfl, rfl⟩
theorem Encoding.ctlYield (p : CoreId) :
    Encoding.Statement (.ctlYield p) := fun _ => ⟨rfl, rfl⟩
theorem Encoding.yieldSwitch (p : CoreId) (sealFail : Bool) :
    Encoding.Statement (.yieldSwitch p sealFail) := fun _ => ⟨rfl, rfl⟩
theorem Encoding.ctlHalt (p : CoreId) :
    Encoding.Statement (.ctlHalt p) := fun _ => ⟨rfl, rfl⟩
theorem Encoding.ctlFence (p : CoreId) (scope : FScope) :
    Encoding.Statement (.ctlFence p scope) := fun _ => ⟨rfl, rfl⟩
theorem Encoding.ctlSeth (p : CoreId) (ra : SReg) :
    Encoding.Statement (.ctlSeth p ra) := fun _ => ⟨rfl, rfl⟩
theorem Encoding.ctlReth (p : CoreId) :
    Encoding.Statement (.ctlReth p) := fun _ => ⟨rfl, rfl⟩
theorem Encoding.blyInc (p : CoreId) (cell : BitVec 10) (ra : SReg) (imm : BitVec 18) :
    Encoding.Statement (.blyInc p cell ra imm) := fun _ => ⟨rfl, rfl⟩
theorem Encoding.blyInca (p : CoreId) (ra rb : SReg) (imm : BitVec 18) :
    Encoding.Statement (.blyInca p ra rb imm) := fun _ => ⟨rfl, rfl⟩
theorem Encoding.blyWait (p : CoreId) (cell : BitVec 10) (rb rc : SReg) (coll : Bool) :
    Encoding.Statement (.blyWait p cell rb rc coll) := fun _ => ⟨rfl, rfl⟩
theorem Encoding.blyRead (p : CoreId) (rd : SReg) (cell : BitVec 10) :
    Encoding.Statement (.blyRead p rd cell) := fun _ => ⟨rfl, rfl⟩
theorem Encoding.belayWaitResume (p : CoreId) :
    Encoding.Statement (.belayWaitResume p) := fun _ => ⟨rfl, rfl⟩
theorem Encoding.waitIdleEntry (p : CoreId) :
    Encoding.Statement (.waitIdleEntry p) := fun _ => ⟨rfl, rfl⟩
theorem Encoding.belayTimeout (p : CoreId) :
    Encoding.Statement (.belayTimeout p) := fun _ => ⟨rfl, rfl⟩
theorem Encoding.dmaCopy (p : CoreId) (d : DmaCopy) :
    Encoding.Statement (.dmaCopy p d) := fun _ => ⟨rfl, rfl⟩
theorem Encoding.dmaShape (p : CoreId) (eng : DmaId) (rn rss rds : SReg) :
    Encoding.Statement (.dmaShape p eng rn rss rds) := fun _ => ⟨rfl, rfl⟩
theorem Encoding.dmaDescriptorStart (p : CoreId) (eng : DmaId) :
    Encoding.Statement (.dmaDescriptorStart p eng) := fun _ => ⟨rfl, rfl⟩
theorem Encoding.dmaWaitTimeout (p : CoreId) (eng : DmaId) :
    Encoding.Statement (.dmaWaitTimeout p eng) := fun _ => ⟨rfl, rfl⟩
theorem Encoding.dmaComplete (p : CoreId) (eng : DmaId) :
    Encoding.Statement (.dmaComplete p eng) := fun _ => ⟨rfl, rfl⟩
theorem Encoding.cubLds (p : CoreId) (d : CubLds) :
    Encoding.Statement (.cubLds p d) := fun _ => ⟨rfl, rfl⟩
theorem Encoding.cubLdsc (p : CoreId) (d : CubLdsc) :
    Encoding.Statement (.cubLdsc p d) := fun _ => ⟨rfl, rfl⟩
theorem Encoding.cubMma (p : CoreId) (d : CubMma) :
    Encoding.Statement (.cubMma p d) := fun _ => ⟨rfl, rfl⟩
theorem Encoding.cubDrain (p : CoreId) (d : CubDrain) :
    Encoding.Statement (.cubDrain p d) := fun _ => ⟨rfl, rfl⟩
theorem Encoding.cubeLoadGrant (p : CoreId) :
    Encoding.Statement (.cubeLoadGrant p) := fun _ => ⟨rfl, rfl⟩
theorem Encoding.cubeRingStep (p : CoreId) (which : Fin 16) :
    Encoding.Statement (.cubeRingStep p which) := fun _ => ⟨rfl, rfl⟩
theorem Encoding.cubeAccumUpdate (p : CoreId) (errs : List CubeErr) :
    Encoding.Statement (.cubeAccumUpdate p errs) := fun _ => ⟨rfl, rfl⟩
theorem Encoding.cubeDrainExec (p : CoreId) :
    Encoding.Statement (.cubeDrainExec p) := fun _ => ⟨rfl, rfl⟩
theorem Encoding.ballastOp (p : CoreId) (c : CubeId) (err : Int) :
    Encoding.Statement (.ballastOp p c err) := fun _ => ⟨rfl, rfl⟩
theorem Encoding.cubeRampDownEntry (p : CoreId) (c : CubeId) :
    Encoding.Statement (.cubeRampDownEntry p c) := fun _ => ⟨rfl, rfl⟩
theorem Encoding.cubeDutyStep (p : CoreId) (c : CubeId) :
    Encoding.Statement (.cubeDutyStep p c) := fun _ => ⟨rfl, rfl⟩
theorem Encoding.vecAdd (p : CoreId) (fmt : Fmt) (rd ra rb : VReg) (ma mb : VMod) (flt : VFault) :
    Encoding.Statement (.vecAdd p fmt rd ra rb ma mb flt) := fun _ => ⟨rfl, rfl⟩
theorem Encoding.vecSub (p : CoreId) (fmt : Fmt) (rd ra rb : VReg) (ma mb : VMod) (flt : VFault) :
    Encoding.Statement (.vecSub p fmt rd ra rb ma mb flt) := fun _ => ⟨rfl, rfl⟩
theorem Encoding.vecMul (p : CoreId) (fmt : Fmt) (rd ra rb : VReg) (ma mb : VMod) (flt : VFault) :
    Encoding.Statement (.vecMul p fmt rd ra rb ma mb flt) := fun _ => ⟨rfl, rfl⟩
theorem Encoding.vecFma (p : CoreId) (fmt : Fmt) (rd ra rb rc : VReg) (ma mb mc : VMod) (flt : VFault) :
    Encoding.Statement (.vecFma p fmt rd ra rb rc ma mb mc flt) := fun _ => ⟨rfl, rfl⟩
theorem Encoding.vecMax (p : CoreId) (fmt : Fmt) (rd ra rb : VReg) (ma mb : VMod) (flt : VFault) :
    Encoding.Statement (.vecMax p fmt rd ra rb ma mb flt) := fun _ => ⟨rfl, rfl⟩
theorem Encoding.vecMin (p : CoreId) (fmt : Fmt) (rd ra rb : VReg) (ma mb : VMod) (flt : VFault) :
    Encoding.Statement (.vecMin p fmt rd ra rb ma mb flt) := fun _ => ⟨rfl, rfl⟩
theorem Encoding.vecIadd (p : CoreId) (rd ra rb : VReg) (flt : VFault) :
    Encoding.Statement (.vecIadd p rd ra rb flt) := fun _ => ⟨rfl, rfl⟩
theorem Encoding.vecIsub (p : CoreId) (rd ra rb : VReg) (flt : VFault) :
    Encoding.Statement (.vecIsub p rd ra rb flt) := fun _ => ⟨rfl, rfl⟩
theorem Encoding.vecImul (p : CoreId) (rd ra rb : VReg) (flt : VFault) :
    Encoding.Statement (.vecImul p rd ra rb flt) := fun _ => ⟨rfl, rfl⟩
theorem Encoding.vecAnd (p : CoreId) (rd ra rb : VReg) (flt : VFault) :
    Encoding.Statement (.vecAnd p rd ra rb flt) := fun _ => ⟨rfl, rfl⟩
theorem Encoding.vecOr (p : CoreId) (rd ra rb : VReg) (flt : VFault) :
    Encoding.Statement (.vecOr p rd ra rb flt) := fun _ => ⟨rfl, rfl⟩
theorem Encoding.vecXor (p : CoreId) (rd ra rb : VReg) (flt : VFault) :
    Encoding.Statement (.vecXor p rd ra rb flt) := fun _ => ⟨rfl, rfl⟩
theorem Encoding.vecNot (p : CoreId) (rd ra : VReg) (flt : VFault) :
    Encoding.Statement (.vecNot p rd ra flt) := fun _ => ⟨rfl, rfl⟩
theorem Encoding.vecShl (p : CoreId) (rd ra rb : VReg) (flt : VFault) :
    Encoding.Statement (.vecShl p rd ra rb flt) := fun _ => ⟨rfl, rfl⟩
theorem Encoding.vecShr (p : CoreId) (rd ra rb : VReg) (flt : VFault) :
    Encoding.Statement (.vecShr p rd ra rb flt) := fun _ => ⟨rfl, rfl⟩
theorem Encoding.vecSar (p : CoreId) (rd ra rb : VReg) (flt : VFault) :
    Encoding.Statement (.vecSar p rd ra rb flt) := fun _ => ⟨rfl, rfl⟩
theorem Encoding.vecCmp (p : CoreId) (fmt : Fmt) (rel : Rel) (rd ra rb : VReg) (flt : VFault) :
    Encoding.Statement (.vecCmp p fmt rel rd ra rb flt) := fun _ => ⟨rfl, rfl⟩
theorem Encoding.vecSel (p : CoreId) (rd ra rb rc : VReg) (flt : VFault) :
    Encoding.Statement (.vecSel p rd ra rb rc flt) := fun _ => ⟨rfl, rfl⟩
theorem Encoding.vecClass (p : CoreId) (fmt : Fmt) (slice : Fin 2) (rd ra : VReg) (flt : VFault) :
    Encoding.Statement (.vecClass p fmt slice rd ra flt) := fun _ => ⟨rfl, rfl⟩
theorem Encoding.vecRcp (p : CoreId) (rd ra : VReg) (flt : VFault) :
    Encoding.Statement (.vecRcp p rd ra flt) := fun _ => ⟨rfl, rfl⟩
theorem Encoding.vecRsq (p : CoreId) (rd ra : VReg) (flt : VFault) :
    Encoding.Statement (.vecRsq p rd ra flt) := fun _ => ⟨rfl, rfl⟩
theorem Encoding.vecExp2 (p : CoreId) (rd ra : VReg) (flt : VFault) :
    Encoding.Statement (.vecExp2 p rd ra flt) := fun _ => ⟨rfl, rfl⟩
theorem Encoding.vecLog2 (p : CoreId) (rd ra : VReg) (flt : VFault) :
    Encoding.Statement (.vecLog2 p rd ra flt) := fun _ => ⟨rfl, rfl⟩
theorem Encoding.vecRed (p : CoreId) (fmt : Fmt) (op : RedOp) (k : BitVec 4) (rd ra : VReg) (flt : VFault) :
    Encoding.Statement (.vecRed p fmt op k rd ra flt) := fun _ => ⟨rfl, rfl⟩
theorem Encoding.vecXfm (p : CoreId) (d : VecXfm) (flt : VFault) :
    Encoding.Statement (.vecXfm p d flt) := fun _ => ⟨rfl, rfl⟩
theorem Encoding.vecLd (p : CoreId) (rd : VReg) (ra : SReg) (off : BitVec 32) :
    Encoding.Statement (.vecLd p rd ra off) := fun _ => ⟨rfl, rfl⟩
theorem Encoding.vecLd2 (p : CoreId) (rd : VReg) (ra : SReg) (off : BitVec 32) :
    Encoding.Statement (.vecLd2 p rd ra off) := fun _ => ⟨rfl, rfl⟩
theorem Encoding.vecSt (p : CoreId) (rd : VReg) (ra : SReg) (off : BitVec 32) (parity : Bool) :
    Encoding.Statement (.vecSt p rd ra off parity) := fun _ => ⟨rfl, rfl⟩
theorem Encoding.vecSt2 (p : CoreId) (rd : VReg) (ra : SReg) (off : BitVec 32) (parity : Bool) :
    Encoding.Statement (.vecSt2 p rd ra off parity) := fun _ => ⟨rfl, rfl⟩
theorem Encoding.cvtF (p : CoreId) (d : Cvt) (parity : Bool) :
    Encoding.Statement (.cvtF p d parity) := fun _ => ⟨rfl, rfl⟩
theorem Encoding.cvtQ (p : CoreId) (d : Cvt) (parity : Bool) :
    Encoding.Statement (.cvtQ p d parity) := fun _ => ⟨rfl, rfl⟩
theorem Encoding.cvtQsc (p : CoreId) (d : Cvt) (parity : Bool) :
    Encoding.Statement (.cvtQsc p d parity) := fun _ => ⟨rfl, rfl⟩
theorem Encoding.cvtDq (p : CoreId) (d : Cvt) (parity : Bool) :
    Encoding.Statement (.cvtDq p d parity) := fun _ => ⟨rfl, rfl⟩
theorem Encoding.telDeliver (p : CoreId) :
    Encoding.Statement (.telDeliver p) := fun _ => ⟨rfl, rfl⟩
theorem Encoding.splRun (p : CoreId) (d : Spl) :
    Encoding.Statement (.splRun p d) := fun _ => ⟨rfl, rfl⟩
theorem Encoding.splBatch (p : CoreId) (d : Spl) :
    Encoding.Statement (.splBatch p d) := fun _ => ⟨rfl, rfl⟩
theorem Encoding.splCounts (p : CoreId) (d : Spl) :
    Encoding.Statement (.splCounts p d) := fun _ => ⟨rfl, rfl⟩
theorem Encoding.chkState (p : CoreId) (rd ra : SReg) (space : Space) (off : BitVec 32) :
    Encoding.Statement (.chkState p rd ra space off) := fun _ => ⟨rfl, rfl⟩
theorem Encoding.chkVerify (p : CoreId) (rd ra rb : SReg) :
    Encoding.Statement (.chkVerify p rd ra rb) := fun _ => ⟨rfl, rfl⟩
theorem Encoding.scaLsget (p : CoreId) (rd : SReg) :
    Encoding.Statement (.scaLsget p rd) := fun _ => ⟨rfl, rfl⟩
theorem Encoding.scaLsupd (p : CoreId) (ra : SReg) :
    Encoding.Statement (.scaLsupd p ra) := fun _ => ⟨rfl, rfl⟩
theorem Encoding.scaHrec (p : CoreId) (ra rb : SReg) :
    Encoding.Statement (.scaHrec p ra rb) := fun _ => ⟨rfl, rfl⟩
theorem Encoding.scaHget (p : CoreId) (rd ra : SReg) :
    Encoding.Statement (.scaHget p rd ra) := fun _ => ⟨rfl, rfl⟩
theorem Encoding.scaTread (p : CoreId) (rd : SReg) (tag : BitVec 6) (fmt : BitVec 4) (kind : TelKind) :
    Encoding.Statement (.scaTread p rd tag fmt kind) := fun _ => ⟨rfl, rfl⟩
theorem Encoding.coreWake (p : CoreId) :
    Encoding.Statement (.coreWake p) := fun _ => ⟨rfl, rfl⟩
theorem Encoding.coreGate (p : CoreId) :
    Encoding.Statement (.coreGate p) := fun _ => ⟨rfl, rfl⟩
theorem Encoding.hbmRead (addr : BitVec 40) (len : BitVec 12) (spec : Bool) (ce : BitVec 8) (ue : Bool) :
    Encoding.Statement (.hbmRead addr len spec ce ue) := fun _ => ⟨rfl, rfl⟩
theorem Encoding.hbmWriteWhole (addr : BitVec 40) (data : List Byte) (sl : BitVec 32) (st : TState) :
    Encoding.Statement (.hbmWriteWhole addr data sl st) := fun _ => ⟨rfl, rfl⟩
theorem Encoding.hbmWritePartial (addr : BitVec 40) (data : List Byte) (poison : Bool) :
    Encoding.Statement (.hbmWritePartial addr data poison) := fun _ => ⟨rfl, rfl⟩
theorem Encoding.wcbMergeAge (site : SiteId) (tile : BitVec 29) :
    Encoding.Statement (.wcbMergeAge site tile) := fun _ => ⟨rfl, rfl⟩
theorem Encoding.wcbMergeDone (site : SiteId) (tile : BitVec 29) (ue : Bool) :
    Encoding.Statement (.wcbMergeDone site tile ue) := fun _ => ⟨rfl, rfl⟩
theorem Encoding.specRequestDrop (site : SiteId) :
    Encoding.Statement (.specRequestDrop site) := fun _ => ⟨rfl, rfl⟩
theorem Encoding.stackThermalEval (site : SiteId) (temp : BitVec 8) :
    Encoding.Statement (.stackThermalEval site temp) := fun _ => ⟨rfl, rfl⟩
theorem Encoding.thermalPauseSend (site : SiteId) :
    Encoding.Statement (.thermalPauseSend site) := fun _ => ⟨rfl, rfl⟩
theorem Encoding.retrainPeriodic (site : SiteId) (ch : ChanId) :
    Encoding.Statement (.retrainPeriodic site ch) := fun _ => ⟨rfl, rfl⟩
theorem Encoding.plnCmdRetrain (site : SiteId) (ch : ChanId) :
    Encoding.Statement (.plnCmdRetrain site ch) := fun _ => ⟨rfl, rfl⟩
theorem Encoding.retrainStart (site : SiteId) :
    Encoding.Statement (.retrainStart site) := fun _ => ⟨rfl, rfl⟩
theorem Encoding.retrainConfirm (site : SiteId) :
    Encoding.Statement (.retrainConfirm site) := fun _ => ⟨rfl, rfl⟩
theorem Encoding.retrainHoldTimeout (site : SiteId) :
    Encoding.Statement (.retrainHoldTimeout site) := fun _ => ⟨rfl, rfl⟩
theorem Encoding.plnCmdRepair (site : SiteId) (ch : ChanId) :
    Encoding.Statement (.plnCmdRepair site ch) := fun _ => ⟨rfl, rfl⟩
theorem Encoding.repairMigrateGranule (site : SiteId) (ue : Bool) :
    Encoding.Statement (.repairMigrateGranule site ue) := fun _ => ⟨rfl, rfl⟩
theorem Encoding.repairStateSave (site : SiteId) :
    Encoding.Statement (.repairStateSave site) := fun _ => ⟨rfl, rfl⟩
theorem Encoding.rdReq (h : FabHdr) :
    Encoding.Statement (.rdReq h) := fun _ => ⟨rfl, rfl⟩
theorem Encoding.wrReq (h : FabHdr) (data : List Byte) :
    Encoding.Statement (.wrReq h data) := fun _ => ⟨rfl, rfl⟩
theorem Encoding.blyIncReq (h : FabHdr) (replay : Bool) :
    Encoding.Statement (.blyIncReq h replay) := fun _ => ⟨rfl, rfl⟩
theorem Encoding.rdRsp (h : FabHdr) (data : List Byte) :
    Encoding.Statement (.rdRsp h data) := fun _ => ⟨rfl, rfl⟩
theorem Encoding.wrAck (h : FabHdr) :
    Encoding.Statement (.wrAck h) := fun _ => ⟨rfl, rfl⟩
theorem Encoding.incAck (h : FabHdr) :
    Encoding.Statement (.incAck h) := fun _ => ⟨rfl, rfl⟩
theorem Encoding.errRsp (h : FabHdr) :
    Encoding.Statement (.errRsp h) := fun _ => ⟨rfl, rfl⟩
theorem Encoding.remoteTimeout (tag : BitVec 16) :
    Encoding.Statement (.remoteTimeout tag) := fun _ => ⟨rfl, rfl⟩
theorem Encoding.pageWalkComplete (p : CoreId) (va : BitVec 64) (acc : Access) :
    Encoding.Statement (.pageWalkComplete p va acc) := fun _ => ⟨rfl, rfl⟩
theorem Encoding.jnrCtxCmdInval (ctx : CtxId) :
    Encoding.Statement (.jnrCtxCmdInval ctx) := fun _ => ⟨rfl, rfl⟩
theorem Encoding.invalDone (ctx : CtxId) :
    Encoding.Statement (.invalDone ctx) := fun _ => ⟨rfl, rfl⟩
theorem Encoding.ridgeForward (w : PortId) (rw : RouteWord) (msg : BitVec 256)   :
    Encoding.Statement (.ridgeForward w rw msg) := fun _ => ⟨rfl, rfl⟩
theorem Encoding.flitReceive (w : PortId) (flit : List Byte) (corrected : BitVec 8) (uncorr : Bool) :
    Encoding.Statement (.flitReceive w flit corrected uncorr) := fun _ => ⟨rfl, rfl⟩
theorem Encoding.nakReceive (w : PortId) (seq : BitVec 12) :
    Encoding.Statement (.nakReceive w seq) := fun _ => ⟨rfl, rfl⟩
theorem Encoding.linkAckTimeout (w : PortId) :
    Encoding.Statement (.linkAckTimeout w) := fun _ => ⟨rfl, rfl⟩
theorem Encoding.laneLockLoss (w : PortId) (lanes : BitVec 8) :
    Encoding.Statement (.laneLockLoss w lanes) := fun _ => ⟨rfl, rfl⟩
theorem Encoding.requestReplay (tag : BitVec 16) :
    Encoding.Statement (.requestReplay tag) := fun _ => ⟨rfl, rfl⟩
theorem Encoding.lnkCtrlRetrain (w : PortId) :
    Encoding.Statement (.lnkCtrlRetrain w) := fun _ => ⟨rfl, rfl⟩
theorem Encoding.portTraining (w : PortId) (res : TrainEnd) (lanes : BitVec 8) (peer : BitVec 17) :
    Encoding.Statement (.portTraining w res lanes peer) := fun _ => ⟨rfl, rfl⟩
theorem Encoding.settingsFlashCopy :
    Encoding.Statement .settingsFlashCopy := fun _ => ⟨rfl, rfl⟩
theorem Encoding.noticeThermalPause (w : PortId) (n : Notice) :
    Encoding.Statement (.noticeThermalPause w n) := fun _ => ⟨rfl, rfl⟩
theorem Encoding.noticePauseEnd (w : PortId) (n : Notice) :
    Encoding.Statement (.noticePauseEnd w n) := fun _ => ⟨rfl, rfl⟩
theorem Encoding.pauseEntryExpire (src : BitVec 17) (site : BitVec 3) :
    Encoding.Statement (.pauseEntryExpire src site) := fun _ => ⟨rfl, rfl⟩
theorem Encoding.witnessReceive (m : Witness) :
    Encoding.Statement (.witnessReceive m) := fun _ => ⟨rfl, rfl⟩
theorem Encoding.witnessWindowClose (key : WitKey) :
    Encoding.Statement (.witnessWindowClose key) := fun _ => ⟨rfl, rfl⟩
theorem Encoding.splCollectiveStart (ctx : CtxId) (g : GroupId) :
    Encoding.Statement (.splCollectiveStart ctx g) := fun _ => ⟨rfl, rfl⟩
theorem Encoding.splReady (m : SplCtl) :
    Encoding.Statement (.splReady m) := fun _ => ⟨rfl, rfl⟩
theorem Encoding.splMode (m : SplCtl) :
    Encoding.Statement (.splMode m) := fun _ => ⟨rfl, rfl⟩
theorem Encoding.splCredit (m : SplCtl) :
    Encoding.Statement (.splCredit m) := fun _ => ⟨rfl, rfl⟩
theorem Encoding.splGrant (m : SplCtl) :
    Encoding.Statement (.splGrant m) := fun _ => ⟨rfl, rfl⟩
theorem Encoding.splNoSlot (m : SplCtl) :
    Encoding.Statement (.splNoSlot m) := fun _ => ⟨rfl, rfl⟩
theorem Encoding.claimRetry (ctx : CtxId) (g : GroupId) :
    Encoding.Statement (.claimRetry ctx g) := fun _ => ⟨rfl, rfl⟩
theorem Encoding.claimFallback (ctx : CtxId) (g : GroupId) :
    Encoding.Statement (.claimFallback ctx g) := fun _ => ⟨rfl, rfl⟩
theorem Encoding.splChunk (c : Chunk) (payload : List Byte) :
    Encoding.Statement (.splChunk c payload) := fun _ => ⟨rfl, rfl⟩
theorem Encoding.splFenced (m : SplCtl) :
    Encoding.Statement (.splFenced m) := fun _ => ⟨rfl, rfl⟩
theorem Encoding.splLost (m : SplCtl) :
    Encoding.Statement (.splLost m) := fun _ => ⟨rfl, rfl⟩
theorem Encoding.splRedo (m : SplCtl) :
    Encoding.Statement (.splRedo m) := fun _ => ⟨rfl, rfl⟩
theorem Encoding.splAbort (m : SplCtl) :
    Encoding.Statement (.splAbort m) := fun _ => ⟨rfl, rfl⟩
theorem Encoding.splComplete (ctx : CtxId) (g : GroupId) :
    Encoding.Statement (.splComplete ctx g) := fun _ => ⟨rfl, rfl⟩
theorem Encoding.collDeadline (ctx : CtxId) (g : GroupId) :
    Encoding.Statement (.collDeadline ctx g) := fun _ => ⟨rfl, rfl⟩
theorem Encoding.sqWake (q : QueueId) (tail head : BitVec 32) (readFail : Bool) (entries : List SqEntry) :
    Encoding.Statement (.sqWake q tail head readFail entries) := fun _ => ⟨rfl, rfl⟩
theorem Encoding.sqStart (q : QueueId) (image : List Byte) :
    Encoding.Statement (.sqStart q image) := fun _ => ⟨rfl, rfl⟩
theorem Encoding.sqBelayInc (q : QueueId) :
    Encoding.Statement (.sqBelayInc q) := fun _ => ⟨rfl, rfl⟩
theorem Encoding.sqNop (q : QueueId) :
    Encoding.Statement (.sqNop q) := fun _ => ⟨rfl, rfl⟩
theorem Encoding.contextHalted (ctx : CtxId) :
    Encoding.Statement (.contextHalted ctx) := fun _ => ⟨rfl, rfl⟩
theorem Encoding.qEnable (q : QueueId) :
    Encoding.Statement (.qEnable q) := fun _ => ⟨rfl, rfl⟩
theorem Encoding.qDisable (q : QueueId) :
    Encoding.Statement (.qDisable q) := fun _ => ⟨rfl, rfl⟩
theorem Encoding.msixSend (v : Fin 64) :
    Encoding.Statement (.msixSend v) := fun _ => ⟨rfl, rfl⟩
theorem Encoding.msixHoldoffEnd (v : Fin 64) :
    Encoding.Statement (.msixHoldoffEnd v) := fun _ => ⟨rfl, rfl⟩
theorem Encoding.hostMemRead (off : BitVec 48) :
    Encoding.Statement (.hostMemRead off) := fun _ => ⟨rfl, rfl⟩
theorem Encoding.hostMemWrite (off : BitVec 48) (data : List Byte) (poison : Bool) :
    Encoding.Statement (.hostMemWrite off data poison) := fun _ => ⟨rfl, rfl⟩
theorem Encoding.hostLineRequest (line : BitVec 34) :
    Encoding.Statement (.hostLineRequest line) := fun _ => ⟨rfl, rfl⟩
theorem Encoding.birspReceive (line : BitVec 34) :
    Encoding.Statement (.birspReceive line) := fun _ => ⟨rfl, rfl⟩
theorem Encoding.getVersion (ch : MbxId) :
    Encoding.Statement (.getVersion ch) := fun _ => ⟨rfl, rfl⟩
theorem Encoding.load (ch : MbxId) (image groups : List Byte) :
    Encoding.Statement (.load ch image groups) := fun _ => ⟨rfl, rfl⟩
theorem Encoding.unload (ch : MbxId) :
    Encoding.Statement (.unload ch) := fun _ => ⟨rfl, rfl⟩
theorem Encoding.setPartitionMode (ch : MbxId) :
    Encoding.Statement (.setPartitionMode ch) := fun _ => ⟨rfl, rfl⟩
theorem Encoding.resetReq (ch : MbxId) :
    Encoding.Statement (.resetReq ch) := fun _ => ⟨rfl, rfl⟩
theorem Encoding.cairnInfo (ch : MbxId) :
    Encoding.Statement (.cairnInfo ch) := fun _ => ⟨rfl, rfl⟩
theorem Encoding.fwStage (ch : MbxId) (image : List Byte) (readbackOk : Bool) :
    Encoding.Statement (.fwStage ch image readbackOk) := fun _ => ⟨rfl, rfl⟩
theorem Encoding.fwActivate (ch : MbxId) (verifyOk : Bool) :
    Encoding.Statement (.fwActivate ch verifyOk) := fun _ => ⟨rfl, rfl⟩
theorem Encoding.attest (ch : MbxId) (pubkey sig : List Byte) :
    Encoding.Statement (.attest ch pubkey sig) := fun _ => ⟨rfl, rfl⟩
theorem Encoding.getMeasurements (ch : MbxId) :
    Encoding.Statement (.getMeasurements ch) := fun _ => ⟨rfl, rfl⟩
theorem Encoding.jigInstall (ch : MbxId) (pkg : List Byte) :
    Encoding.Statement (.jigInstall ch pkg) := fun _ => ⟨rfl, rfl⟩
theorem Encoding.bivConfig (ch : MbxId) :
    Encoding.Statement (.bivConfig ch) := fun _ => ⟨rfl, rfl⟩
theorem Encoding.bivRestart (ch : MbxId) :
    Encoding.Statement (.bivRestart ch) := fun _ => ⟨rfl, rfl⟩
theorem Encoding.evtHeadWrite (v : BitVec 6) :
    Encoding.Statement (.evtHeadWrite v) := fun _ => ⟨rfl, rfl⟩
theorem Encoding.jigRunStart (p : CoreId) (variant : BitVec 4) :
    Encoding.Statement (.jigRunStart p variant) := fun _ => ⟨rfl, rfl⟩
theorem Encoding.jigRunEnd (p : CoreId) :
    Encoding.Statement (.jigRunEnd p) := fun _ => ⟨rfl, rfl⟩
theorem Encoding.jigTimeout (p : CoreId) :
    Encoding.Statement (.jigTimeout p) := fun _ => ⟨rfl, rfl⟩
theorem Encoding.jigCmdRun (p : CoreId) :
    Encoding.Statement (.jigCmdRun p) := fun _ => ⟨rfl, rfl⟩
theorem Encoding.jigOverdue (p : CoreId) :
    Encoding.Statement (.jigOverdue p) := fun _ => ⟨rfl, rfl⟩
theorem Encoding.jigPkgFlash :
    Encoding.Statement .jigPkgFlash := fun _ => ⟨rfl, rfl⟩
theorem Encoding.healthWindowExpire (p : CoreId) :
    Encoding.Statement (.healthWindowExpire p) := fun _ => ⟨rfl, rfl⟩
theorem Encoding.spareSubstitute (p : CoreId) :
    Encoding.Statement (.spareSubstitute p) := fun _ => ⟨rfl, rfl⟩
theorem Encoding.fenceListFlash :
    Encoding.Statement .fenceListFlash := fun _ => ⟨rfl, rfl⟩
theorem Encoding.contextReset (ctx : CtxId) :
    Encoding.Statement (.contextReset ctx) := fun _ => ⟨rfl, rfl⟩
theorem Encoding.hbmQuarantineRelease (ctx : CtxId) :
    Encoding.Statement (.hbmQuarantineRelease ctx) := fun _ => ⟨rfl, rfl⟩
theorem Encoding.engineHang (unit : BitVec 16) (ctx : Option CtxId) :
    Encoding.Statement (.engineHang unit ctx) := fun _ => ⟨rfl, rfl⟩
theorem Encoding.plinthHang (site : SiteId) (ch : ChanId) :
    Encoding.Statement (.plinthHang site ch) := fun _ => ⟨rfl, rfl⟩
theorem Encoding.nocTimeout (die : DieId) :
    Encoding.Statement (.nocTimeout die) := fun _ => ⟨rfl, rfl⟩
theorem Encoding.bridgeFail :
    Encoding.Statement .bridgeFail := fun _ => ⟨rfl, rfl⟩
theorem Encoding.drainTimeout (ctx : CtxId) (unit : BitVec 16) :
    Encoding.Statement (.drainTimeout ctx unit) := fun _ => ⟨rfl, rfl⟩
theorem Encoding.engineReset (unit : BitVec 16) (bad : BitVec 8) :
    Encoding.Statement (.engineReset unit bad) := fun _ => ⟨rfl, rfl⟩
theorem Encoding.partitionReset (part : PartId) (bad : BitVec 8) :
    Encoding.Statement (.partitionReset part bad) := fun _ => ⟨rfl, rfl⟩
theorem Encoding.warmChipReset (bad : BitVec 8) (badChans : BitVec 256) :
    Encoding.Statement (.warmChipReset bad badChans) := fun _ => ⟨rfl, rfl⟩
theorem Encoding.resetOverrun (log : Fin 21) :
    Encoding.Statement (.resetOverrun log) := fun _ => ⟨rfl, rfl⟩
theorem Encoding.cairnTimeLimit (bad : BitVec 8) :
    Encoding.Statement (.cairnTimeLimit bad) := fun _ => ⟨rfl, rfl⟩
theorem Encoding.cdcTimeout (off : BitVec 28) (isRead : Bool) :
    Encoding.Statement (.cdcTimeout off isRead) := fun _ => ⟨rfl, rfl⟩
theorem Encoding.cdcModeWrite (recovery : Bool) :
    Encoding.Statement (.cdcModeWrite recovery) := fun _ => ⟨rfl, rfl⟩
theorem Encoding.errLogAck (d : Fin 21) (seq : BitVec 32) :
    Encoding.Statement (.errLogAck d seq) := fun _ => ⟨rfl, rfl⟩
theorem Encoding.logHandlingDone (d : Fin 21) :
    Encoding.Statement (.logHandlingDone d) := fun _ => ⟨rfl, rfl⟩
theorem Encoding.bivTrigger (ctx : CtxId) :
    Encoding.Statement (.bivTrigger ctx) := fun _ => ⟨rfl, rfl⟩
theorem Encoding.urgentCopyDone (ctx : CtxId) (page : BitVec 19) :
    Encoding.Statement (.urgentCopyDone ctx page) := fun _ => ⟨rfl, rfl⟩
theorem Encoding.bivPageSend (ctx : CtxId) :
    Encoding.Statement (.bivPageSend ctx) := fun _ => ⟨rfl, rfl⟩
theorem Encoding.bivStreamComplete (ctx : CtxId) :
    Encoding.Statement (.bivStreamComplete ctx) := fun _ => ⟨rfl, rfl⟩
theorem Encoding.bivRestartPull (ctx : CtxId) :
    Encoding.Statement (.bivRestartPull ctx) := fun _ => ⟨rfl, rfl⟩
theorem Encoding.bivRestartFinish (ctx : CtxId) :
    Encoding.Statement (.bivRestartFinish ctx) := fun _ => ⟨rfl, rfl⟩
theorem Encoding.aonPowerUp (mgtAddr : BitVec 3) (selfCheckOk : Bool) :
    Encoding.Statement (.aonPowerUp mgtAddr selfCheckOk) := fun _ => ⟨rfl, rfl⟩
theorem Encoding.powerGoodLoss :
    Encoding.Statement .powerGoodLoss := fun _ => ⟨rfl, rfl⟩
theorem Encoding.holdResetAssert :
    Encoding.Statement .holdResetAssert := fun _ => ⟨rfl, rfl⟩
theorem Encoding.holdResetRelease (okA okB : Bool) (storeFail residueFail : BitVec 104) (badChans : BitVec 256) :
    Encoding.Statement (.holdResetRelease okA okB storeFail residueFail badChans) := fun _ => ⟨rfl, rfl⟩
theorem Encoding.thermTrip (src : TripSrc) (idx : BitVec 4) (temp : BitVec 8) :
    Encoding.Statement (.thermTrip src idx temp) := fun _ => ⟨rfl, rfl⟩
theorem Encoding.fwProcRestart (proc : FwProc) (cause : FwCause) :
    Encoding.Statement (.fwProcRestart proc cause) := fun _ => ⟨rfl, rfl⟩
theorem Encoding.svnFloorRaise :
    Encoding.Statement .svnFloorRaise := fun _ => ⟨rfl, rfl⟩
theorem Encoding.activationDeferredStart (verifyOk : Bool) :
    Encoding.Statement (.activationDeferredStart verifyOk) := fun _ => ⟨rfl, rfl⟩
theorem Encoding.clampPowerStep (watts : BitVec 11) :
    Encoding.Statement (.clampPowerStep watts) := fun _ => ⟨rfl, rfl⟩
theorem Encoding.clampCurrentLimit (die : DieId) (amps : BitVec 10) :
    Encoding.Statement (.clampCurrentLimit die amps) := fun _ => ⟨rfl, rfl⟩
theorem Encoding.clampDieThermal (die : DieId) (temp : BitVec 8) :
    Encoding.Statement (.clampDieThermal die temp) := fun _ => ⟨rfl, rfl⟩
theorem Encoding.optThermal (eng : Fin 2) (temp : BitVec 8) :
    Encoding.Statement (.optThermal eng temp) := fun _ => ⟨rfl, rfl⟩
theorem Encoding.vidAck (addr : BitVec 7) (seq : BitVec 4) (mvN mvS : BitVec 10) (senseN senseS : BitVec 10) :
    Encoding.Statement (.vidAck addr seq mvN mvS senseN senseS) := fun _ => ⟨rfl, rfl⟩
theorem Encoding.vidTimeout :
    Encoding.Statement .vidTimeout := fun _ => ⟨rfl, rfl⟩
theorem Encoding.voltageAlarm (die : DieId) (high : Bool) :
    Encoding.Statement (.voltageAlarm die high) := fun _ => ⟨rfl, rfl⟩
theorem Encoding.voltageAlarmClear (die : DieId) :
    Encoding.Statement (.voltageAlarmClear die) := fun _ => ⟨rfl, rfl⟩
theorem Encoding.telClear (die : DieId) (ctx : CtxId) :
    Encoding.Statement (.telClear die ctx) := fun _ => ⟨rfl, rfl⟩
theorem Encoding.telClearDone (die : DieId) (ctx : CtxId) :
    Encoding.Statement (.telClearDone die ctx) := fun _ => ⟨rfl, rfl⟩
theorem Encoding.rbApertureRead (k : Fin 4) (off : BitVec 24) :
    Encoding.Statement (.rbApertureRead k off) := fun _ => ⟨rfl, rfl⟩
theorem Encoding.registerWrite (off : BitVec 28) (width : BitVec 4) (value : BitVec 64) :
    Encoding.Statement (.registerWrite off width value) := fun _ => ⟨rfl, rfl⟩
theorem Encoding.vddAonRemoval :
    Encoding.Statement .vddAonRemoval := fun _ => ⟨rfl, rfl⟩
theorem Encoding.cxlLinkTraining (res : CxlEnd) :
    Encoding.Statement (.cxlLinkTraining res) := fun _ => ⟨rfl, rfl⟩
theorem Encoding.pllLossOfLock (die : DieId) (pll : Pll) :
    Encoding.Statement (.pllLossOfLock die pll) := fun _ => ⟨rfl, rfl⟩
theorem Encoding.hostWindowResponse (p : CoreId) (eng : Engine) (ans : HostAnswer) (data : List Byte) :
    Encoding.Statement (.hostWindowResponse p eng ans data) := fun _ => ⟨rfl, rfl⟩

end Sys2Proof.Laws
end

