-- ==== Sys2Proof/Tests/Slice0.lean ====
section
/-!
SUPPORT. Tests of the model: ill-formed instructions that the checks refuse, words of the encoding tables, and, for every statement
that has hypotheses, a state and operands that meet them.
-/
namespace Sys2Proof.Machine.Slice0
open Sys2Proof
set_option maxRecDepth 8000
set_option Elab.async false

/-! ### Small states -/

/-- A context that runs on core 3, in slot 0. -/
def ctx0 : Ctx := { phase := .running, part := 0, cores := [{ logical := 3, phys := 3, slot := 0, entry := 0, arg := 0, granules := 4, cells := 8, base := 0, cellBase := 0 }] }

/-- A chip whose core 3, with what `k` says of it, runs context 0, which is `x`; it has an allocation of scratchpad and cells, its
partition 8 GiB on all eight stacks, and its first tile of instructions is fetched. -/
def chip (k : Core) (x : Ctx) : State :=
  let s : State := { State.reset with
    ctxs := [(0, x)]
    cores := [(3, { k with fetched := [0] })]
    logical := [(3, 3)] }
  let s := s.wr (R.DIE_STATUS 0) F.DIE_STATUS.CORE_PLL_LOCK 1
  let s := s.wr (R.CORE_STATUS 3) F.CORE_STATUS.STATE 3
  let s := s.wr (R.CORE_STATUS 3) F.CORE_STATUS.RES0_VALID 1
  let s := s.wr (R.CORE_SPD_ALLOC 3 0) F.CORE_SPD_ALLOC.SIZE 4
  let s := s.wr (R.BLY_ALLOC 3 0) F.BLY_ALLOC.COUNT 8
  let s := s.wr (R.MEM_PART 0) F.MEM_PART.SIZE 8
  s.wr (R.MEM_PART 0) F.MEM_PART.STACK_MASK 0xFF

/-- Scalar registers that the instructions of the tests read. -/
def args : Core := { sregs := [(1, 40), (2, 7), (4, 0xFFFFFFFFFFFFFFF0), (5, 4096)] }

/-- The chip of `chip` with those registers. -/
def live : State := chip args ctx0

theorem live_issues : live.issues 3 8 0 live := ⟨by decide, by decide, by decide, rfl⟩
theorem live_issues_long : live.issues 3 16 0 live := ⟨by decide, by decide, by decide, rfl⟩

/-! ### Ill-formed instructions -/

theorem refuse_info : (Instr.sclInfo 3 6 6).wellFormed = false := by decide
theorem refuse_amount : (Instr.blyInc 3 0 0 0).wellFormed = false ∧ (Instr.blyInca 3 5 1 9).wellFormed = false := by decide

/-- A DMA copy of the tests: engine 1, scratchpad to scratchpad. -/
def copy1 : DmaCopy := { eng := 1, ssp := .spd, dsp := .spd, rs := 5, rdst := 5, rl := 2, rt := 0, waitEn := false, wcell := 0, icell := 2, shaped := false, soff := 0, doff := 64, amount := 1 }
theorem refuse_dma : (Instr.dmaCopy 3 { copy1 with rt := 1 }).wellFormed = false ∧
    (Instr.dmaCopy 3 { copy1 with amount := 0 }).wellFormed = false := by decide

def lds1 : CubLds := { mask := 3, slot := 0, fmt := .e4m3, ra := 5, boff := 256, bstr := 4 }
def ldsc1 : CubLdsc := { mask := 3, slot := 0, ring := 1, fmt := .e4m3, s32 := false, ldB := true, ldA := true, rbB := 5, rbA := 5, bsoff := 16, asoff := 32 }
def mma1 : CubMma := { mask := 3, slot := 0, ring := 0, start := true, sr := false, fmtA := .e4m3, fmtB := .e5m2, scaA := false, scaB := false, s32 := false, ra := 5, aoff := 256, mstr := 0, kstr := 0 }
def drain1 : CubDrain := { mask := 1, clear := true, ra := 5, doff := 0 }
theorem refuse_cube : (Instr.cubLds 3 { lds1 with mask := 0 }).wellFormed = false ∧
    (Instr.cubLds 3 { lds1 with fmt := .e8m0 }).wellFormed = false ∧
    (Instr.cubLdsc 3 { ldsc1 with mask := 1 }).wellFormed = false ∧
    (Instr.cubLdsc 3 { ldsc1 with ldB := false }).wellFormed = false ∧
    (Instr.cubMma 3 { mma1 with fmtB := .int8 }).wellFormed = false ∧
    (Instr.cubMma 3 { mma1 with s32 := true }).wellFormed = false ∧
    (Instr.cubDrain 3 { drain1 with mask := 0 }).wellFormed = false := by decide

def plain : VMod := { abs := false, fin := false }
def xfm1 : VecXfm := { rd := 5, ra := 2, rb := 0, rc := 0, perm := false, smooth := false, had := true, m := 4, h := 1 }
theorem refuse_vector : (Instr.vecAdd 3 .int32 1 2 3 plain plain noFault).wellFormed = false ∧
    (Instr.vecMul 3 .fp32 1 2 3 plain { abs := false, fin := true } noFault).wellFormed = false ∧
    (Instr.vecCmp 3 .e4m3 .lt 1 2 3 noFault).wellFormed = false ∧
    (Instr.vecClass 3 .fp32 1 1 2 noFault).wellFormed = false ∧
    (Instr.vecRed 3 .int32 .sum 1 1 2 noFault).wellFormed = false ∧
    (Instr.vecRed 3 .fp32 .sum 9 1 2 noFault).wellFormed = false ∧
    (Instr.vecXfm 3 { xfm1 with m := 9 } noFault).wellFormed = false ∧
    (Instr.vecLd2 3 1 5 0).wellFormed = false ∧ (Instr.vecSt2 3 63 5 0 false).wellFormed = false := by decide

def cvt1 : Cvt := { rd := 1, ra := 2, rb := 0, rc := 0, minmax := false, reg := false, strided := false, s32 := false, pair := false, sord := false, srcf := .fp32, dstf := .bf16, ss := 0, ds := 1, ovf := .sat, tag := 5, soff := 0 }
theorem refuse_convert : (Instr.cvtF 3 { cvt1 with ds := 2 } false).wellFormed = false ∧
    (Instr.cvtQ 3 { cvt1 with strided := true, pair := true, dstf := .e4m3, rb := 3 } false).wellFormed = false ∧
    (Instr.cvtQsc 3 { cvt1 with dstf := .e4m3, ds := 0 } false).wellFormed = false ∧
    (Instr.cvtDq 3 { cvt1 with srcf := .e4m3, rb := 3 } false).wellFormed = false := by decide

def spl1 : Spl := { group := 2, kind := 0, fmt := 0, rs := 5, rdst := 5, rl := 2, waitEn := false, wcell := 0, rt := 0, soff := 0, doff := 64, icell := 0, amount := 0 }
theorem refuse_splice : (Instr.splRun 3 { spl1 with kind := 6 }).wellFormed = false ∧
    (Instr.splRun 3 { spl1 with fmt := 1 }).wellFormed = false ∧ (Instr.splBatch 3 spl1).wellFormed = false ∧
    (Instr.splCounts 3 { spl1 with wcell := 1 }).wellFormed = false ∧ (Instr.scaTread 3 1 0 11 .produced).wellFormed = false := by decide

theorem refuse_payload : (Instr.hbmRead 0 0 false 0 false).wellFormed = false ∧ (Instr.hbmWriteWhole 0 [] 0 .sealed).wellFormed = false ∧
    (Instr.hbmWritePartial 0 [] false).wellFormed = false ∧ (Instr.hostMemWrite 0 [1] false).wellFormed = false ∧
    (Instr.registerWrite 0 0 0).wellFormed = false := by decide

/-! ### Words of the encoding tables, written out field by field -/

/-- SCL.ADD s6, s1, s2: layout R (Tables 45 and 46). -/
theorem word_add : decodeTis 3 0b0000_00000000_000110_000001_000010_000000_0000000000000000000000000000 0 =
    some (.sclAdd 3 6 1 2) := by decide
/-- SCL.LIH s6, s1, 5: layout I. -/
theorem word_lih : decodeTis 3 0b0000_00011001_000110_000001_0000000000000000_000000000000000000000101 0 =
    some (.sclLih 3 6 1 5) := by decide
/-- SCL.ST of 4 bytes to memory at s5 − 4: layout M, SIZE code 2. -/
theorem word_st : decodeTis 3 0b0000_00101000_000001_000101_10_1_00000_11111111111111111111111111111100 0 =
    some (.sclSt 3 1 5 .b4 .mem 0xFFFFFFFC) := by decide
/-- The worked example of the manual: CTL.BR NE, predicted taken, s4 with s0, six words back. -/
theorem word_br : decodeTis 3 0x10130403FFFFFFFA 0 = some (.ctlBr 3 .ne true 4 0 0x3FFFFFFFA) := by decide
/-- CTL.FENCE FABRIC. -/
theorem word_fence : decodeTis 3 0b0001_00001011_000000_000000_000000_000000_0000000000000000000000000010 0 =
    some (.ctlFence 3 .fabric) := by decide
/-- BLY.WAIT on cell 9 for s1 with the deadline s2. -/
theorem word_wait : decodeTis 3 0b0010_00000010_000000_000000_000001_000010_0000001001_000000000000000000 0 =
    some (.blyWait 3 9 1 2 false) := by decide
/-- DMA.COPY (Table 53): two words. -/
theorem word_copy : decodeTis 3 0b0011_00000000_01_0_0_000101_000101_000010_000000_0_0_0000000000_0000000010_0_0
    0b1111_00000000000000000000_00000000000001000000_0000000000000001_0000 = some (.dmaCopy 3 copy1) := by decide
/-- The worked example of the manual: the first CUB.MMA of a ring of 16. -/
theorem word_mma : decodeTis 3 0x402FFFF48CC0C000 0xF000000000400004 =
    some (.cubMma 3 { mask := 0xFFFF, slot := 0, ring := 4, start := true, sr := false, fmtA := .e4m3, fmtB := .e4m3, scaA := false, scaB := false, s32 := false, ra := 6, aoff := 0, mstr := 16, kstr := 1 }) := by decide
/-- VEC.MAX of BF16 elements of v2 and v3, the second with FIN. -/
theorem word_max : decodeTis 3 0b0101_00000100_000001_000010_000011_000000_0001_00_10_00_00_000_0000_0_00000000 0 =
    some (.vecMax 3 .bf16 1 2 3 plain { abs := false, fin := true } noFault) := by decide
/-- VEC.LD2 v4 from s5 + 2048. -/
theorem word_ld2 : decodeTis 3 0b0101_00111001_000100_000101_00_0_00000_00000000000000000000100000000000 0 =
    some (.vecLd2 3 4 5 2048) := by decide
/-- CVT.F of v2 from FP32 to slice 1 of v1 as BF16, with tag 5. -/
theorem word_cvt : decodeTis 3 0b0110_00_0_0_0_0_0_0_000001_000010_000000_000000_0000_0001_000_001_0_000101_0000000 0 =
    some (.cvtF 3 cvt1 false) := by decide
/-- SPL.RUN ALL_REDUCE of group 2. -/
theorem word_run : decodeTis 3 0b0111_00000000_00000010_0000_0000_000101_000101_000010_0_0000000000_000000_0
    0b1111_00000000000000000000_00000000000001000000_0000000000_0000000000 = some (.splRun 3 spl1) := by decide
/-- CHK.STATE of the memory tile at s5. -/
theorem word_state : decodeTis 3 0b1000_00000000_000001_000101_00_1_00000_00000000000000000000000000000000 0 =
    some (.chkState 3 1 5 .mem 0) := by decide
/-- SCA.TREAD of tag 3, format 4, vanish. -/
theorem word_tread : decodeTis 3 0b1001_00010000_000001_000000_000000_000000_000011_0100_10_0000000000000000 0 =
    some (.scaTread 3 1 3 4 .vanish) := by decide
/-- A reserved class, a reserved OP, an unused field that is not zero, and a second word without its mark are illegal. -/
theorem word_illegal : decodeTis 3 (0xA * 2 ^ 60) 0 = none ∧ decodeTis 3 (0x0F * 2 ^ 52) 0 = none ∧ decodeTis 3 1 0 = none ∧
    decodeTis 3 (2 ^ 51) 0 = none ∧ decodeTis 3 0x402FFFF48CC0C000 0x400004 = none := by decide

/-! ### States and operands that meet the hypotheses of the statements -/

theorem meets_StepRunsQueue : State.reset.pending = [] := rfl
theorem meets_FusesOnlyRaiseSvn : (State.reset.fuses = { State.reset.fuses with svn := State.reset.fuses.svn } ∧
    State.reset.fuses.svn.toNat ≤ State.reset.fuses.svn.toNat) ∧ step State.reset = .next State.reset :=
  ⟨⟨rfl, Nat.le_refl _⟩, rfl⟩
theorem meets_TisRoundTrip : (Instr.dmaCopy 3 copy1).wellFormed = true ∧
    encodeTis (.dmaCopy 3 copy1) = some (0b0011_00000000_01_0_0_000101_000101_000010_000000_0_0_0000000000_0000000010_0_0,
      some 0b1111_00000000000000000000_00000000000001000000_0000000000000001_0000) := by decide
theorem meets_TisDecodeSound : decodeTis 3 0x10130403FFFFFFFA 0 = some (.ctlBr 3 .ne true 4 0 0x3FFFFFFFA) := word_br
theorem meets_IssueRules : tisAt (.sclInfo 3 6 6) = some (3, 8) ∧ (Instr.sclInfo 3 6 6).wellFormed = false ∧
    live.issues 3 8 0 live ∧ tisAt (.cubDrain 3 { drain1 with mask := 0 }) = some (3, 16) ∧ live.issues 3 16 0 live :=
  ⟨rfl, by decide, live_issues, rfl, live_issues_long⟩
theorem meets_ContextErrorTaken : (live.ctx 0).live = true ∧ (live.ctx 0).cause = none ∧ (live.ctx 0).fenced = false ∧
    (live.ctx 0).groups = [] ∧ (live.core 3).jig = none ∧ ∀ q, (live.core q).jig = none :=
  ⟨rfl, rfl, rfl, rfl, rfl, fun q => by
    show (SMap.lookD [(3, { args with fetched := [0] })] q {} : Core).jig = none
    unfold SMap.lookD SMap.look
    split <;> rfl⟩
theorem meets_ScalarInstruction : scalarResult live 0 (.sclSar 3 6 4 2) = some (3, 6, 0xFFFFFFFFFFFFFFFF) ∧
    (Instr.sclSar 3 6 4 2).wellFormed = true ∧ live.issues 3 8 0 live := ⟨by decide, rfl, live_issues⟩
theorem meets_ScalarInstruction_s0 : scalarResult live 0 (.sclAdd 3 0 1 2) = some (3, 0, 47) ∧
    (Instr.sclAdd 3 0 1 2).wellFormed = true ∧ live.issues 3 8 0 live := ⟨by decide, rfl, live_issues⟩
theorem meets_BranchInstruction : branchResult live (.ctlBr 3 .ne true 1 2 6) = some (3, 0, 48) ∧
    branchResult live (.ctlJmp 3 7 2) = some (3, 7, 16) ∧ branchResult live (.ctlJr 3 0 1) = some (3, 0, 40) ∧
    live.issues 3 8 0 live := ⟨by decide, by decide, by decide, live_issues⟩

/-- The chip with the scale-miss handler active. -/
def handling : State := live.wr (R.SEQ_HANDLER 3) F.SEQ_HANDLER.ACTIVE 1
theorem meets_ControlInstruction : live.issues 3 8 0 live ∧ live.flag (R.SEQ_HANDLER 3) F.SEQ_HANDLER.ACTIVE = false ∧
    handling.issues 3 8 0 handling ∧ handling.flag (R.SEQ_HANDLER 3) F.SEQ_HANDLER.ACTIVE = true :=
  ⟨live_issues, by decide, ⟨by decide, by decide, by decide, rfl⟩, by decide⟩

/-- The chip with a DMA descriptor queued. -/
def busy : State := chip { args with dma := [(1, { queue := [(.shape 2 64 128, 0)] })] } ctx0
theorem meets_YieldHaltFence : busy.issues 3 8 0 busy ∧ busy.drained 3 0 = false ∧ busy.activeSlot 3 ≤ 1 ∧
    (busy.core 3).posted = [] := ⟨⟨by decide, by decide, by decide, rfl⟩, by decide, by decide, rfl⟩

theorem meets_ScratchpadLoadIssue : live.issues 3 8 0 live ∧ live.slotOf 3 0 = some 0 ∧
    (live.sreg 3 5 + (0 : BitVec 32).signExtend 64).toNat % 8 = 0 ∧ live.spdAddr 3 0 4096 8 = some 4096 ∧
    (live.sreg 3 5 + (1 : BitVec 32).signExtend 64).toNat % 8 ≠ 0 ∧
    live.spdAddr 3 0 (live.sreg 3 4 + (0 : BitVec 32).signExtend 64).toNat 8 = none ∧
    (live.sreg 3 4 + (0 : BitVec 32).signExtend 64).toNat % 8 = 0 :=
  ⟨live_issues, by decide, by decide, by decide, by decide, by decide, by decide⟩
/-- The chip with a load of four bytes outstanding. -/
def loading : State := chip { args with load := some { rd := 6, size := 4, signed := true, tgt := .spd 4096 } } ctx0
theorem meets_ScratchpadLoadReturn : loading.running 3 = some 0 ∧
    (loading.core 3).load = some { rd := 6, size := 4, signed := true, tgt := .spd 4096 } ∧ (loading.core 3).ahead = none ∧
    (loading.core 3).posted = [] ∧ loading.drainAhead 3 4096 4 = false ∧ loading.sealsHold 3 4096 4 ∧ loading.noPoison 3 4096 4 :=
  ⟨by decide, rfl, rfl, rfl, by decide, by unfold State.sealsHold; decide, by unfold State.noPoison; decide⟩
theorem meets_ScratchpadStore : live.issues 3 8 0 live ∧ live.slotOf 3 0 = some 0 ∧
    live.spdAddr 3 0 (live.sreg 3 5 + (4 : BitVec 32).signExtend 64).toNat 4 = some 4100 ∧ live.drainAhead 3 4100 4 = false ∧
    live.sealsHold 3 4100 4 := ⟨live_issues, by decide, by decide, by decide, by unfold State.sealsHold; decide⟩
theorem meets_VectorMemoryInstructions : live.issues 3 8 0 live ∧ (live.sreg 3 5 + (2048 : BitVec 32).signExtend 64).toNat % 2048 = 0 ∧
    live.spdAddr 3 (live.activeSlot 3) 6144 2048 = some 6144 ∧ live.spdAddr 3 (live.activeSlot 3) 6144 1024 = some 6144 ∧
    live.drainAhead 3 6144 2048 = false ∧ live.drainAhead 3 6144 1024 = false ∧ live.sealsHold 3 6144 2048 ∧
    live.sealsHold 3 6144 1024 ∧ live.noPoison 3 6144 2048 ∧ live.noPoison 3 6144 1024 ∧ (2 : VReg).val % 2 = 0 :=
  ⟨live_issues, by decide, by decide, by decide, by decide, by decide, by unfold State.sealsHold; decide,
    by unfold State.sealsHold; decide, by unfold State.noPoison; decide, by unfold State.noPoison; decide, rfl⟩
theorem meets_VectorMisaligned : (live.sreg 3 5 + (8 : BitVec 32).signExtend 64).toNat % 1024 ≠ 0 ∧
    (live.sreg 3 5 + (1024 : BitVec 32).signExtend 64).toNat % 2048 ≠ 0 ∧ (2 : VReg).val % 2 = 0 ∧ (3 : VReg).val % 2 = 1 := by decide
theorem meets_MisalignedRaises : live.issues 3 8 0 live ∧ live.issues 3 16 0 live ∧
    (live.sreg 3 5 + (1 : BitVec 32).signExtend 64).toNat % 2 ≠ 0 ∧
    (live.sreg 3 2).toNat % 8 ≠ 0 ∧ legalAmount 1 0 = true ∧ legalLds { lds1 with boff := 8 } = true ∧
    (live.sreg 3 5 + (8 : BitVec 26).signExtend 64).toNat % 256 ≠ 0 ∧ legalMma { mma1 with aoff := 8 } = true ∧
    legalDrain { drain1 with doff := 8 } = true :=
  ⟨live_issues, live_issues_long, by decide, by decide, by decide, by decide, by decide, by decide, by decide⟩
theorem meets_VectorInstruction : (vecResult live (.vecXfm 3 xfm1 noFault)).isSome = true ∧ (Instr.vecXfm 3 xfm1 noFault).wellFormed = true ∧
    vecChecks (.vecXfm 3 xfm1 noFault) = noFault ∧ live.issues 3 8 0 live := ⟨rfl, by decide, rfl, live_issues⟩
theorem meets_VectorCheckFails : live.issues 3 8 0 live ∧ live.rd (R.JIG_CORE_STATUS 3) F.JIG_CORE_STATUS.HEALTH = 0 ∧
    live.rd (R.JIG_CORE_STATUS 3) F.JIG_CORE_STATUS.RESIDUE_24H = 0 ∧ live.rd (R.JIG_CORE_STATUS 3) F.JIG_CORE_STATUS.STORE_24H = 0 ∧
    ∀ d, (live.log d).entries.length < 64 :=
  ⟨live_issues, by decide, by decide, by decide, fun d => show 0 < 64 by decide⟩

theorem meets_ConversionInstructions : live.issues 3 8 0 live ∧ legalCvtF cvt1 = true ∧
    legalCvtDq { cvt1 with srcf := .e4m3, rb := 3, tag := 0, pair := true, strided := true, s32 := true, ss := 2 } = true :=
  ⟨live_issues, by decide, by decide⟩
/-- A quantising convert of the tests: 16 blocks of v2 to slice 1 of v1, their scales in v3. -/
def quant1 : Cvt := { cvt1 with dstf := .e4m3, rb := 3 }
theorem meets_QuantisingInstructions : live.issues 3 8 0 live ∧ legalCvtQ quant1 = true ∧ quant1.reg = false ∧ quant1.rd ≠ quant1.rb ∧
    quant1.minmax = false ∧ blockCount quant1 = 16 ∧ legalCvtQ { quant1 with reg := true, soff := 3 } = true ∧
    legalCvtQsc { quant1 with ds := 0, tag := 0, rb := 0, ss := 3 } = true :=
  ⟨live_issues, by decide, rfl, by decide, rfl, by decide, by decide, by decide⟩

/-- The chip whose core 3 owns the loss scale of context 0, and another where it does not. -/
def owner : State := live.wr (R.SCA_LS_CTRL 0) F.SCA_LS_CTRL.OWNER 3
theorem meets_LossScaleInstructions : owner.issues 3 8 0 owner ∧
    owner.logicalOf 3 = some (owner.rd (R.SCA_LS_CTRL 0) F.SCA_LS_CTRL.OWNER) ∧ live.issues 3 8 0 live ∧
    live.logicalOf 3 ≠ some (live.rd (R.SCA_LS_CTRL 0) F.SCA_LS_CTRL.OWNER) ∧ legalTread 10 = true ∧
    (∀ x ∈ (live.core 3).tel, x.ctx ≠ 0) ∧ (live.ctx 0).telBusy = 0 :=
  ⟨⟨by decide, by decide, by decide, rfl⟩, by decide, live_issues, by decide, by decide, by decide, rfl⟩
theorem meets_LossScaleOutcomes : (owner.sreg 3 2).toNat % 2 = 1 ∧ (owner.sreg 3 1).toNat % 4 = 0 ∧
    ((owner.setSreg 3 2 6).sreg 3 2).toNat % 4 = 2 := by decide
/-- Counts that core 3 owes. -/
def owed : TelDue := { ctx := 0, tag := 63, fmt := 15, produced := 256, overs := 1, van := 2, sub := 3 }
def owing : State := chip { args with tel := [owed] } ctx0
theorem meets_TelemetryDelivered : (owing.core 3).tel = [owed] ∧ owed.tag < 64 ∧ owed.fmt < 16 := ⟨rfl, by decide, by decide⟩

/-- The chip with two scale slots at HBM 0, the first of format E4M3, with a handler at 0x40. -/
def scaled : State :=
  { ((live.wr (R.SCA_TABLE 0) F.SCA_TABLE.SLOTS 8).wr (R.SEQ_HANDLER 3) F.SEQ_HANDLER.ADDR 8) with
    hbm := { bytes := [(896, 0x13), (897, 15), (898, 127), (900, 127)], tiles := [] } }
theorem meets_ScaleHistory : scaled.issues 3 8 0 scaled ∧ (scaled.sreg 3 2).toNat < scaled.rd (R.SCA_TABLE 0) F.SCA_TABLE.SLOTS ∧
    scaled.rd (R.SCA_TABLE 0) F.SCA_TABLE.SLOTS ≤ (scaled.sreg 3 1).toNat ∧ (scaled.core 3).jig = none ∧
    scaled.rd (R.SEQ_HANDLER 3) F.SEQ_HANDLER.ADDR ≠ 0 ∧ scaled.flag (R.SEQ_HANDLER 3) F.SEQ_HANDLER.ACTIVE = false :=
  ⟨⟨by decide, by decide, by decide, rfl⟩, by decide, by decide, rfl, by decide, by decide⟩
/-- The read of the slot that s2 names, what it decodes to, and a value it records without a redo and one with. -/
theorem meets_ScaleHistory_slot : ∃ w d e, scaled.hbmRead 896 128 = some (w, d, false) ∧ scaDecode d = some e ∧
    (∃ e' x y, scaRecord e 0x3F800000 = (e', false) ∧ w.tryWrite 900 (scaBytes e') false none = (x, some y)) ∧
    (∃ e' x y, scaRecord e 0x7F000000 = (e', true) ∧ w.tryWrite 900 (scaBytes e') false none = (x, some y)) :=
  ⟨_, _, _, rfl, rfl, ⟨_, _, _, rfl, rfl⟩, ⟨_, _, _, rfl, rfl⟩⟩

theorem meets_CheckInstructions : live.issues 3 8 0 live ∧ live.slotOf 3 0 = some 0 ∧ live.spdAddr 3 0 4096 1 = some 4096 ∧
    live.drainAhead 3 4096 1 = false ∧ live.sealsHold 3 4096 1 ∧ (live.sreg 3 5).toNat % 2048 = 0 ∧
    live.spdAddr 3 (live.activeSlot 3) 4096 (2048 * 7) = some 4096 ∧ live.drainAhead 3 4096 (2048 * 7) = false ∧
    live.sealsHold 3 4096 (2048 * 7) ∧ (live.sreg 3 2).toNat = 7 ∧ (live.sreg 3 1).toNat % 2048 ≠ 0 :=
  ⟨live_issues, by decide, by decide, by decide, by unfold State.sealsHold; decide, by decide, by decide, by decide,
    by unfold State.sealsHold; decide, by decide, by decide⟩

/-- The chip with cell 2 of the slot at 5. -/
def belayed : State := live.setWord (R.BLY_CELL 3 2) 5
theorem meets_BelayInstructions : belayed.issues 3 8 0 belayed ∧ (belayed.core 3).posted = [] ∧
    (2 : BitVec 10).toNat < belayed.cellCount 3 (belayed.activeSlot 3) ∧ legalAmount 0 9 = true ∧ legalAmount 1 0 = true ∧
    belayed.blyAmount 3 1 0 = 40 ∧ (belayed.cellValue 3 0 2).toNat + 40 < 2 ^ 64 ∧ belayed.cellAt 3 0 2 < 1024 ∧
    (belayed.sreg 3 0).toNat ≤ (belayed.cellValue 3 0 2).toNat ∧ (belayed.cellValue 3 0 2).toNat < (belayed.sreg 3 2).toNat ∧
    (belayed.sreg 3 1).toNat % 2 ^ 32 ≠ 0 ∧
    2 ^ 64 ≤ ((live.setWord (R.BLY_CELL 3 2) (BitVec.ofNat 64 (2 ^ 64 - 40))).cellValue 3 0 2).toNat + 40 :=
  ⟨⟨by decide, by decide, by decide, rfl⟩, rfl, by decide, by decide, by decide, by decide, by decide, by decide, by decide, by decide, by decide,
    by decide⟩

/-- A chip with rope port 1 up, and window 0 of context 0 at virtual address 0 reaching chips 0 to 3 of the rack, 2 MiB each. -/
def linked (s : State) : State :=
  let s := s.wr (R.JNR_WIN_BASE 0 0) F.JNR_WIN_BASE.EN 1
  let s := s.wr (R.JNR_WIN_BASE 0 0) F.JNR_WIN_BASE.W 1
  let s := s.wr (R.JNR_WIN_BASE 0 0) F.JNR_WIN_BASE.R 1
  let s := s.wr (R.JNR_WIN_BASE 0 0) F.JNR_WIN_BASE.LOG_SPAN 21
  let s := s.wr (R.JNR_WIN_SLOT 0 0) F.JNR_WIN_SLOT.LEN_C 4
  s.wr (R.LNK_STATUS 1) F.LNK_STATUS.STATE 3
/-- That chip with a program that increments chip 1's memory. -/
def sender : State := linked (chip { args with sregs := [(1, 0x200008), (2, 7)] } ctx0)
theorem meets_RemoteIncrement : sender.issues 3 8 0 sender ∧ legalAmount 2 0 = true ∧ (sender.sreg 3 1).toNat % 8 = 0 ∧
    sender.dmaAddr 3 0 .mem (sender.sreg 3 1).toNat 8 .write = (sender, .at (.remote 1 8)) ∧ (sender.core 3).posted = [] ∧
    sender.fabricFree 3 = true ∧ sender.blyAmount 3 2 0 ≠ 0 :=
  ⟨⟨by decide, by decide, by decide, rfl⟩, by decide, by decide, rfl, rfl, by decide, by decide⟩

/-- A wait on cell 2 for 3, with deadline 500, and chips where it is satisfied, where it has gone on for 401 ticks, and where it is over. -/
def wait3 : BlyWait := { cell := 2, target := 3, deadline := 500, since := 0, coll := false }
def waiter (t : Word) : State := { chip { args with wait := some wait3 } ctx0 with time := t }
theorem meets_BelayWaits : ((waiter 0).setWord (R.BLY_CELL 3 2) 3).waiting 3 = some (0, wait3) ∧
    ((waiter 0).setWord (R.BLY_CELL 3 2) 3).satisfied 3 wait3 = true ∧
    (waiter 401).waiting 3 = some (0, wait3) ∧ (waiter 401).satisfied 3 wait3 = false ∧ wait3.idleAt = none ∧
    400 < ((waiter 401).time - wait3.since).toNat ∧ (waiter 401).time.toNat < wait3.deadline.toNat ∧
    (waiter 500).waiting 3 = some (0, wait3) ∧ (waiter 500).satisfied 3 wait3 = false ∧
    wait3.deadline.toNat ≤ (waiter 500).time.toNat ∧ ((waiter 500).core 3).jig = none := by
  refine ⟨?_, ?_, ?_, ?_, rfl, ?_, ?_, ?_, ?_, ?_, rfl⟩ <;> decide

theorem meets_DmaInstructions : live.issues 3 16 0 live ∧ legalDma { copy1 with rl := 0 } = true ∧
    live.cellOk 3 copy1.waitEn copy1.wcell = true ∧ live.cellOk 3 (copy1.amount != 0) copy1.icell = true ∧
    (live.sreg 3 5 + (0 : BitVec 20).signExtend 64).toNat % 64 = 0 ∧ (live.sreg 3 5 + (64 : BitVec 20).signExtend 64).toNat % 64 = 0 ∧
    (live.sreg 3 0).toNat % 64 = 0 ∧ (live.sreg 3 0).toNat ≤ 2 ^ 32 ∧ (live.dmaEng 3 1).queue.length < 32 ∧
    (live.sreg 3 5 + (1 : BitVec 20).signExtend 64).toNat % 64 ≠ 0 :=
  ⟨live_issues_long, by decide, by decide, by decide, by decide, by decide, by decide, by decide, by decide, by decide⟩

/-- A copy of 128 bytes inside the scratchpad, with a completion increment, queued; and one that waits for cell 2. -/
def copyOp : DmaOp := .copy .spd .spd 4096 8192 128 none (some (2, 1)) false
def waitOp : DmaOp := .copy .spd .spd 4096 8192 128 (some (2, 9)) (some (3, 1)) false
def queued (o : DmaOp) : State := chip { args with dma := [(1, { queue := [(o, 0)], limit := 100 })] } ctx0
theorem meets_DmaDescriptorStarts_shape : busy.clocked 3 = true ∧ (busy.ctx 0).fenced = false ∧ (busy.dmaEng 3 1).active = none ∧
    (busy.dmaEng 3 1).queue = [(.shape 2 64 128, 0)] := ⟨by decide, rfl, rfl, rfl⟩
theorem meets_DmaDescriptorStarts_copy : (queued copyOp).clocked 3 = true ∧ ((queued copyOp).ctx 0).fenced = false ∧
    ((queued copyOp).dmaEng 3 1).active = none ∧ ((queued copyOp).dmaEng 3 1).queue = [(copyOp, 0)] ∧ (queued copyOp).retry = [] ∧
    (queued copyOp).slotOf 3 0 = some 0 ∧ (queued copyOp).spdAddr 3 0 4096 128 = some 4096 ∧
    (queued copyOp).spdAddr 3 0 8192 128 = some 8192 ∧ (queued copyOp).sealsHold 3 4096 128 ∧ (queued copyOp).noPoison 3 4096 128 ∧
    (queued copyOp).sealsHold 3 8192 128 :=
  ⟨by decide, rfl, rfl, rfl, rfl, by decide, by decide, by decide, by unfold State.sealsHold; decide,
    by unfold State.noPoison; decide, by unfold State.sealsHold; decide⟩
/-- The chip whose copy has written everything. -/
def copied : State :=
  chip { args with dma := [(1, { active := some ({ inc := some (2, 1), todo := [] }, 0) })] } ctx0
theorem meets_DmaCompletes : (copied.ctx 0).fenced = false ∧ (copied.core 3).jig = none ∧
    (copied.dmaEng 3 1).active = some ({ inc := some (2, 1), todo := [] }, 0) ∧ copied.clocked 3 = true ∧ copied.retry = [] ∧
    copied.dmaWaiting 3 1 = 0 ∧ ((copied.core 3).slot (copied.activeSlot 3)).halted = false ∧ copied.slotOf 3 0 = some 0 ∧
    (copied.cellValue 3 0 2).toNat + 1 < 2 ^ 64 ∧ copied.cellAt 3 0 2 < 1024 ∧ 2 < copied.cellCount 3 0 :=
  ⟨rfl, rfl, rfl, by decide, rfl, by decide, by decide, by decide, by decide, by decide, by decide⟩
theorem meets_DmaCompletes_timeout : ((queued waitOp).dmaEng 3 1).active = none ∧ ((queued waitOp).dmaEng 3 1).queue = [(waitOp, 0)] ∧
    ({ queued waitOp with time := 100 } : State).dmaReady 3 0 waitOp = false ∧
    ((queued waitOp).dmaEng 3 1).limit.toNat ≤ ((100 : Word) - ((queued waitOp).dmaEng 3 1).since).toNat ∧
    ((queued waitOp).cellValue 3 0 3).toNat + 1 < 2 ^ 64 ∧ (queued waitOp).cellAt 3 0 3 < 1024 :=
  ⟨rfl, rfl, by decide, by decide, by decide, by decide⟩

theorem meets_CubeInstructions : live.issues 3 16 0 live ∧ (live.core 3).cubeQ.length < 16 ∧ legalLds lds1 = true ∧
    (live.sreg 3 5 + lds1.boff.signExtend 64).toNat % 256 = 0 ∧ legalLdsc ldsc1 = true ∧
    (live.sreg 3 5 + ldsc1.bsoff.signExtend 64).toNat % 16 = 0 ∧ (live.sreg 3 5 + ldsc1.asoff.signExtend 64).toNat % 16 = 0 ∧
    legalMma mma1 = true ∧ (live.sreg 3 5 + mma1.aoff.signExtend 64).toNat % 256 = 0 ∧ legalDrain drain1 = true ∧
    (live.sreg 3 5 + drain1.doff.signExtend 64).toNat % 1024 = 0 :=
  ⟨live_issues_long, by decide, by decide, by decide, by decide, by decide, by decide, by decide, by decide, by decide, by decide⟩

/-- The chip with one cube instruction queued. -/
def cubed (o : CubOp) : State := chip { args with cubeQ := [(o, 0)] } ctx0
theorem meets_CubeLoads_lds : (cubed (.lds lds1 4096)).slotOf 3 0 = some 0 ∧
    (((cubed (.lds lds1 4096)).core 3).slot ((cubed (.lds lds1 4096)).activeSlot 3)).halted = false ∧
    (cubed (.lds lds1 4096)).cubReady 3 isLoad = some (0, .lds lds1 4096, 0) ∧ (cubesOf lds1.mask).length = 2 ∧
    ∀ j, j < 2 → ∃ x, (cubed (.lds lds1 4096)).spdAddr 3 0 ((4096 + j * lds1.bstr.toNat * 256) % 2 ^ 64) (blockBytes .e4m3) = some x ∧
      (cubed (.lds lds1 4096)).sealsHold 3 x (blockBytes .e4m3) ∧ (cubed (.lds lds1 4096)).noPoison 3 x (blockBytes .e4m3) := by
  refine ⟨by decide, by decide, by rfl, by decide, fun j h => ?_⟩
  match j, h with
  | 0, _ => exact ⟨4096, by decide, by unfold State.sealsHold; decide, by unfold State.noPoison; decide⟩
  | 1, _ => exact ⟨5120, by decide, by unfold State.sealsHold; decide, by unfold State.noPoison; decide⟩
/-- A load of the B scales of cubes 0 and 1. -/
def ldscB : CubLdsc := { ldsc1 with ldA := false, rbA := 0, asoff := 0 }
theorem meets_CubeLoads_ldsc : (cubed (.ldsc ldscB 4096 0)).cubReady 3 isLoad = some (0, .ldsc ldscB 4096 0, 0) ∧
    groupShare .e4m3 false 2 = 1 ∧ groupBytes .e4m3 false = 16 ∧
    (cubed (.ldsc ldscB 4096 0)).spdAddr 3 0 4096 16 = some 4096 ∧ (cubed (.ldsc ldscB 4096 0)).spdAddr 3 0 4112 16 = some 4112 ∧
    (cubed (.ldsc ldscB 4096 0)).sealsHold 3 4096 32 ∧ (cubed (.ldsc ldscB 4096 0)).noPoison 3 4096 32 :=
  ⟨by rfl, by decide, by decide, by decide, by decide, by unfold State.sealsHold; decide, by unfold State.noPoison; decide⟩
theorem meets_CubeRingSteps : ((cubed (.mma mma1 4096 0)).cubsReady 3
      (fun o => match o with | .mma _ _ _ => true | _ => false))[(0 : Fin 16).val]? = some (0, .mma mma1 4096 0, 0) ∧
    (cubed (.mma mma1 4096 0)).slotOf 3 0 = some 0 ∧ (cubesOf mma1.mask).length = 2 ∧
    (cubed (.mma mma1 4096 0)).spdAddr 3 0 4096 (blockBytes .e4m3) = some 4096 ∧
    (cubed (.mma mma1 4096 0)).sealsHold 3 4096 (blockBytes .e4m3) ∧ (cubed (.mma mma1 4096 0)).noPoison 3 4096 (blockBytes .e4m3) :=
  ⟨by rfl, by decide, by decide, by decide, by unfold State.sealsHold; decide, by unfold State.noPoison; decide⟩
/-- A step of `mma1` in flight. -/
def feed1 (c : Nat) : CubFeed := { cube := c, blk := List.replicate 256 0x38, poison := false, b := 0x38, sb := 0, sa := 0, spoison := false }
def step1 : CubUpd := { d := mma1, step := 0, blocks := [feed1 0, feed1 1] }
def stepping : State := chip { args with upds := [(step1, 0)] } ctx0
theorem meets_CubeAccumulates : (stepping.core 3).upds = [(step1, 0)] ∧ stepping.clocked 3 = true ∧ ringSize step1.d.ring = 1 ∧
    step1.step = 0 ∧ step1.blocks.map CubFeed.cube = cubesOf step1.d.mask ∧ (∀ b ∈ step1.blocks, b.poison = false) ∧
    ((stepping.core 3).slot (stepping.activeSlot 3)).halted = false :=
  ⟨rfl, by decide, by decide, rfl, by decide, by decide, by decide⟩
theorem meets_CubeDrains : (cubed (.drain drain1 4096)).cubReady 3
      (fun o => match o with | .drain _ _ => true | _ => false) = some (0, .drain drain1 4096, 0) ∧ cubesOf drain1.mask = [0] ∧
    (cubed (.drain drain1 4096)).spdAddr 3 0 ((4096 + 1024 * 0) % 2 ^ 64) 1024 = some 4096 ∧
    (cubed (.drain drain1 4096)).sealsHold 3 4096 1024 :=
  ⟨by rfl, by decide, by decide, by unfold State.sealsHold; decide⟩
/-- The chip with cube 2 of core 3 in a state of its ramp. -/
def ramp (r run duty : Nat) : State :=
  ((live.wr (R.CUBE_STATUS 3 2) F.CUBE_STATUS.RAMP_STATE r).wr (R.CUBE_STATUS 3 2) F.CUBE_STATUS.IDLE_RUN run).wr (R.CUBE_STATUS 3 2) F.CUBE_STATUS.DUTY duty
theorem meets_CubeRamps : (ramp 2 64 16).clocked 3 = true ∧ (ramp 2 64 16).rampOf 3 2 = 2 ∧
    64 ≤ (ramp 2 64 16).rd (R.CUBE_STATUS 3 2) F.CUBE_STATUS.IDLE_RUN ∧ (ramp 3 0 1).rampOf 3 2 = 3 ∧ (ramp 3 0 1).dutyOf 3 2 = 1 ∧
    (ramp 1 0 15).rampOf 3 2 = 1 ∧ (ramp 1 0 15).dutyOf 3 2 = 15 ∧ (ramp 0 0 0).rampOf 3 2 = 0 := by decide

/-- A page table at 0x1000 whose first entry points to the table and whose second maps the first GiB, with one instruction at 0x1100, a load
of s7 from the scratchpad at s5. -/
def table1 : SMap Byte := Memory.write (Memory.write [] 0x1000 (natLe (1 + 0x1000) 8 ++ natLe 23 8)) 0x1100
  (natLe (match encodeTis (.sclLd 3 7 5 .b8 .spd 0) with | some (w, _) => w | none => 0) 8)
/-- The chip with a load outstanding at the instruction before it and run-ahead enabled, before and after it has run ahead; the tile of the
table is sealed. -/
def aheadOf (a : Option RunAhead) (tiles : SMap TileMeta) : State :=
  let s := chip { args with load := some { rd := 6, size := 4, signed := true, tgt := .spd 4096 }, ahead := a, spd := { tiles := tiles } } ctx0
  let s := (s.wr (R.SEQ_CTRL 3) F.SEQ_CTRL.RUNAHEAD_EN 1).wr (R.SEQ_CTRL 3) F.SEQ_CTRL.RUNAHEAD_DEPTH 7
  let s := (s.wr (R.SEQ_PC 3) F.SEQ_PC.PC 0x400010F8).wr (R.JNR_CTX_PT 0) F.JNR_CTX_PT.ROOT 1
  { s with hbm := { bytes := table1, tiles := [(2, sealedMeta (Tiled.data { bytes := table1 } 2))] } }
/-- What the reads of that tile rest on. -/
def tile2 (s : State) : Prop := s.hbm.bytes = table1 ∧ s.hbm.info 2 = sealedMeta (s.hbm.data 2) ∧ s.ue = [] ∧ s.plinths = [] ∧
  s.tileBlocked 2 = false ∧ 0x1800 < s.hbmEnd
theorem tile2_done (s : State) (h : tile2 s) : tile2 (s.dramDone 2) := by
  obtain ⟨b, m, u, p, k, e⟩ := h
  refine And.intro ?_ (And.intro ?_ (And.intro ?_ (And.intro ?_ (And.intro ?_ ?_))))
  · rw [Laws.dramDone_hbm, b]
  · rw [Laws.dramDone_hbm, m]
  · rw [Laws.dramDone_ue, u]
  · rw [Laws.dramDone_frame]
    exact p
  · rw [Laws.dramDone_tileBlocked, k]
  · have r : (s.dramDone 2).regs = s.regs := by rw [Laws.dramDone_frame]
    unfold State.hbmEnd at e ⊢
    simpa only [Laws.rd_regs s _ r] using e
theorem walk_tile2 (s : State) (h : tile2 s) (c a : Nat) (t : tilesOf a 8 = [2]) (l : a < 0x1800) :
    s.walkRead c a = (s.dramDone 2, .entry (leNat (Memory.read table1 a 8))) := by
  obtain ⟨b, m, u, p, k, e⟩ := h
  have m1 : (s.hbm.info 2).st = .sealed := congrArg TileMeta.st m
  have m2 : sealOf (s.hbm.data 2) = (s.hbm.info 2).sl := (congrArg TileMeta.sl m).symm
  have q : ∀ i, s.plinth i = {} := fun i => by unfold State.plinth; rw [p]; rfl
  have g : s.hbmRead a 8 = some (s.dramDone 2, Memory.read table1 a 8, false) := by
    have z : s.wcbEntry 2 = none := by unfold State.wcbEntry; rw [q]; rfl
    have y : s.badSectors 2 = [] := by unfold State.badSectors; rw [u]; rfl
    simp only [State.hbmRead, t, List.any_cons, List.any_nil, k, Bool.or_false, List.foldl_cons, List.foldl_nil, State.serveTile,
      State.wcbMerge, z, Laws.hbmCheck_sealed s 2 true m1 y m2, Laws.dramDone_hbm, b]
    rw [if_neg (by decide)]
  unfold State.walkRead State.readAs
  rw [if_neg (by omega)]
  simp only [q, g]
  rfl
theorem spec_tile2 (s : State) (h : tile2 s) : (s.specHbm 0x1100 8).2 = some (Memory.read table1 0x1100 8) := by
  obtain ⟨b, m, u, p, k, e⟩ := h
  have z : s.wcbEntry 2 = none := by unfold State.wcbEntry State.plinth; rw [p]; rfl
  have y : s.badSectors 2 = [] := by unfold State.badSectors; rw [u]; rfl
  unfold State.specHbm
  simp only [show 0x1100 / 2048 = 2 from rfl, k, m, y, z, b]
  simp [sealedMeta]
/-- The state with that tile, and what its translation rests on: no windows, the table's root, the region. -/
theorem ahead_instr (s : State) (h : tile2 s) (w : (upto 8).find? (fun w => s.winApplies 0 w 0x40001100) = none)
    (r : s.rd (R.JNR_CTX_PT 0) F.JNR_CTX_PT.ROOT = 1) : s.aheadInstr 3 0 0x40001100 = some (.sclLd 3 7 5 .b8 .spd 0) := by
  have x : (s.xlate 0 0x40001100 .fetch).2 = .ok (.hbm 0x1100) false := by
    unfold State.xlate
    rw [if_neg (by decide), w]
    simp only [r]
    rw [if_neg (by decide)]
    unfold State.walkFrom
    dsimp only
    rw [walk_tile2 s h 0 _ (by decide) (by decide)]
    simp only [show leNat (Memory.read table1 (1 * 4096 + 8 * bits 0x40001100 (39 - 9 * (2 - 2)) 9) 8) = 0x1001 by decide +kernel]
    rw [if_neg (by decide), if_neg (by decide), if_neg (by decide), if_neg (by decide)]
    unfold State.walkFrom
    dsimp only
    have h' := tile2_done s h
    rw [walk_tile2 _ h' 0 _ (by decide) (by decide)]
    simp only [show leNat (Memory.read table1 (bits 0x1001 12 28 * 4096 + 8 * bits 0x40001100 (39 - 9 * (2 - 1)) 9) 8) = 23 by decide +kernel]
    rw [if_neg (by decide), if_neg (by decide), if_neg (by decide), if_pos (by decide)]
    have e := (tile2_done _ h').2.2.2.2.2
    simp [State.useLeaf, State.region, State.localTarget, bits, show (0x1100 : Nat) < _ from Nat.lt_trans (by decide) e]
  unfold State.aheadInstr
  rw [if_neg (by decide)]
  simp only [show (0x40001100 : Word).toNat = 0x40001100 from rfl, x, spec_tile2 s h]
  decide +kernel
theorem lookD_one {α : Type} (i : Nat) (x d : α) : SMap.lookD [(i, x)] i d = x := by simp [SMap.lookD, SMap.look]
theorem aheadOf_tile2 (a : Option RunAhead) (t : SMap TileMeta) (b : (aheadOf a t).tileBlocked 2 = false)
    (e : 0x1800 < (aheadOf a t).hbmEnd) : tile2 (aheadOf a t) := ⟨rfl, lookD_one 2 _ _, rfl, rfl, b, e⟩
theorem meets_RunAheadReads_code : (aheadOf none []).aheadInstr 3 0 ((aheadOf none []).aheadWin 3).pc = some (.sclLd 3 7 5 .b8 .spd 0) ∧
    (aheadOf none [(2, { st := .poison })]).aheadInstr 3 0 ((aheadOf none [(2, { st := .poison })]).aheadWin 3).pc = some (.sclLd 3 7 5 .b8 .spd 0) := by
  refine ⟨?_, ?_⟩
  · rw [show ((aheadOf none []).aheadWin 3).pc = 0x40001100 by decide +kernel]
    exact ahead_instr _ (aheadOf_tile2 _ _ (by decide +kernel) (by decide +kernel)) (by decide +kernel) (by decide +kernel)
  · rw [show ((aheadOf none [(2, { st := .poison })]).aheadWin 3).pc = 0x40001100 by decide +kernel]
    exact ahead_instr _ (aheadOf_tile2 _ _ (by decide +kernel) (by decide +kernel)) (by decide +kernel) (by decide +kernel)
theorem meets_RunAheadReads : (aheadOf none []).running 3 = some 0 ∧ (aheadOf none []).mayRunAhead 3 = true ∧
    ((aheadOf none []).aheadWin 3).known 5 = true ∧ (((aheadOf none []).aheadWin 3).reg 5 + (0 : BitVec 32).signExtend 64).toNat = 4096 ∧
    (aheadOf none []).spdAddr 3 ((aheadOf none []).activeSlot 3) 4096 8 = some 4096 ∧
    (aheadOf none []).sealsHold 3 4096 8 ∧ (aheadOf none []).noPoison 3 4096 8 := by
  refine ⟨?_, ?_, ?_, ?_, ?_, by unfold State.sealsHold; decide +kernel, by unfold State.noPoison; decide +kernel⟩ <;> decide +kernel
theorem meets_RunAheadReads_poison : (aheadOf none [(2, { st := .poison })]).mayRunAhead 3 = true ∧
    (aheadOf none [(2, { st := .poison })]).spdState 3 (4096 / 2048) = .poison ∧ live.aheadInstr 3 0 (live.aheadWin 3).pc = none ∧
    ((aheadOf (some { path := [8] }) []).core 3).ahead = some { path := [8] } ∧ (aheadOf (some { path := [8] }) []).running 3 = some 0 ∧
    (aheadOf (some { path := [8] }) []).jigging 3 = false := by
  refine ⟨?_, ?_, ?_, rfl, ?_, ?_⟩ <;> decide +kernel

/-- The chip that yields, with nothing else on core 3, and with a saved program of context 1 in slot 1. -/
def yielding1 : State := chip { args with yielding := true } ctx0
def yielding2 : State :=
  let s := { chip { args with yielding := true, slot1 := { started := true, saved := true } } ctx0 with ctxs := [(0, ctx0), (1, { phase := .running })] }
  let s := s.wr (R.CORE_STATUS 3) F.CORE_STATUS.RES1_VALID 1
  let s := s.wr (R.CORE_STATUS 3) F.CORE_STATUS.RES1_CTX 1
  let s := s.wr (R.CORE_SPD_ALLOC 3 1) F.CORE_SPD_ALLOC.SIZE 4
  s.wr (R.CORE_SPD_ALLOC 3 1) F.CORE_SPD_ALLOC.BASE 4
theorem meets_YieldSwitches : yielding1.running 3 = some 0 ∧ (yielding1.core 3).yielding = true ∧ yielding1.drained 3 0 = true ∧
    yielding1.activeSlot 3 = 0 ∧ yielding1.runnable 3 1 = false ∧ yielding2.running 3 = some 0 ∧ (yielding2.core 3).yielding = true ∧
    yielding2.drained 3 0 = true ∧ yielding2.runnable 3 1 = true ∧ yielding2.sealsHold 3 (yielding2.saveArea 3 1) 0x14800 ∧
    yielding2.noPoison 3 (yielding2.saveArea 3 1) 0x14800 ∧ yielding2.saveArea 3 0 + 0x14800 ≤ yielding2.saveArea 3 1 :=
  ⟨by decide, rfl, by decide, by decide, by decide, by decide, rfl, by decide, by decide, by unfold State.sealsHold; decide,
    by unfold State.noPoison; decide, by decide⟩

/-- A descriptor of a group of the four chips 0 to 3 of the rack, with planes 0 to 3. -/
def four : BitVec 128 := BitVec.ofNat 128 (4 * 2 ^ 55 + 0xF * 2 ^ 96)
/-- An ALL_REDUCE of 16 FP32 elements as a queued operation and as a stream. -/
def reduceOp : SplOp := .run 0 0 0x10000 0x20000 16 none none
def stream1 : Stream := { kind := 0, fmt := 0, src := 0x10000, dst := 0x20000, block := 64 }
/-- The chip of index `n` whose context 0 holds group 2 as `x`, with rope ports 0 to 3 up. -/
def spliced (n : Nat) (x : Group) : State :=
  let s := chip { args with sregs := [(2, 16), (5, 0x10000)] } { ctx0 with groups := [(2, { x with desc := four, phys := 3 })] }
  let s := s.wr R.JNR_CHIP F.JNR_CHIP.INDEX n
  (upto 4).foldl (fun s p => s.wr (R.LNK_STATUS p) F.LNK_STATUS.STATE 3) s
theorem meets_SpliceInstructions : (spliced 1 {}).issues 3 16 0 (spliced 1 {}) ∧ (spliced 1 {}).splCells 3 spl1 = true ∧
    SMap.look ((spliced 1 {}).ctx 0).groups spl1.group.val = some { desc := four, phys := 3 } ∧
    ((spliced 1 {}).baseOff 3 spl1.rs spl1.soff).toNat % 64 = 0 ∧ ((spliced 1 {}).baseOff 3 spl1.rdst spl1.doff).toNat % 64 = 0 ∧
    legalRun spl1 = true ∧ streamOk 0 0 16 (groupSize four.toNat) = true ∧ streamOk 0 0 15 (groupSize four.toNat) = false ∧
    legalBatch { spl1 with rdst := 0, doff := 0 } = true ∧ legalCounts spl1 = true ∧ ((spliced 1 {}).sreg 3 2).toNat = 16 ∧
    ((spliced 1 {}).sreg 3 0).toNat = 0 ∧ ((spliced 1 {}).baseOff 3 spl1.rs (1 : BitVec 20)).toNat % 64 ≠ 0 :=
  ⟨⟨by decide, by decide, by decide, rfl⟩, by decide, rfl, by decide, by decide, by decide, by decide, by decide, by decide, by decide, by decide,
    by decide, by decide⟩
theorem meets_SpliceInstructions_full : 16 ≤ (List.replicate 16 reduceOp).length := by decide
/-- Member 1 with the ALL_REDUCE queued, and with one of no elements. -/
def starting : State := spliced 1 { queue := [reduceOp] }
def empty1 : State := spliced 1 { queue := [.run 0 0 0x10000 0x20000 0 none none] }
def held1 : State := spliced 1 { queue := [.run 0 0 0x10000 0x20000 16 (some (2, 1)) none], waitDeadline := 100 }
theorem meets_CollectiveStarts : SMap.look (starting.ctx 0).groups 2 = some { desc := four, phys := 3, queue := [reduceOp] } ∧
    (starting.ctx 0).fenced = false ∧ starting.splReadyHead 0 { desc := four, phys := 3, queue := [reduceOp] } reduceOp = true ∧
    totalChunks [stream1] (groupSize four.toNat) ≠ 0 ∧ reduces 0 = true ∧ starting.me 0 four.toNat ≠ leaderOf four.toNat (starting.me 0 four.toNat) ∧
    starting.path (some 0) 0 starting.ownChip (BitVec.ofNat 17 (starting.groupChip 0 four.toNat 0)).toNat false = .port 1 none ∧
    totalChunks [{ stream1 with block := 0 }] (groupSize four.toNat) = 0 ∧ ((empty1.core 3).slot (empty1.activeSlot 3)).halted = false ∧
    held1.splReadyHead 0 { desc := four, phys := 3, queue := [.run 0 0 0x10000 0x20000 16 (some (2, 1)) none] }
      (.run 0 0 0x10000 0x20000 16 (some (2, 1)) none) = false :=
  ⟨rfl, rfl, by decide, by decide, rfl, by decide, by decide, by decide, by decide, by decide⟩

/-- The collective of the tests in progress on a member, with what `f` says of it. -/
def coll1 : Coll := { streams := [stream1], inc := none, seq := 5, deadline := 1000 }
def running1 (n : Nat) (k : Coll) : State := spliced n { seq := 5, cur := some k }
def group1 (k : Coll) : Group := { seq := 5, cur := some k, desc := four, phys := 3 }
/-- A control message of member `m` for it. -/
def note (m : BitVec 17) (chunk : BitVec 24) (arg : BitVec 64) : SplCtl :=
  { dst := 0, src := m, key := 0, group := 2, seq := 5, chunk := chunk, arg := arg, hasCarry := false }
/-- The leader with READY of members 0 and 1, and of 0 to 2. -/
def ready2 : Coll := { coll1 with ready := [(0, 0xF), (1, 0xF)] }
def ready3 : Coll := { coll1 with ready := [(0, 0xF), (1, 0xF), (2, 0xF)] }
theorem meets_CollectiveRendezvous_ready : (running1 0 ready2).keyed (note 3 0 0x7).key.toNat = [0] ∧ ((running1 0 ready2).ctx 0).fenced = false ∧
    SMap.look ((running1 0 ready2).ctx 0).groups 2 = some (group1 ready2) ∧
    (running1 0 ready2).me 0 four.toNat = leaderOf four.toNat ((running1 0 ready2).me 0 four.toNat) ∧
    (running1 0 ready2).memberOf 0 four.toNat (note 3 0 0x7).src.toNat = some 3 ∧ leaderOf four.toNat 3 = 0 ∧
    (running1 0 ready2).me 0 four.toNat = 0 ∧ (∀ y ∈ ready2.ready, y.1 ≠ 3) ∧ ready2.ready.length + 1 < segSize four.toNat ∧
    ready3.ready.length + 1 = segSize four.toNat ∧ bits four.toNat 88 1 = 0 ∧
    (running1 0 ready3).flag (R.SPL_CTRL 0) F.SPL_CTRL.SWITCH_EN = true ∧ ready2.mode = none ∧ ready2.attempt = 0 ∧
    (ready3.ready ++ [(3, BitVec.ofNat 24 0x7)]).foldl (fun a (b : Nat × BitVec 24) => a &&& b.2) (BitVec.ofNat 24 (bits four.toNat 96 24)) ≠ 0 :=
  ⟨by decide, rfl, rfl, by decide, by decide, by decide, by decide, by decide, by decide, by decide, by decide, by decide, rfl, rfl, by decide⟩
theorem meets_CollectiveRendezvous_mode : (running1 1 coll1).keyed 0 = [0] ∧
    SMap.look ((running1 1 coll1).ctx 0).groups 2 = some (group1 coll1) ∧ coll1.mode = none ∧ reduces coll1.kind = true ∧
    coll1.credits = [] ∧ (running1 1 coll1).me 0 four.toNat ≠ 0 ∧ coll1.send = [] ∧ coll1.own = [] ∧ coll1.recv = [] ∧ coll1.starts = [] ∧
    coll1.writes = [] ∧ coll1.status = 0 :=
  ⟨by decide, rfl, rfl, rfl, rfl, by decide, rfl, rfl, rfl, rfl, rfl, rfl⟩
theorem meets_CollectiveRendezvous_stale : ({ note 3 0 0 with seq := 4 } : SplCtl).seq ≠ (group1 coll1).seq ∧
    seqAhead 4 (group1 coll1).seq = false ∧ seqAhead 6 (group1 coll1).seq = true ∧ planeArg (note 3 0 1) < 24 := by decide
/-- The leader that has claimed planes 0 and 1, before a grant, with plane 0 granted, between two attempts, and after its choice. -/
def claimed (granted : BitVec 24) : Coll := { ready3 with ready := ready3.ready ++ [(3, 0x7)], planes := 3, attempt := 1, granted := granted }
def waiting1 : Coll := { claimed 0 with retryAt := some 800 }
def chosen : Coll := { claimed 3 with mode := some false, held := true }
theorem meets_CollectiveClaims : (running1 0 (claimed 0)).coll 0 2 = some (group1 (claimed 0), claimed 0) ∧
    ((running1 0 (claimed 0)).ctx 0).fenced = false ∧ (claimed 0).send = [] ∧ (claimed 0).own = [] ∧ (claimed 0).recv = [] ∧
    (claimed 0).starts = [] ∧ reduces (claimed 0).kind = true ∧
    (claimed 0).writes = [] ∧ (claimed 0).status = 0 ∧ (running1 0 (claimed 0)).keyed (note 0 0 0).key.toNat = [0] ∧
    (note 0 0 0).seq = (group1 (claimed 0)).seq ∧ (claimed 0).mode = none ∧ (claimed 0).attempt ≠ 0 ∧ (claimed 0).retryAt = none ∧
    (claimed 0).planes &&& BitVec.ofNat 24 (2 ^ ((note 0 0 0).arg.toNat % 32)) ≠ 0 ∧
    (claimed 0).granted ||| BitVec.ofNat 24 (2 ^ ((note 0 0 0).arg.toNat % 32)) ≠ (claimed 0).planes ∧
    (claimed 1).granted ||| BitVec.ofNat 24 (2 ^ ((note 0 0 1).arg.toNat % 32)) = (claimed 1).planes ∧ (claimed 1).credits = [] ∧
    chosen.mode ≠ none ∧ (claimed 1).attempt < 8 :=
  ⟨rfl, rfl, rfl, rfl, rfl, rfl, rfl, rfl, rfl, by decide, rfl, rfl, by decide, rfl, by decide, by decide, by decide, rfl, by decide, by decide⟩
theorem meets_CollectiveClaims_later : (running1 0 waiting1).coll 0 2 = some (group1 waiting1, waiting1) ∧ waiting1.retryAt = some 800 ∧
    waiting1.planes &&& (running1 0 waiting1).upMask ≠ 0 ∧ waiting1.planes &&& ((running1 1 waiting1).setPort 3 {}).upMask ≠ 0 ∧
    (0xF0 : BitVec 24) &&& (running1 1 waiting1).upMask = 0 ∧ (800 : Word).toNat ≤ ({ running1 0 waiting1 with time := 800 } : State).time.toNat ∧
    (running1 0 waiting1).time.toNat < (800 : Word).toNat ∧
    20000 ≤ (({ running1 1 (claimed 0) with time := 20000 } : State).time - (claimed 0).claimAt).toNat ∧
    ((running1 1 (claimed 0)).time - (claimed 0).claimAt).toNat < 20000 ∧ (running1 1 (claimed 0)).me 0 four.toNat ≠ 0 ∧
    (running1 0 (claimed 1)).rd (R.SPL_CTRL 0) F.SPL_CTRL.BACKOFF_US = 1 ∧
    ((running1 0 (claimed 1)).time + BitVec.ofNat 64 (1 * 100 * 2 ^ ((claimed 1).attempt - 1)) - (claimed 1).claimAt).toNat < 20000 :=
  ⟨rfl, rfl, by decide, by decide, by decide, by decide, by decide, by decide, by decide, by decide, by decide, by decide⟩

/-- An ALL_GATHER of 64 bytes in progress, and a chunk of member 2 for it. -/
def gather : Coll := { coll1 with streams := [{ stream1 with kind := 2 }] }
def chunk1 : Chunk := { ckind := .data, dst := 1, src := 2, key := 0, group := 2, kind := 2, fmt := 0, seq := 5, chunk := 0, member := 2, poison := false, last := true, viaSwitch := false, len := 64, crc := 0 }
theorem meets_CollectiveChunks : (running1 1 gather).coll 0 2 = some (group1 gather, gather) ∧ ((running1 1 gather).ctx 0).fenced = false ∧
    (running1 1 gather).keyed chunk1.key.toNat = [0] ∧ chunk1.seq = (group1 gather).seq ∧ gather.kind = 2 ∧ gather.mode = none ∧
    gather.counts = none ∧ 0 < ([1, 2] : List Byte).length ∧ (locate (groupSize four.toNat) gather.streams chunk1.chunk.toNat).isSome = true ∧
    ({ chunk1 with seq := 6 } : Chunk).seq ≠ (group1 gather).seq :=
  ⟨rfl, rfl, by decide, rfl, rfl, rfl, rfl, by decide, by decide, by decide⟩
theorem meets_CollectiveChunks_lost : (running1 0 chosen).coll 0 2 = some (group1 chosen, chosen) ∧
    (running1 0 chosen).me 0 four.toNat = leaderOf four.toNat ((running1 0 chosen).me 0 four.toNat) ∧ chosen.mode = some false ∧
    bits chosen.planes.toNat 0 1 = 1 ∧ bits chosen.lost.toNat 0 1 = 0 ∧ chosen.inPlace = false ∧ (note 1 0 0).seq = (group1 chosen).seq :=
  ⟨rfl, by decide, rfl, by decide, by decide, by decide, rfl⟩
/-- A collective with everything sent and received, and a REDUCE with its root elsewhere. -/
def finished : Coll := { gather with done := [(0, 0), (1, 0), (2, 0), (3, 0)], came := [(0, 1), (8, 1), (12, 1)], inc := some (2, 1) }
def reduce4 : Coll := { coll1 with streams := [{ stream1 with kind := 4 }] }
theorem meets_CollectiveEnds : SMap.look ((running1 1 finished).ctx 0).groups 2 = some (group1 finished) ∧
    ((running1 1 finished).ctx 0).fenced = false ∧ (running1 1 finished).splFinished 0 2 (group1 finished) finished = true ∧
    finished.status = 0 ∧ (((running1 1 finished).core 3).slot ((running1 1 finished).activeSlot 3)).halted = false ∧
    ((running1 1 finished).core 3).jig = none ∧ (running1 1 finished).slotOf 3 0 = some 0 ∧
    ((running1 1 finished).cellValue 3 0 2).toNat + 1 < 2 ^ 64 ∧ (running1 1 finished).cellAt 3 0 2 < 1024 :=
  ⟨rfl, rfl, by decide, rfl, by decide, rfl, by decide, by decide, by decide⟩
theorem meets_CollectiveEnds_failed : ((running1 1 reduce4).ctx 0).live = true ∧ ((running1 1 reduce4).ctx 0).cause = none ∧
    reduce4.inc = none ∧ ((running1 1 reduce4).ctx 0).groups.all (fun y => decide (y.1 < 256)) = true ∧
    (running1 1 reduce4).keyed (note 0 0 0).key.toNat = [0] ∧ (note 0 0 0).seq = (group1 reduce4).seq ∧
    (running1 1 reduce4).me 0 four.toNat ≠ leaderOf four.toNat ((running1 1 reduce4).me 0 four.toNat) ∧
    (running1 1 reduce4).me 0 four.toNat ≠ groupRoot four.toNat ∧ reduce4.kind = 4 ∧ reduce4.writes = [] ∧ reduce4.recv = [] ∧ reduce4.ext = none ∧
    (running1 1 reduce4).splFinished 0 2 (group1 reduce4) reduce4 = false ∧
    ({ reduce4 with ext := some (3, 1) } : Coll).ext = some (3, 1) ∧
    reduce4.deadline.toNat ≤ ({ running1 1 reduce4 with time := 1000 } : State).time.toNat ∧
    (running1 1 reduce4).flag (R.SPL_STALL 0) F.SPL_STALL.VALID = false ∧ (running1 1 reduce4).time.toNat < reduce4.deadline.toNat :=
  ⟨rfl, rfl, rfl, by decide, by decide, rfl, by decide, by decide, rfl, rfl, rfl, rfl, by decide, rfl, by decide, by decide, by decide⟩
theorem meets_CollectiveEnds_wait : SMap.look (held1.ctx 0).groups 2 =
      some { desc := four, phys := 3, queue := [.run 0 0 0x10000 0x20000 16 (some (2, 1)) none], waitDeadline := 100 } ∧
    (splWait (.run 0 0 0x10000 0x20000 16 (some (2, 1)) none)).isSome = true ∧
    (100 : Word).toNat ≤ ({ held1 with time := 100 } : State).time.toNat ∧ held1.time.toNat < (100 : Word).toNat :=
  ⟨rfl, rfl, by decide, by decide⟩

/-- A request of chip 1 for local address `a`. -/
def req (a : Nat) (len : BitVec 6) : FabHdr := { whole := false, dst := 0, src := 1, key := 0, addr := BitVec.ofNat 40 a, len := len, tag := 77, sealAmt := 5, state := 0, poison := false, status := 0, stream := 0 }
/-- The chip with context 0 owning 2 MiB of HBM, stacks present, and a way back to chip 1. -/
def target : State := linked (chip args { ctx0 with extents := [(0, 0x200000)] })
/-- Context address 4096 of core 3's scratchpad, and its cell 2, as local addresses (Table 72). -/
def spdReq : Nat := 0xC000000000 + 3 * 0x2000000 + 4096
def cellReq : Nat := 0xD000000000 + 3 * 0x2000 + 16
theorem meets_FabricRequestServed : (req 0 0).dst.toNat = target.ownChip ∧ target.retry = [] ∧ target.keyed (req 0 0).key.toNat = [0] ∧
    (target.ctx 0).fenced = false ∧ target.region 0 = .hbm ∧ target.inExtent 0 0 64 = true ∧
    target.path (some 0) 0 target.ownChip 1 false = .port 1 none ∧ target.heldLines 0 64 = [] ∧
    target.region (req spdReq 0).addr.toNat = .spd 3 4096 ∧ target.spdTarget 0 3 4096 64 = some (3, 4096) ∧ target.sealsHold 3 4096 64 ∧
    target.path (some 0) spdReq target.ownChip 1 false = .port 1 none ∧
    target.region (req cellReq 0).addr.toNat = .cell 3 2 ∧ target.physOf 3 = some 3 ∧ target.slotOf 3 0 = some 0 ∧ 2 < target.cellCount 3 0 ∧
    target.cellAt 3 0 2 < 1024 ∧ (target.core 3).jig = none ∧ target.recentIncs.length < 4096 ∧
    (target.cellValue 3 0 2).toNat + (req 0 0).sealAmt.toNat < 2 ^ 64 ∧ target.path (some 0) cellReq target.ownChip 1 false = .port 1 none :=
  ⟨by decide, rfl, by decide, rfl, by decide, by decide, by decide, by decide, by decide, by decide, by unfold State.sealsHold; decide,
    by decide, by decide, by decide, by decide, by decide, by decide, rfl, by decide, by decide, by decide⟩
theorem meets_FabricRequestServed_read : ∃ w d, target.hbmRead 0 64 = some (w, d, false) ∧ w.path (some 0) 0 w.ownChip 1 false = .port 1 none ∧
    w.retry = [] := ⟨_, _, rfl, by decide, rfl⟩
theorem meets_FabricRequestServed_write : ∃ x w, target.tryWrite 0 (List.replicate 64 1) false none = (x, some w) ∧
    w.path (some 0) 0 w.ownChip 1 false = .port 1 none ∧ w.retry = [] := ⟨_, _, rfl, by decide, rfl⟩
theorem meets_FabricRequestRefused : (∀ c, ∃ port rw, target.path c 0 target.ownChip (req 0 0).src.toNat false = .port port rw) ∧
    target.keyed 9 = [] ∧ target.region (req 0x200000 0).addr.toNat = .hbm ∧ target.inExtent 0 (req 0x200000 0).addr.toNat 64 = false ∧
    ({ target with ctxs := [(0, { target.ctx 0 with fenced := true })] } : State).keyed 0 = [0] ∧
    ({ target with ctxs := [(0, target.ctx 0), (1, target.ctx 0)] } : State).keyed 0 = [0, 1] :=
  ⟨fun _ => ⟨1, none, rfl⟩, by decide, by decide, by decide, by decide, by decide⟩

/-- A load of core 3 that waits for chip 1, with its request outstanding; and a posted store with its own. -/
def asked : OutReq := { tag := 9, cls := 1, chip := 1, addr := 8, len := 8, core := 3, eng := .seq, ctx := 0, deadline := 500, first := 0 }
def waitLoad : LoadWait := { rd := 6, size := 8, signed := false, tgt := .remote 1 8, tag := some 9 }
def asking (q : OutReq) : State :=
  { linked (chip { args with load := some waitLoad, posted := [{ tgt := .remote 1 8, data := [1], tag := some 9 }] } ctx0) with out := [q] }
def reply : FabHdr := { req 8 0 with tag := 9 }
theorem idle_dma (k : Core) (h : k.dma = []) (p e : Nat) :
    (SMap.lookD (SMap.lookD [(3, k)] p ({} : Core)).dma e ({} : DmaEng)).active = none := by
  have : (SMap.lookD [(3, k)] p ({} : Core)).dma = [] := by
    unfold SMap.lookD SMap.look
    split
    · exact h
    · rfl
  rw [this]
  rfl
theorem meets_FabricResponses : reply.dst.toNat = (asking asked).ownChip ∧ (asking asked).retry = [] ∧
    (∀ p e, ((asking asked).dmaEng p e).active = none) ∧
    (asking asked).out.find? (fun y => y.tag == reply.tag && decide (y.cls ≤ 3) && y.cls == 1) = some asked ∧
    (asking asked).out.filter (fun y => y.tag == reply.tag) = [asked] ∧ asked.biv = false ∧ asked.eng = .seq ∧
    ((asking asked).ctx asked.ctx).fenced = false ∧ ((asking asked).core asked.core).load = some waitLoad ∧ waitLoad.tag = some asked.tag ∧
    reply.status ≠ 7 ∧ (asking { asked with cls := 2 }).out.filter (fun y => y.tag == reply.tag) = [{ asked with cls := 2 }] ∧
    (asking { asked with cls := 3 }).out.filter (fun y => y.tag == reply.tag) = [{ asked with cls := 3 }] ∧
    ∀ y ∈ (asking asked).out, y.tag ≠ ({ reply with tag := 8 } : FabHdr).tag := by
  refine ⟨by decide, rfl, fun p e => ?_, by decide, by decide, rfl, rfl, rfl, rfl, rfl, by decide, by decide, by decide, by decide⟩
  exact idle_dma _ rfl p e
theorem meets_RemoteTimeouts : asked.cls ≤ 3 ∧ asked.deadline.toNat ≤ ({ asking asked with time := 500 } : State).time.toNat ∧
    ({ asking asked with time := 500 } : State).pausedUntil asked.chip = none ∧
    ({ asking asked with time := 500, pauses := [{ src := 1, site := 2, seq := 3, expiry := 900 }] } : State).pausedUntil asked.chip = some 900 :=
  ⟨by decide, by decide, rfl, rfl⟩

theorem meets_TranslationCommands : sender.running 3 = some (0 : CtxId).val ∧
    sender.xlate (0 : CtxId).val (0x200008 : BitVec 64).toNat .write = (sender, .ok (.remote 1 8) false) ∧
    sender.xlate (0 : CtxId).val (0x200008 : BitVec 64).toNat .fetch = (sender, .fault) ∧
    ∃ w, sender.xlate (0 : CtxId).val (0x900000 : BitVec 64).toNat .read = (w, .fault) :=
  ⟨by decide, rfl, rfl, (sender.xlate 0 0x900000 .read).1, Prod.ext rfl (show (sender.xlate 0 0x900000 .read).2 = .fault by decide)⟩
def invalBusy (l : List (BitVec 16)) : State := (chip args { ctx0 with inval := l }).wr (R.JNR_CTX_CMD 0) F.JNR_CTX_CMD.INVAL_BUSY 1
theorem meets_TranslationCommands_inval : (invalBusy []).flag (R.JNR_CTX_CMD 0) F.JNR_CTX_CMD.INVAL_BUSY = true ∧
    ((invalBusy []).ctx 0).inval = [] ∧ (∀ e ∈ ((invalBusy []).ctx 0).cores, ((invalBusy []).core e.phys).posted = []) ∧
    (invalBusy [4]).flag (R.JNR_CTX_CMD 0) F.JNR_CTX_CMD.INVAL_BUSY = true ∧ ((invalBusy [4]).ctx 0).inval ≠ [] := by decide

/-- A chip that is READY. -/
def readyChip : State := live.wr R.MGT_BOOT F.MGT_BOOT.READY 1
theorem meets_HostMemoryAccess : readyChip.flag R.MGT_BOOT F.MGT_BOOT.READY = true ∧ 64 < readyChip.hbmEnd ∧
    readyChip.stopped (readyChip.siteOf 0) = false ∧ readyChip.tileHeld 0 = false ∧
    readyChip.hbmEnd ≤ (0xFFFFFFFFFFC0 : BitVec 48).toNat / 64 * 64 ∧ live.flag R.MGT_BOOT F.MGT_BOOT.READY = false := by decide
theorem meets_HostMemoryAccess_values : (∃ w d po, readyChip.hbmRead 64 64 = some (w, d, po)) ∧
    ∃ x w, readyChip.plainWrite 64 (slice [1] 0 64) false none = (x, some w) := ⟨⟨_, _, _, rfl⟩, _, _, rfl⟩
theorem meets_HostWindowResponses : (asking { asked with cls := 4 }).out.find? (fun y => y.core == (3 : CoreId).val && y.eng == .seq && decide (4 ≤ y.cls)) =
      some { asked with cls := 4 } ∧ (asking { asked with cls := 4 }).out.filter (fun y => y.tag == 9) = [{ asked with cls := 4 }] ∧
    (asking { asked with cls := 5 }).out.find? (fun y => y.core == (3 : CoreId).val && y.eng == .seq && decide (4 ≤ y.cls)) =
      some { asked with cls := 5 } := by decide

/-- The snoop filter with line 5 granted, its back-invalidate sent, and a request that waits for it. -/
def snooping : State := { live with snoop := [5, 6], biSent := [5], lineReqs := [5] }
theorem meets_HostLinesAndLink : 64 * (7 : BitVec 34).toNat < snooping.hbmEnd ∧ snooping.lineWaits (7 : BitVec 34).toNat = false ∧
    (5 : BitVec 34).toNat ∈ snooping.biSent ∧ snooping.biWait = [] ∧ snooping.lineReqs = [(5 : BitVec 34).toNat] ∧ snooping.retry = [] ∧
    snooping.snoop.length ≤ 262144 ∧ (5 : BitVec 34).toNat ∈ snooping.snoop :=
  ⟨by decide, by decide, by decide, rfl, rfl, rfl, by decide, by decide⟩
theorem meets_HostLinesAndLink_full : (List.replicate 262144 3).length = 262144 ∧ (9 : Nat) ∉ List.replicate 262144 3 :=
  ⟨List.length_replicate, fun h => by cases List.eq_of_mem_replicate h⟩
theorem meets_HostLinesAndLink_link : ({ live with pins := { live.pins with pwrGood := true, hold := false } } : State).pins.pwrGood = true ∧
    ({ live with pins := { live.pins with pwrGood := true, hold := false } } : State).pins.hold = false := ⟨rfl, rfl⟩

/-- The chip with queue 4 of eight entries, bound to context 0. -/
def queuing (en state : Nat) (l : List SqEntry) : State :=
  let s := ({ live with queues := [(4, { entries := l })] } : State).wr (R.CXL_Q_CFG 4) F.CXL_Q_CFG.SIZE 8
  (s.wr (R.CXL_Q_CFG 4) F.CXL_Q_CFG.EN en).wr (R.CXL_Q_STATUS 4) F.CXL_Q_STATUS.STATE state
/-- A BELAY_INC entry for cell 2 of logical core 3, a NOP, and a START, each with a completion. -/
def entry (op : BitVec 8) : SqEntry := { opcode := op, flags := 1, cmdId := 0x1234, core := 3, cell := 2, amount := 6 }
theorem meets_QueueControl : (queuing 0 0 []).flag (R.CXL_Q_CFG 4) F.CXL_Q_CFG.EN = false ∧
    ((queuing 0 0 []).ctx ((queuing 0 0 []).queueCtx 4)).live = true ∧ (queuing 1 1 []).flag (R.CXL_Q_CFG 4) F.CXL_Q_CFG.EN = true ∧
    (queuing 1 1 []).rd (R.CXL_Q_STATUS 4) F.CXL_Q_STATUS.STATE = 1 ∧ (7 : BitVec 32).toNat < (queuing 1 1 []).rd (R.CXL_Q_CFG 4) F.CXL_Q_CFG.SIZE ∧
    (0 + (8 + 1) - ((queuing 1 1 []).queue 4).cqHead) % (8 + 1) ≤ (queuing 1 1 []).unconsumed 4 ∧
    (7 : BitVec 32).toNat ≠ (queuing 1 1 []).rd (R.CXL_Q_STATUS 4) F.CXL_Q_STATUS.SQ_HEAD := by decide
theorem meets_QueueEntries : (queuing 1 1 [entry 2]).flag (R.CXL_Q_CFG 4) F.CXL_Q_CFG.EN = true ∧ (queuing 1 1 [entry 2]).queueState 4 = 1 ∧
    (queuing 1 1 [entry 2]).unconsumed 4 < (queuing 1 1 [entry 2]).queueSize 4 ∧ ((queuing 1 1 [entry 2]).queue 4).entries = [entry 2] ∧
    ((queuing 1 1 [entry 2]).ctx ((queuing 1 1 [entry 2]).queueCtx 4)).live = true ∧
    ((queuing 1 1 [entry 2]).ctx ((queuing 1 1 [entry 2]).queueCtx 4)).fenced = false ∧ (entry 2).opcode = 2 ∧ (entry 2).amount ≠ 0 ∧
    (((queuing 1 1 [entry 2]).ctx ((queuing 1 1 [entry 2]).queueCtx 4)).cores.find? (fun k => k.logical == (entry 2).core.toNat)).isSome = true ∧
    (queuing 1 1 [entry 2]).slotOf 3 0 = some 0 ∧ (entry 2).cell.toNat < (queuing 1 1 [entry 2]).cellCount 3 0 ∧
    (queuing 1 1 [entry 2]).cellAt 3 0 (entry 2).cell.toNat < 1024 ∧ ((queuing 1 1 [entry 2]).core 3).jig = none ∧
    ((queuing 1 1 [entry 2]).cellValue 3 0 2).toNat + (entry 2).amount.toNat < 2 ^ 64 ∧
    ((queuing 1 1 [entry 3]).queue 4).entries = [entry 3] ∧ (entry 3).opcode = 3 := by decide
/-- The chip whose program has halted, with no queue, and with queue 4 alone bound to it. -/
def ended1 : State := chip { args with slot0 := { started := true, halted := true } } ctx0
def ended2 : State := ((ended1.wr (R.CXL_Q_CFG 4) F.CXL_Q_CFG.SIZE 8).wr (R.CXL_Q_CFG 4) F.CXL_Q_CFG.EN 1).wr (R.CXL_Q_STATUS 4) F.CXL_Q_STATUS.STATE 1
theorem meets_QueueEntries_halted : ended1.ctxHalted 0 = true ∧ (ended1.ctx 0).fenced = false ∧ (ended1.ctx 0).halted = false ∧
    (∀ k, k < 64 → ended1.boundTo k 0 = false) ∧ ended2.ctxHalted 0 = true ∧ ended2.boundTo 4 0 = true ∧
    (∀ k, k < 64 → k ≠ 4 → ended2.boundTo k 0 = false) := by decide
/-- The vector table with vector 7 due, masked or not, and last sent at 0 with a holdoff of 10 µs. -/
def vectors (m : Msix) : State := { live with msix := [(7, m)], time := 1000 }
theorem meets_MsixMessages : ((vectors { due := true, masked := false }).vector 7).due = true ∧
    (vectors { due := true, masked := false }).inHoldoff 7 = false ∧ ((vectors { due := true, masked := false }).vector 7).masked = false ∧
    (vectors { due := true }).inHoldoff 7 = false ∧ ((vectors { due := true }).vector 7).masked = true ∧
    (vectors { due := true, masked := false, holdoff := 100, last := some 999 }).inHoldoff 7 = true ∧
    (vectors { due := true, masked := false, holdoff := 1, last := some 0 }).inHoldoff 7 = false ∧
    ((vectors { due := true, masked := false, holdoff := 1, last := some 0 }).vector 7).last.isSome = true := by decide
theorem meets_EventHead : (62 : BitVec 6).toNat ≤ 62 ∧ (63 : BitVec 6).toNat = 63 ∧ live.evtLost = false ∧
    ({ live with evtLost := true } : State).evtLost = true ∧
    (({ live with evtLost := true } : State).rd R.MBX_EVT F.MBX_EVT.EVT_TAIL + 1) % 63 ≠ (62 : BitVec 6).toNat := by decide

/-- A chip with rope port 1 in service, as `x` says, at a time. -/
def port1 (x : Port) (t : Word) : State :=
  (({ live with ports := [(1, x)], time := t } : State).wr (R.LNK_STATUS 1) F.LNK_STATUS.STATE 3).wr (R.LNK_STATUS 1) F.LNK_STATUS.LANES 0xFF
/-- A DATA flit of sequence number 4095 of channel 0, and flits that wait for their acknowledgement. -/
def flit1 : List Byte := natLe (4095 + 0x1000) 2 ++ natLe 0 250 ++ natLe 3573941910 4
def two : List Flit := [{ vc := 0 }, { vc := 0 }]
theorem meets_LinkFlits : (port1 { rx := 4095 } 0).portUp 1 = true ∧ flitOk flit1 = true ∧ flitType flit1 = 1 ∧
    flitSeq flit1 = ((port1 { rx := 4095 } 0).port 1).rx ∧ flitOk (natLe 1 256) = false ∧ flitSeq flit1 ≠ ((port1 {} 0).port 1).rx := by
  refine ⟨?_, ?_, ?_, ?_, ?_, ?_⟩ <;> decide +kernel
theorem meets_LinkFlits_sender : (((port1 { flits := two, base := 1, replays := 7 } 0).takeAck 1 1).port 1).flits ≠ [] ∧
    (((port1 { flits := two, base := 1, replays := 7 } 0).takeAck 1 1).port 1).replays < 8 ∧
    (((port1 { flits := two, base := 1, replays := 8 } 0).takeAck 1 0).port 1).flits ≠ [] ∧
    8 ≤ (((port1 { flits := two, base := 1, replays := 8 } 0).takeAck 1 0).port 1).replays ∧
    ((port1 { flits := two } 100000).port 1).flits ≠ [] ∧
    100000 ≤ ((port1 { flits := two } 100000).time - ((port1 { flits := two } 100000).port 1).since).toNat ∧
    ((port1 { flits := two } 99999).time - ((port1 { flits := two } 99999).port 1).since).toNat < 100000 ∧
    ((port1 {} 0).port 1).flits = [] := by decide
theorem meets_LinkPorts : (port1 {} 0).portUp 1 = true ∧ (port1 {} 0).mayTrain 1 = true ∧ ((port1 {} 0).port 1).train = none ∧
    ((port1 { saveDue := true, settings := some 4 } 0).port 1).saveDue = true ∧
    ((port1 { saveDue := true, settings := some 4 } 0).port 1).settings.isSome = true ∧ (port1 {} 0).fuses.ridges ≠ 0 := by decide
/-- Port 2 and ridge port 24 in cold training since time 0, with no start in progress and with one. -/
def cold1 : Training := { start := 0, fast := false }
def training (t : Word) : State :=
  ({ live with ports := [(2, { train := some cold1 }), (24, { train := some cold1 })], time := t, pins := { aon := true, pwrGood := true, hold := false } } : State).wr
    (R.LNK_STATUS 2) F.LNK_STATUS.STATE 1
def lastPort : State := { training 182200000 with recov := { boot := some (true, 0, 0) } }
theorem meets_PortTrains : ((training 0).port 2).train = some cold1 ∧ ((training 0).port 24).train = some cold1 ∧ (training 0).mayTrain 2 = true ∧
    (training 0).mayTrain 24 = true ∧ (training 0).pins.hold = false ∧ (training 0).portState 2 = 1 ∧ (training 0).recov.boot = none ∧
    (training 0).flag R.JNR_CHIP F.JNR_CHIP.VALID = false ∧ (training 0).idOk 2 (2 * 64 + 5) = true ∧ (training 0).idOk 2 (3 * 64 + 5) = false := by decide
theorem meets_PortTrains_bound : cold1.bound ≤ ((training 182200000).time - cold1.start).toNat ∧
    ((training 182199999).time - cold1.start).toNat < cold1.bound ∧ lastPort.mayTrain 2 = true ∧ lastPort.recov.boot = some (true, 0, 0) ∧
    lastPort.cdc = [] ∧ (∀ v, v < 32 → v ≠ 2 → lastPort.portState v ≠ 1) ∧ lastPort.portState 2 = 1 ∧ (lastPort.port 2).train = some cold1 := by decide
/-- A chip with ridge ports 24 (+X) and 28 (−X) in service, and a message with one and with two hops left. -/
def ridged : State := ((live.wr (R.LNK_STATUS 24) F.LNK_STATUS.STATE 3).wr (R.LNK_STATUS 28) F.LNK_STATUS.STATE 3)
def hops (n : BitVec 4) : RouteWord := { hopsX := n, negX := false, hopsY := 0, negY := false, hopsZ := 0, negZ := false, replay := false }
/-- A read request for this chip, as its first 32 bytes. -/
def message1 : BitVec 256 := hdrWord 1 (req 0 0)
theorem meets_LinkForwarding : ridged.portUp 28 = true ∧ firstAxis (hopsLeft (hops 1)) = some 0 ∧
    firstAxis (hopsLeft (oneHopLess (hops 1) 0)) = none ∧ (hdrOf message1).dst.toNat = ridged.ownChip ∧ firstAxis (hopsLeft (hops 2)) = some 0 ∧
    firstAxis (hopsLeft (oneHopLess (hops 2) 0)) = some 0 ∧ classOf message1 = 1 ∧
    pickPort (pickAddr message1) (hdrOf message1).src.toNat (hdrOf message1).dst.toNat
      (ridged.ridgesOf (dirOf 0 ((hopsLeft (oneHopLess (hops 2) 0)).getD 0 0))) = some 24 := by
  refine ⟨?_, ?_, ?_, ?_, ?_, ?_, ?_, ?_⟩ <;> decide +kernel
/-- A request that left through port 5, which has gone down. -/
def lostReq : OutReq := { asked with cls := 2, port := some 5, data := [1, 2, 3, 4, 5, 6, 7, 8] }
theorem meets_LinkForwarding_replay : (asking lostReq).out.find? (asking lostReq).stranded = some lostReq ∧ (asking lostReq).mayReplay lostReq = true ∧
    (asking lostReq).retry = [] ∧ lostReq.poison = false ∧
    (asking lostReq).path (some lostReq.ctx) lostReq.addr (asking lostReq).ownChip lostReq.chip.toNat true = .port 1 none := by
  refine ⟨?_, ?_, rfl, rfl, ?_⟩ <;> decide
/-- A notice of a pause, and chips that have not heard it, that have, and that hold its entry. -/
def pause1 : Notice := { src := 9, seq := 3, site := 2, bound := 50, box := 0 }
def heard (e : Bool) : State := { port1 {} 0 with seen := [(9, 3, e)] }
theorem meets_PauseTable : (port1 {} 0).portUp 1 = true ∧ (pause1.src, pause1.seq, false) ∉ (port1 {} 0).seen ∧
    (∀ e ∈ (port1 {} 0).pauses, e.src ≠ pause1.src ∨ e.site ≠ pause1.site) ∧ (port1 {} 0).pauses.length < 1024 ∧
    (pause1.src, pause1.seq, false) ∈ (heard false).seen ∧ (pause1.src, pause1.seq, true) ∉ (heard false).seen ∧
    (pause1.src, pause1.seq, true) ∈ (heard true).seen := by decide
/-- A witness report for this chip as sink, and chips with and without a window of its key. -/
def key1 : WitKey := { suspect := 7, unit := 0x11, fclass := 4 }
def report : Witness := { dst := 0, src := 2, key := key1, count := 3, firstTs := 40 }
def window (own : Bool) : WitWin := { key := key1, src := 2, firstTs := 1, count := 0xFFFFFE, opened := 0, own := own }
theorem meets_WitnessReports : report.dst.toNat = live.ownChip ∧ (∀ w ∈ ({ live with wits := [window true] } : State).wits, w.own = true ∨ w.key ≠ report.key) ∧
    window false ∈ ({ live with wits := [window false] } : State).wits ∧ (window false).own = false ∧ (window false).key = report.key ∧
    ({ live with wits := [window false], time := 1000000 } : State).wits.find? (fun y => y.key == key1 && decide (1000000 ≤ ((1000000 : Word) - y.opened).toNat)) =
      some (window false) := by decide

/-- The clamp with a die's rule in force, and with a set-point request open. -/
def clamped (x : DieClamp) : State := { live with clamp := { north := x } }
def vid (late : Bool) (t : Word) : State := { live with clamp := { vidSeq := 3, vidOpen := some 0, vidLate := late }, time := t }
theorem meets_ClampRules : (∀ t, live.clamp.powStep = some t → 10000 ≤ (live.time - t).toNat) ∧ (live.dieClamp 0).alarm = false ∧
    ((clamped { alarm := true }).dieClamp 0).alarm = true ∧ (live.dieClamp 0).hot = false ∧ live.flag (R.DIE_STATUS 0) F.DIE_STATUS.CORE_PLL_LOCK = true :=
  ⟨fun t h => absurd (show (none : Option Word) = some t from h) (fun e => by cases e), by decide, by decide, by decide, by decide⟩
theorem meets_ClampHandshake : (4 : BitVec 4) ≠ (vid false 0).clamp.vidSeq ∧ (vid false 100000).clamp.vidOpen = some 0 ∧
    (vid false 100000).clamp.vidLate = false ∧ 100000 ≤ ((vid false 100000).time - 0).toNat ∧ (vid true 1000000).clamp.vidLate = true ∧
    1000000 ≤ ((vid true 1000000).time - 0).toNat := by decide

/-- A chip whose first tile, or second stack, is in a state. -/
def tiled (m : TileMeta) : State := { live with hbm := { tiles := [(0, m)] } }
theorem meets_PlinthRequests : live.place (0 : BitVec 40).toNat = some (0, 0, 0) ∧ live.stopped (live.siteOf 0) = false ∧ live.tileHeld 0 = false ∧
    (0 : BitVec 40).toNat % 2048 = 0 ∧ live.heldLines 0 2048 = [] ∧ live.pagePending 0 = false ∧ live.wcbEntry 0 = none ∧
    (live.plinth (live.siteOf 0)).wcb.length < 1024 ∧ (live.wr (R.PLN_STATUS 0) F.PLN_STATUS.THERM_STATE 3).stopped 0 = true ∧
    (live.hbm.info 0).st = .unwritten ∧ live.served 0 = some (0, 0) ∧ live.rd (R.PLN_STATUS 0) F.PLN_STATUS.REPAIR_STATE = 0 ∧
    ((tiled { st := .poison }).hbm.info 0).st = .poison ∧ (tiled { st := .poison }).badSectors 0 = [] := by decide
theorem meets_PlinthRequests_values : live.tileSound 0 ∧ (List.replicate 2048 (7 : Byte)).length = 2048 ∧
    TState.sealed ≠ .unwritten ∧ 0 < ([1] : List Byte).length ∧ ([1] : List Byte).length < 2048 :=
  ⟨trivial, List.length_replicate, by decide, by decide, by decide⟩
/-- The same with the tile sealed over its bytes. -/
theorem meets_PlinthRequests_sealed : (tiled (sealedMeta (Tiled.data {} 0))).tileSound 0 := by
  have m : (tiled (sealedMeta (Tiled.data {} 0))).hbm.info 0 = sealedMeta (Tiled.data {} 0) := lookD_one 0 _ _
  unfold State.tileSound
  rw [m]
  exact ⟨rfl, rfl⟩
/-- A write-combining entry of tile 0, and a plinth that holds it, before and during its merge. -/
def wcb1 : WcbEntry := { tile := 0, bytes := [(3, 9)], poison := false, born := 0, touched := 0 }
def plinth0 (k : Plinth) (t : Word) : State := { live with plinths := [(0, k)], time := t }
theorem meets_WriteCombining : (plinth0 { wcb := [wcb1] } 1600).siteOf (0 : BitVec 29).toNat = (0 : SiteId).val ∧
    (plinth0 { wcb := [wcb1] } 1600).tileBlocked 0 = false ∧
    ((plinth0 { wcb := [wcb1] } 1600).plinth 0).wcb.find? (fun x => x.tile == 0) = some wcb1 ∧
    0 ∉ ((plinth0 { wcb := [wcb1] } 1600).plinth 0).merging ∧
    1600 ≤ ((plinth0 { wcb := [wcb1] } 1600).time - wcb1.born).toNat := by
  refine ⟨?_, ?_, ?_, ?_, ?_⟩ <;> decide
/-- A speculative request that waits since time 0. -/
def spec1 : SpecWait := { core := some 3, addr := 0, n := 8, since := 0 }
theorem meets_WriteCombining_more : (plinth0 { wcb := [wcb1], merging := [0] } 1600).wcbEntry 0 = some wcb1 ∧
    wcb1.poison = false ∧
    ((plinth0 { specs := [spec1] } 800).plinth 0).specs = [spec1] ∧
    800 ≤ ((plinth0 { specs := [spec1] } 800).time - spec1.since).toNat := by
  refine ⟨?_, ?_, ?_, ?_⟩ <;> decide
theorem live_quiet (s : State) (h : s.cores = live.cores) (r : s.retry = []) (b : s.biWait = []) (x : Ctx) (k : s.ctxs = [(0, x)])
    (t : x.scaTodo = []) : s.quiet := by
  refine ⟨r, b, fun p => ?_, fun c => ?_⟩
  · have e : s.core p = SMap.lookD [(3, { args with fetched := [0] })] p {} := by
      show SMap.lookD s.cores p {} = _
      rw [h]
      rfl
    refine ⟨?_, fun q => ?_⟩
    · rw [e]
      unfold SMap.lookD SMap.look
      split <;> rfl
    · show (SMap.lookD (s.core p).dma q {}).active = none
      rw [e]
      exact idle_dma _ rfl p q
  · show (SMap.lookD s.ctxs c {}).scaTodo = []
    rw [k]
    unfold SMap.lookD SMap.look
    split
    · exact t
    · rfl
theorem plinth0_quiet (k : Plinth) (t : Word) : (plinth0 k t).quiet := by
  unfold plinth0
  exact live_quiet _ (by dsimp only) (by dsimp only; rfl) (by dsimp only; rfl) ctx0 (by dsimp only; rfl) rfl
theorem meets_WriteCombining_merge : (plinth0 { wcb := [wcb1], merging := [0] } 1600).tileSound 0 ∧
    (plinth0 { wcb := [wcb1], merging := [0] } 1600).quiet := ⟨trivial, plinth0_quiet _ _⟩

theorem meets_Retraining : live.stackPresent 0 = true ∧
    60000000000 ≤ ((plinth0 {} 60000000000).time - (match (((plinth0 {} 60000000000).plinth 0).chan 5).trained with | some (t, _) => t | none => ((plinth0 {} 60000000000).plinth 0).trained)).toNat ∧
    ((plinth0 { queue := [31] } 0).plinth 0).queue = [31] ∧
    ((plinth0 { queue := [31] } 0).plinth 0).hold = none ∧
    (plinth0 { queue := [31] } 0).stopped 0 = false ∧
    (plinth0 { queue := [31] } 0).hutRuns 0 = true := by
  refine ⟨?_, ?_, ?_, ?_, ?_, ?_⟩ <;> decide
theorem meets_Retraining_more : ((plinth0 { hold := some (31, 0) } 3899).plinth 0).hold = some (31, 0) ∧
    ((plinth0 { hold := some (31, 0) } 3899).plinth 0).parked = [] ∧
    ((plinth0 { hold := some (31, 0) } 3899).time - 0).toNat < 3900 ∧
    3900 ≤ ((plinth0 { hold := some (31, 0) } 3900).time - 0).toNat ∧
    (((plinth0 { hold := some (31, 0), chans := [(31, { fails := 1 })] } 3900).plinth 0).chan 31).fails = 1 ∧
    (plinth0 {} 0).rd (R.PLN_STATUS 0) F.PLN_STATUS.REPAIR_STATE = 0 := by
  refine ⟨?_, ?_, ?_, ?_, ?_, ?_⟩ <;> decide
theorem meets_Retraining_quiet : (plinth0 { hold := some (31, 0) } 3899).quiet ∧ (plinth0 { hold := some (31, 0) } 3900).quiet :=
  ⟨plinth0_quiet _ _, plinth0_quiet _ _⟩
/-- A chip whose stack 0 migrates a channel, at a watermark. -/
def migrating (n : Nat) : State := (live.wr (R.PLN_STATUS 0) F.PLN_STATUS.REPAIR_STATE 1).wr (R.PLN_REPAIR 0) F.PLN_REPAIR.WATERMARK n
theorem meets_ChannelRepair : live.stackPresent 0 = true ∧
    live.rd (R.PLN_STATUS 0) F.PLN_STATUS.REPAIR_STATE = 0 ∧
    (migrating 12189694).rd (R.PLN_STATUS 0) F.PLN_STATUS.REPAIR_STATE = 1 ∧
    ((migrating 12189694).plinth 0).hold = none ∧ (migrating 12189694).granuleUe 0 0 12189694 = [] ∧
    (migrating 12189695).granuleUe 0 0 12189695 = [] ∧ ({ migrating 0 with ue := [0] } : State).granuleUe 0 0 0 ≠ [] := by
  refine ⟨?_, ?_, ?_, ?_, ?_, ?_, ?_⟩ <;> decide +kernel
theorem meets_ChannelRepair_more : (migrating 12189694).rd (R.PLN_STATUS 0) F.PLN_STATUS.THERM_STATE < 2 ∧
    (migrating 12189694).rd (R.PLN_REPAIR 0) F.PLN_REPAIR.WATERMARK < 12189695 ∧
    (migrating 12189695).rd (R.PLN_REPAIR 0) F.PLN_REPAIR.WATERMARK = 12189695 ∧
    (migrating 0).hutRuns 0 = true := by
  refine ⟨?_, ?_, ?_, ?_⟩ <;> decide
/-- A chip with stack 0 in a thermal state. -/
def heated (k : Nat) (n : List (BitVec 16 × BitVec 40)) : State :=
  ({ live with plinths := [(0, { stoppedAt := some 0, notices := n })] } : State).wr (R.PLN_STATUS 0) F.PLN_STATUS.THERM_STATE k
theorem meets_StackThermal : (heated 3 []).stackPresent 0 = true ∧ (heated 3 []).rd (R.PLN_STATUS 0) F.PLN_STATUS.THERM_STATE = 3 ∧
    ((heated 3 []).plinth 0).parked = [] ∧ ((heated 3 []).plinth 0).notices = [] ∧ (heated 3 []).stopped 0 = true ∧
    ((heated 3 []).plinth 0).stoppedAt ≠ none ∧ (heated 0 []).rd (R.PLN_STATUS 0) F.PLN_STATUS.THERM_STATE = 0 ∧
    ({ heated 0 [] with pins := { aon := true } } : State).pins.aon = true := by
  refine ⟨?_, ?_, ?_, ?_, ?_, ?_, ?_, rfl⟩ <;> decide
theorem meets_StackThermal_quiet : (heated 3 []).quiet := by
  have h : ∀ (s : State) (a : Nat) (w : Word), s.quiet → (s.setWord a w).quiet := fun _ _ _ h => h
  exact h _ _ _ (live_quiet _ (by dsimp only) (by dsimp only; rfl) (by dsimp only; rfl) ctx0 (by dsimp only; rfl) rfl)

/-- A READY chip with the default package in force that offers core 5, gated, a run; and one whose core 5 runs a jig. -/
def jigged : State :=
  let s : State := { chip { args with wait := some { cell := 0, target := 9, deadline := 90000, since := 0, coll := false, idleAt := some 0 } } ctx0 with
    jig := { inject := [0, 1, 2] }, time := 10000 }
  let s := (s.wr R.MGT_BOOT F.MGT_BOOT.READY 1).wr R.JIG_CTRL F.JIG_CTRL.EN 1
  let s := (s.wr R.CLP_STATUS F.CLP_STATUS.CLK_N_MHZ 1000).wr R.CLP_STATUS F.CLP_STATUS.CLK_S_MHZ 1000
  let s := (s.wr (R.CORE_STATUS 3) F.CORE_STATUS.STATE csWaitIdle).wr (R.JIG_CORE_STATUS 3) F.JIG_CORE_STATUS.TARGETED 1
  s.wr (R.JIG_CORE_STATUS 5) F.JIG_CORE_STATUS.TARGETED 1
def run1 (inject : Nat) : JigRun :=
  { start := 0, pattern := 0, variant := 3, inject := inject, gated := true, unfence := false, began := some 100, halted := true,
    vecs := inject / 2 }
/-- A jig store with one pattern, whose output is eight bytes at the start of the workspace; variant 3 expects the CRC-64 of zeros. -/
def store1 : List Byte := natLe 0 0x38 ++ natLe 64 4 ++ natLe 0 4 ++ natLe 0 12 ++ natLe 8 4 ++ natLe 96 4 ++ natLe 2 1 ++ natLe 0 11 ++
  natLe 1 8 ++ natLe 2 8 ++ natLe 3 8 ++ natLe 0 8
def tested (r : JigRun) (t : Word) : State := { jigged.setCore 5 { jig := some r } with time := t, jig := { store := store1, inject := [2] } }
def woken : State := { (tested { run1 2 with began := none, halted := false } 9).wr (R.CORE_STATUS 5) F.CORE_STATUS.STATE csWaking with clamp := { waking := [5] } }
theorem meets_JigRuns : jigged.jigMayStart = true ∧ jigged.jigChosen 5 = true ∧ jigged.jigChosen 3 = true ∧ jigged.isFenced 5 = false ∧
    jigged.isFenced 3 = false ∧ (15 : BitVec 4).toNat < jigged.jigVariants ∧ jigged.coreState 5 = csGated ∧ jigged.coreState 3 = csWaitIdle ∧
    ((tested (run1 2) 40100).core 5).jig = some (run1 2) ∧ (tested (run1 2) 40100).drained 5 jigCtx = true ∧
    (tested (run1 2) 40100).runPat (run1 2) = { img := 0, bytes := 0, out := 0, outN := 8, exp := 96, inject := 2 } ∧
    crc64 0 (Memory.read ((tested (run1 2) 40100).core 5).spd.bytes (benchWork + 0) 8) =
      leNat ((tested (run1 2) 40100).pkgBytes false (96 + 8 * 3) 8) ∧
    40000 < ((tested (run1 2) 40101).time - 100).toNat ∧ woken.clamp.waking.contains 5 = true ∧ woken.coreState 5 = csWaking ∧
    (∀ kc ∈ woken.ctxs, kc.2.phase ≠ .loading) ∧ (woken.core 5).jig = some { run1 2 with began := none, halted := false } := by
  refine ⟨?_, ?_, ?_, ?_, ?_, ?_, ?_, ?_, ?_, ?_, ?_, ?_, ?_, ?_, ?_, ?_, ?_⟩ <;> decide
theorem meets_JigRuns_unwritten (i : Nat) : jigged.spdState 3 i = .unwritten ∧ woken.spdState 5 i = .unwritten ∧
    ((tested (run1 2) 40100).core 5).spd = {} := ⟨rfl, rfl, rfl⟩
/-- Core 5 in its 24 h window, at a time; and owed copies to flash. -/
def suspect5 : State := { live.wr (R.JIG_CORE_STATUS 5) F.JIG_CORE_STATUS.HEALTH 1 with time := 8640000000001, jig := { flashDue := true, fenceDue := true } }
theorem meets_JigUpkeep : suspect5.corePresent 5 = true ∧ suspect5.isFenced 5 = false ∧ suspect5.lastRun 5 + suspect5.jigPeriod < suspect5.time.toNat ∧
    suspect5.rd (R.JIG_CORE_STATUS 5) F.JIG_CORE_STATUS.HEALTH = 1 ∧ suspect5.inWindow 5 = false ∧
    suspect5.rd (R.JIG_CORE_STATUS 5) F.JIG_CORE_STATUS.RESIDUE_24H + suspect5.rd (R.JIG_CORE_STATUS 5) F.JIG_CORE_STATUS.STORE_24H ≤ 1 ∧
    suspect5.jig.flashDue = true ∧ suspect5.jig.fenceDue = true := by
  refine ⟨?_, ?_, ?_, ?_, ?_, ?_, ?_, ?_⟩ <;> decide


/-- A request of a type with a payload in channel 0, and the chip ready. -/
def mail (s : State) (typ : Nat) (pl : List Byte) : State :=
  { (s.wr R.MGT_BOOT F.MGT_BOOT.READY 1).wr (R.MBX_CTRL 0) F.MBX_CTRL.BUSY 1 with
    mbx := Memory.write [] 0x100 (natLe 1 2 ++ natLe 0 2 ++ natLe typ 2 ++ natLe 0 2 ++ natLe 9 4 ++ natLe pl.length 4 ++ natLe 0 16 ++ pl) }

/-- Core 5 is fenced and its number waits for a spare, on chips with the logical cores of `l`. -/
def vacant (l : SMap CoreId) : State :=
  let s : State := { live with jig := { awaiting := [(5, 5, 0)] }, logical := l }
  (s.wr (R.CORE_STATUS 5) F.CORE_STATUS.STATE csFenced).wr (R.JIG_FENCED 0) F.JIG_FENCED.MASK 0x20
def allCores : SMap CoreId := (upto 52).map (fun i => (i, Fin.ofNat 104 i))
/-- Core 4, a free spare, has just passed a jig. -/
def passed : State := { vacant [(5, 5)] with jig := { awaiting := [(5, 5, 0)], results := [(4, 1)] } }
theorem meets_SparesAndPackages : passed.nextAwaiting (5 / 52) = some (5, 5, 0) ∧ passed.coreState 5 ≠ csFencing ∧
    (passed.freeSpares 0).find? passed.qualifies = some 4 ∧ (vacant [(5, 5)]).freeSpares 0 ≠ [] ∧
    (vacant [(5, 5)]).nextAwaiting (5 / 52) = some (5, 5, 0) ∧ (vacant allCores).nextAwaiting (5 / 52) = some (5, 5, 0) ∧
    ((vacant [(5, 5)]).freeSpares 0).find? (vacant [(5, 5)]).qualifies = none ∧ (vacant allCores).freeSpares 0 = [] := by
  refine ⟨?_, ?_, ?_, ?_, ?_, ?_, ?_, ?_⟩ <;> decide +kernel
/-- A program image for one core: one instruction, CTL.HALT, at 0x1000, with its CHECK. -/
def image1 (core : Nat) (check : Nat) : List Byte :=
  natLe 0x58495054 4 ++ natLe 1 2 ++ natLe 0 2 ++ natLe 104 4 ++ natLe check 4 ++ natLe 1 2 ++ natLe 0 2 ++ natLe 1 2 ++ natLe 0 2 ++
  natLe 64 4 ++ natLe 80 4 ++ natLe 80 4 ++ natLe 0 28 ++ natLe 96 4 ++ natLe 8 4 ++ natLe 0x1000 8 ++
  natLe core 2 ++ natLe 0 2 ++ natLe 0 4 ++ natLe 77 8 ++ natLe 0x10A0000000000000 8
/-- A jig package of 7,296 bytes with one pattern, that image, whose store is otherwise empty. -/
def package1 (flags mask : Nat) : List Byte :=
  natLe 0x5047494A 4 ++ natLe 1 2 ++ natLe flags 2 ++ natLe 1 4 ++ natLe 7296 4 ++ natLe 16 2 ++ natLe 1 2 ++ natLe 1 2 ++ natLe 0 2 ++ natLe mask 16 ++
  natLe 0 16 ++ natLe 64 4 ++ natLe 0 4 ++ natLe 96 4 ++ natLe 104 4 ++ natLe 0 4 ++ natLe 64 4 ++ natLe 200 4 ++ natLe 2 4 ++ natLe 0 8 ++
  image1 0 2066833516
def packed (k : List Byte) : State :=
  let s : State := mail live 0x220 (natLe 0 8 ++ natLe 7296 4)
  { s with fuses := { s.fuses with jigKey := BitVec.ofNat 512 (leNat (sha3_512 (slice k 0x40 2592))) } }
theorem packed_asks (k : List Byte) : (packed k).asks 0 0x220 12 := by
  have g (s : State) (f : Fuses) (h : s.asks 0 0x220 12) : ({ s with fuses := f } : State).asks 0 0x220 12 := h
  exact g _ _ (by refine ⟨?_, ?_, ?_, ?_, ?_, ?_⟩ <;> decide +kernel)
/-- A package that passes the checks other than those of key and signature passes, where its signature verifies, on the chip of its key. -/
theorem passes (s : State) (k : List Byte) (req : Nat) (m : ¬ (leAt k 0 4 ≠ 0x5047494A ∨ leAt k 4 2 ≠ 1)) (b : jigBounds k req = true)
    (x : keyFits k s.fuses.jigKey = true) (v : sigFits k = true)
    (e : ¬ (if bits (leAt k 6 2) 0 1 == 1 then leAt k 8 4 ≤ s.rd R.JIG_PKG F.JIG_PKG.UNF_EPOCH else leAt k 8 4 < s.rd R.JIG_PKG F.JIG_PKG.EPOCH))
    (t : ¬ leAt k 0x10 2 ≠ s.rd R.CHIP_ID F.CHIP_ID.STEPPING)
    (i : ¬ ((bits (leAt k 6 2) 0 1 == 1) = true ∧
      (leAt k 0x28 16 ≠ (s.word (R.CHIP_IDENT 0)).toNat + (s.word (R.CHIP_IDENT 0 + 8)).toNat * 2 ^ 64 ∨ s.identBad 0)))
    (d : jigDecode k = true) : s.pkgFails k req = 0 := by
  unfold State.pkgFails
  rw [if_neg m, if_neg (by rw [b]; decide), if_neg (by rw [x]; decide), if_neg (by rw [v]; decide), if_neg e, if_neg t, if_neg i,
    if_neg (by rw [d]; decide)]
theorem meets_SparesAndPackages_package (flags mask : Nat) (f : (flags = 0 ∧ mask = 0) ∨ (flags = 1 ∧ mask = 32))
    (v : sigFits (slice (package1 flags mask) 0 7296) = true) : let k := slice (package1 flags mask) 0 7296
    (packed k).mlogFull = false ∧ (packed k).payload 0 8 4 = 7296 ∧ (packed k).pkgFails k 7296 = 0 ∧ leAt k 6 2 % 2 = flags := by
  rcases f with ⟨rfl, rfl⟩ | ⟨rfl, rfl⟩
  all_goals
    refine ⟨?_, ?_, passes _ _ _ ?_ ?_ (Laws.keyFits_own _) v ?_ ?_ ?_ ?_, ?_⟩
    all_goals decide +kernel
theorem meets_SparesAndPackages_bad : (packed []).pkgFails (slice [] 0 7296) 7296 ≠ 0 ∧ (packed []).payload 0 8 4 = 7296 ∧
    ((leAt (slice (package1 1 32) 0 7296) 0x18 16).testBit (5 : CoreId) = true) ∧ passed.isFenced (5 : CoreId) = true := by
  refine ⟨?_, ?_, ?_, ?_⟩ <;> decide +kernel
/-- Registers whose fields are all live RW: JIG_CTRL. An offset with no register: 24. -/
theorem meets_RegisterWrites : R.JIG_CTRL % 8 = 0 ∧ (regRow R.JIG_CTRL).isSome = true ∧
    (regRow R.JIG_CTRL).all (fun r => r.static == 0 && r.boundary == 0 && r.wo == 0 && r.w1c == 0 && r.rw != 0) = true ∧
    0x7D000 ≤ R.JIG_CTRL ∧ R.JIG_CTRL < 0x0B000000 ∧ R.JIG_CTRL < R.ERR_LOG_ACK 0 ∧ R.JIG_CTRL < 0x04000000 ∧ R.JIG_CTRL ≠ R.MGT_CDC ∧
    R.JIG_CTRL ≠ R.MBX_EVT ∧ R.JIG_CTRL ≠ R.CLP_CTRL ∧ live.absentWindow R.JIG_CTRL = false ∧ live.offStopped R.JIG_CTRL = false ∧
    live.inReset = false := by decide +kernel
theorem meets_RegisterWrites_bad : (2 : BitVec 4).toNat ≠ 4 ∧ (2 : BitVec 4).toNat ≠ 8 ∧ regRow 24 = none ∧
    (0 : MbxId).val < 7 ∧ live.flag (R.MBX_CTRL 0) F.MBX_CTRL.BUSY = false := by decide +kernel

/-- Die 1 is stopped, and a timed write of a register of its core 60 waits 10 µs. -/
def crossing : State :=
  { live.wr R.MGT_CDC F.MGT_CDC.MODE 1 with
    time := 5000, cdc := [{ off := R.CORE_STATUS 60, value := 3, width := 8, timed := true, since := 4000 }] }
/-- Aperture 2 selects the data of stack 0, whose sector 0 holds two bytes and may have an uncorrectable fault. -/
def aperture (ue : List Nat) : State :=
  { (live.wr (R.CHIP_RB_SEL 2) F.CHIP_RB_SEL.UNIT 0x6000).wr (R.DIE_STATUS 0) F.DIE_STATUS.NOC_PLL_LOCK 1 with
    hbm := { bytes := [(8, 1), (9, 2)] }, ue := ue }
/-- Aperture 2 selects core 60 of the stopped die, and a read through it waits since 4000. -/
def readBack : State :=
  { live.wr (R.CHIP_RB_SEL 2) F.CHIP_RB_SEL.UNIT 0x103C with
    time := 5000, cdc := [{ off := 0x0E000000, value := 0, width := 8, timed := true, since := 4000, read := true }] }
theorem meets_CrossingsAndLogs_read : apertureOf (0x0E000000 : BitVec 28).toNat = some 2 ∧ readBack.rbStopped 2 = true ∧
    (readBack.cdc.find? (fun x => x.off == 0x0E000000 && x.read == true && x.timed &&
      decide (1000 ≤ (readBack.time - x.since).toNat))).isSome = true ∧ crossing.recov.cairn = none ∧
    (BitVec.ofNat 28 (R.CORE_STATUS 60)).toNat < 0x0C000000 := by
  refine ⟨?_, ?_, ?_, ?_, ?_⟩ <;> decide +kernel
theorem meets_CrossingsAndLogs : crossing.offStopped ((crossing.unalias (R.CORE_STATUS 60)).getD (R.CORE_STATUS 60)) = true ∧
    crossing.flag R.MGT_CDC F.MGT_CDC.MODE = true ∧
    (crossing.cdc.find? (fun x => x.off == R.CORE_STATUS 60 && x.read == false && x.timed && decide (1000 ≤ (crossing.time - x.since).toNat))).isSome = true ∧
    (8 : BitVec 24).toNat % 8 = 0 ∧ (aperture []).rbStopped 2 = false ∧ (aperture [0]).rbStopped 2 = false ∧
    (aperture []).rbRead 0x6000 0 8 = .data (([1, 2, 0, 0, 0, 0, 0, 0] : List Byte).map some) false ∧
    (aperture [0]).rbRead 0x6000 0 8 = .data (([1, 2, 0, 0, 0, 0, 0, 0] : List Byte).map some) true ∧
    live.rd (R.ERR_LOG_ACK 17) F.ERR_LOG_ACK.SEQ ≠ (6 : BitVec 32).toNat := by
  refine ⟨?_, ?_, ?_, ?_, ?_, ?_, ?_, ?_, ?_⟩ <;> decide +kernel

/-- Requests: GET_VERSION; a LOAD of one core, which is awake and free; UNLOAD of context 0 that has not started, or has halted. -/
def version1 : State := mail live 1 []
theorem version1_asks : version1.asks 0 1 0 := by refine ⟨?_, ?_, ?_, ?_, ?_, ?_⟩ <;> decide +kernel
def idle5 : State := ({ live with logical := [(3, 3), (5, 5)] } : State).wr (R.CORE_STATUS 5) F.CORE_STATUS.STATE csIdle
def loadPl : List Byte :=
  natLe 0 8 ++ natLe 104 4 ++ natLe 0 1 ++ natLe 1 1 ++ natLe 0 2 ++ natLe 0 8 ++ natLe 0x200000 8 ++ natLe 0 2 ++ natLe 4 1 ++ natLe 0 1 ++
  natLe 0 4 ++ natLe 0 8 ++ natLe 5 2 ++ natLe 0 1 ++ natLe 0 1 ++ natLe 1 2 ++ natLe 8 2
def loading1 : State := mail idle5 0x100 loadPl
theorem loading1_asks : loading1.asks 0 0x100 (0x30 + 8 * (loading1.loadReq 0).cores.length) := by
  refine ⟨?_, ?_, ?_, ?_, ?_, ?_⟩ <;> decide +kernel
theorem meets_MailboxRequests_load : loading1.loadWaits (loading1.loadReq 0) = false ∧ loading1.badLoad 0 (loading1.loadReq 0) = false ∧
    loading1.refusal (loading1.loadReq 0) (slice [] 0 104) [] = some (0x101, 1) ∧
    loading1.refusal (loading1.loadReq 0) (slice (image1 5 597247288) 0 104) [] = none ∧ loading1.freeCtx = some 1 ∧
    (∀ k ∈ (loading1.loadReq 0).cores, k.core = 5) ∧ loading1.physOf 5 = some 5 ∧ csIdle ≤ loading1.coreState 5 ∧
    (loading1.core 5).jig = none := by
  refine ⟨?_, ?_, ?_, ?_, ?_, ?_, ?_, ?_, ?_⟩ <;> decide +kernel
def unloading (ph : CtxPhase) : State := mail { ended1 with ctxs := [(0, { ctx0 with phase := ph })] } 0x101 [0]
theorem unloading_asks : (unloading .loaded).asks 0 0x101 1 ∧ (unloading .running).asks 0 0x101 1 := by
  refine ⟨⟨?_, ?_, ?_, ?_, ?_, ?_⟩, ⟨?_, ?_, ?_, ?_, ?_, ?_⟩⟩ <;> decide +kernel
theorem meets_MailboxRequests_unload : (unloading .loaded).payload 0 0 1 = 0 ∧ ((unloading .loaded).ctx 0).live = true ∧
    ((unloading .loaded).ctx 0).fenced = false ∧ ((unloading .loaded).ctx 0).phase = .loaded ∧ (unloading .running).ctxHalted 0 = true := by
  decide +kernel

/-- Core 5 wakes; queue 4 holds a START of context 0, loaded from a 16-byte image. -/
def waking5 : State := { idle5.wr (R.CORE_STATUS 5) F.CORE_STATUS.STATE csWaking with clamp := { waking := [5] } }
def image2 : List Byte := natLe 0 12 ++ natLe 1114675946 4
def startable : State :=
  let s : State := { live with
    ctxs := [(0, { ctx0 with phase := .loaded, check := 1114675946, imageBytes := 16 })]
    queues := [(4, { entries := [entry 1] })] }
  let s := ((s.wr (R.CXL_Q_CFG 4) F.CXL_Q_CFG.SIZE 8).wr (R.CXL_Q_CFG 4) F.CXL_Q_CFG.EN 1).wr (R.CXL_Q_STATUS 4) F.CXL_Q_STATUS.STATE 1
  s.wr (R.CORE_STATUS 3) F.CORE_STATUS.STATE csIdle
theorem meets_ContextCommands : waking5.clamp.waking.contains 5 = true ∧ waking5.coreState 5 = csWaking ∧ (waking5.core 5).jig = none ∧ (∀ kc ∈ waking5.ctxs, kc.2.phase ≠ .loading) ∧
    idle5.coreState 5 = csIdle ∧ idle5.residents 5 = [] ∧ (idle5.core 5).jig = none ∧ idle5.entriesOn 5 = [] := by
  refine ⟨?_, ?_, ?_, ?_, ?_, ?_, ?_, ?_⟩ <;> decide +kernel
theorem meets_ContextCommands_start : startable.nextEntry 4 = some (entry 1) ∧ (entry 1).opcode = 1 ∧ startable.queueFenced 4 = false ∧
    (startable.ctx (startable.queueCtx 4)).phase = .loaded ∧ startable.rd (R.BIV_STATUS 0) F.BIV_STATUS.STATE ≠ 3 ∧
    imageCheck (slice image2 0 16) = (startable.ctx 0).check.toNat ∧ leAt (slice image2 0 16) 12 4 = (startable.ctx 0).check.toNat ∧
    (startable.ctx 0).cores = ctx0.cores ∧ startable.coreState 3 = csIdle ∧ dataTable (slice image2 0 16) = [] ∧
    startable.rd (R.SCA_TABLE 0) F.SCA_TABLE.SLOTS = 0 := by
  refine ⟨?_, ?_, ?_, ?_, ?_, ?_, ?_, ?_, ?_, ?_, ?_⟩ <;> decide +kernel
/-- A request for a new partition mode, with nothing loaded. -/
def pmode (m : Nat) : State := mail { live with ctxs := [] } 0x110 (natLe m 8)
theorem pmode_asks : (pmode 2).asks 0 0x110 8 := by refine ⟨?_, ?_, ?_, ?_, ?_, ?_⟩ <;> decide +kernel
theorem meets_ContextCommands_mode : (pmode 2).recov.runs = [] ∧ (pmode 2).payload 0 0 1 = 2 ∧ (pmode 4).payload 0 0 1 = 4 ∧ (pmode 2).mode = 1 ∧
    (pmode 2).rd R.CHIP_CAP_LIMITS F.CHIP_CAP_LIMITS.PART_MODES &&& 2 ≠ 0 ∧ (∀ kc ∈ (pmode 2).ctxs, kc.2.phase = .absent) ∧
    (∀ i, i < 8 → (pmode 2).rd (R.PLN_STATUS i) F.PLN_STATUS.REPAIR_STATE ≠ 1) := by
  refine ⟨rfl, ?_, ?_, ?_, ?_, ?_, ?_⟩ <;> decide +kernel

/-- A finished collective whose engine stands still since time 0, as does a merge of tile 0, and a host's request to die 1. -/
def hung (t : Word) : State :=
  { running1 1 finished with
    time := t
    plinths := [(0, { merging := [0] })]
    cdc := [{ off := R.CORE_STATUS 60, value := 3, width := 8, timed := false, since := 0 }] }
theorem meets_HangDetectors : (live.ctx 0).fenced = false ∧ live.engineHolds 0x1003 0 = true ∧ live.engineHolds 0x1004 0 = false ∧
    ({ live with time := 5000000 } : State).engineStale 0x1003 = true ∧ ({ live with time := 4999999 } : State).engineStale 0x1003 = false ∧
    (hung 5000000).engineHolds 0x5000 0 = true ∧ ((hung 5000000).ctx 0).fenced = false ∧ bits 0x5000 12 4 = 5 ∧
    (hung 4999999).engineHolds 0x5000 0 = false ∧
    live.recov.runs = [] ∧ (live.log 16).entries = [] ∧ (live.log 20).entries = [] ∧
    (live.wr (R.DIE_STATUS 0) F.DIE_STATUS.BRIDGE_UP 1).flag (R.DIE_STATUS 0) F.DIE_STATUS.BRIDGE_UP = true := by
  refine ⟨?_, ?_, ?_, ?_, ?_, ?_, ?_, ?_, ?_, rfl, rfl, rfl, ?_⟩ <;> decide +kernel
theorem meets_HangDetectors_channels : (hung 1000000).stackPresent 0 = true ∧ (hung 1000000).stopped 0 = false ∧
    ((hung 1000000).plinth 0).hold = none ∧ (hung 1000000).chanHolds 0 0 = true ∧ (hung 1000000).chanHolds 1 0 = false ∧
    (hung 1000000).stale (uChannel 0 0) (hung 1000000).plnMs = true ∧ (hung 999999).stale (uChannel 0 0) (hung 999999).plnMs = false ∧
    (live.wr (R.PLN_STATUS 0) F.PLN_STATUS.THERM_STATE 3).stopped 0 = true ∧
    ((plinth0 { hold := some (31, 7) } 9).plinth 0).hold = some (31, 7) ∧
    (hung 100000).nocStuck 1 = true ∧ (hung 99999).nocStuck 1 = false ∧ (hung 100000).nocStuck 0 = false := by
  refine ⟨?_, ?_, ?_, ?_, ?_, ?_, ?_, ?_, ?_, ?_, ?_, ?_⟩ <;> decide +kernel
/-- A chip with one reset in progress, of a level and target, and what it collects, at a time. -/
def resetting (level target : Nat) (log : Fin 21) (t : Word) : State :=
  let c : Cairn := { slot := 0, level := level, flags := 0, seq := 0, target := BitVec.ofNat 16 target, tsStart := 0, tsEnd := 0, trigger := {}, units := [] }
  { live with time := t, recov := { runs := [{ level := level, target := target, log := log, start := 0 }], cairn := some c } }
theorem meets_ResetLimits : (resetting 1 0 0 99999).runOver 0 = some { level := 1, target := 0, log := 0, start := 0 } ∧
    (resetting 2 0x1003 16 0).runOver 0 = some { level := 2, target := 0x1003, log := 16, start := 0 } ∧
    (resetting 4 0 20 0).runOver 0 = some { level := 4, target := 0, log := 20, start := 0 } ∧
    (99999 : Word).toNat < drainBudget 1 ∧ (100000 : Word).toNat = drainBudget 1 ∧ (500000 : Word).toNat = drainBudget 2 ∧
    (5000000 : Word).toNat = drainBudget 4 ∧ (resetting 2 0x1003 16 0).undrained 0x1003 0 = false := by
  refine ⟨?_, ?_, ?_, ?_, ?_, ?_, ?_, ?_⟩ <;> decide +kernel
theorem meets_ResetLimits_bound : resetBound 2 ≤ (resetting 2 0x1003 16 1000000).runAge { level := 2, target := 0x1003, log := 16, start := 0 } ∧
    (resetting 2 0x1003 16 999999).runAge { level := 2, target := 0x1003, log := 16, start := 0 } < resetBound 2 ∧
    resetBound 3 ≤ (resetting 3 0 16 240000000).runAge { level := 3, target := 0, log := 16, start := 0 } ∧
    resetBound 4 ≤ (resetting 4 0 20 250000000).runAge { level := 4, target := 0, log := 20, start := 0 } ∧
    (∀ i, i < 8 → (resetting 3 0 16 0).stopped i = false) ∧ ((resetting 2 0x1003 16 0).log 16).entries = [] := by
  refine ⟨?_, ?_, ?_, ?_, ?_, ?_⟩ <;> decide +kernel
theorem meets_ResetLimits_slot : (resetting 2 0x1003 16 300000).takingSlot 0 = some 0 ∧ (resetting 2 0x1003 16 300000).takingSlot 0xFF = none ∧
    (resetting 2 0x1003 16 300000).recov.cairnQ = [] ∧ (resetting 2 0x1003 16 300000).recov.cairnBase = 0 ∧
    ({ level := 3, target := 0, log := 16, start := 0, pauseAt := some 9 } : ResetRun).pauseAt ≠ none := by
  refine ⟨?_, ?_, rfl, rfl, ?_⟩ <;> decide +kernel
theorem meets_ResetLimits_cairn : (resetting 2 0x1003 16 300000).recov.cairn.isSome = true ∧
    (resetting 2 0x1003 16 300000).recov.runs.find? (fun x => x.level == 2 && x.target == 0x1003) =
      some { level := 2, target := 0x1003, log := 16, start := 0 } ∧
    (300000 : Word).toNat = cairnLimit 2 ∧ (299999 : Word).toNat < cairnLimit 2 ∧ (resetting 2 0x1003 16 300000).cairnSlot = some 0 := by
  refine ⟨?_, ?_, ?_, ?_, ?_⟩ <;> decide +kernel
theorem meets_ResetsComplete : (resetting 1 0 0 0).runAt 1 (0 : CtxId) = some { level := 1, target := 0, log := 0, start := 0 } ∧
    (resetting 2 0x1003 16 0).runAt 2 (0x1003 : BitVec 16).toNat = some { level := 2, target := 0x1003, log := 16, start := 0 } ∧
    (resetting 3 0 16 0).runAt 3 (0 : PartId) = some { level := 3, target := 0, log := 16, start := 0 } ∧
    (0 : Nat) ∈ (resetting 2 0x1003 16 0).takenBy { level := 2, target := 0x1003, log := 16, start := 0 } ∧
    (0x1003 : BitVec 16).toNat = uCore 3 := by
  refine ⟨?_, ?_, ?_, ?_, ?_⟩ <;> decide +kernel

/-- That reset while its cairn waits for the collector, and one of a partition. -/
def queuedReset (level target : Nat) : State :=
  let s := resetting level target 16 0
  { s with recov := { s.recov with cairnQ := [(level, target, {})] } }
theorem meets_ResetsComplete_cairn : (queuedReset 2 0x1003).cairnWaits { level := 2, target := 0x1003, log := 16, start := 0 } = true ∧
    (queuedReset 2 0x1003).runAt 2 (0x1003 : BitVec 16).toNat = some { level := 2, target := 0x1003, log := 16, start := 0 } ∧
    (resetting 2 0x1003 16 0).cairnWaits { level := 2, target := 0x1003, log := 16, start := 0 } = false ∧
    (queuedReset 3 0).cairnWaits { level := 3, target := 0, log := 16, start := 0 } = true ∧
    (queuedReset 3 0).runAt 3 (0 : PartId) = some { level := 3, target := 0, log := 16, start := 0 } ∧
    (resetting 3 0 16 0).cairnWaits { level := 3, target := 0, log := 16, start := 0 } = false := by
  refine ⟨?_, ?_, ?_, ?_, ?_, ?_⟩ <;> decide +kernel

/-- The chip's log with the records of `l`. -/
def logged (l : List (Nat × ErrRec)) : State := { live with logs := [(20, { entries := l, next := 9 })] }
def rec1 (st : RecState) (sev : BitVec 8) (seq : BitVec 32) : ErrRec := { st := st, sev := sev, seq := seq, cls := 7, unit := 0x1003 }
theorem meets_LogHandling : ((logged [(0, rec1 .active 4 1), (1, rec1 .done 2 2)]).log 20).active = some (0, rec1 .active 4 1) ∧
    ((logged [(0, rec1 .active 4 1)]).log 20).lost = false ∧ (rec1 .active 4 1).sev.toNat < 5 ∧ 5 ≤ (rec1 .active 5 1).sev.toNat ∧
    (∀ e ∈ ((logged [(0, rec1 .active 4 1), (1, rec1 .done 2 2)]).log 20).entries, e.2.st ≠ .queued) ∧
    ((logged [(0, rec1 .active 4 1), (1, rec1 .queued 2 2)]).log 20).active = some (0, rec1 .active 4 1) ∧
    SMap.rising ((logged [(0, rec1 .active 4 1), (1, rec1 .queued 2 2)]).log 20).entries = true ∧
    (∀ e ∈ ((logged [(0, rec1 .active 4 1), (1, rec1 .queued 2 2)]).log 20).entries,
      (e.2.st = .queued → e = (1, rec1 .queued 2 2)) ∧ (e.2.st = .active → e = (0, rec1 .active 4 1))) ∧
    (logged [(0, rec1 .active 4 1)]).recov.runs = [] := by
  refine ⟨?_, ?_, ?_, ?_, ?_, ?_, ?_, ?_, rfl⟩ <;> decide +kernel

/-- A RESET request of a level and target. -/
def asksReset (level target : Nat) : State := mail live 0x120 (natLe level 2 ++ natLe target 2)
theorem asksReset_asks : (asksReset 0 0).asks 0 0x120 4 ∧ (mail live 0x121 []).asks 0 0x121 0 := by
  refine ⟨⟨?_, ?_, ?_, ?_, ?_, ?_⟩, ⟨?_, ?_, ?_, ?_, ?_, ?_⟩⟩ <;> decide +kernel
theorem meets_ResetRequests : (asksReset 0 0).payload 0 0 1 = 0 ∧ (asksReset 0 15).payload 0 2 2 = 15 ∧ (asksReset 0 16).payload 0 2 2 = 16 ∧
    ((asksReset 0 0).ctx 0).live = true ∧ ((asksReset 0 0).ctx 0).cause = none ∧ ((asksReset 0 15).ctx 15).live = false ∧
    (asksReset 1 0x1003).payload 0 0 1 = 1 ∧ bits ((asksReset 1 0x1003).payload 0 2 2) 12 4 = 1 ∧ (asksReset 1 0x1003).corePresent 3 = true ∧
    (asksReset 2 0).payload 0 0 1 = 2 ∧ (asksReset 2 0).mode = 1 ∧ (asksReset 2 1).payload 0 2 2 = 1 ∧ (asksReset 3 0).payload 0 0 1 = 3 ∧
    (asksReset 4 0).payload 0 0 1 = 4 := by
  refine ⟨?_, ?_, ?_, ?_, ?_, ?_, ?_, ?_, ?_, ?_, ?_, ?_, ?_, ?_⟩ <;> decide +kernel

/-- The chip with context 0, which owns one page and checkpoints to chip 1 in a mode, its stream in a state, with what `b` says of it. -/
def bivvy (mode state : Nat) (b : Biv) : State :=
  let s := linked (chip args { ctx0 with phase := .loaded, extents := [(0, 0x200000)], biv := b })
  let s := (s.wr (R.BIV_CFG 0) F.BIV_CFG.MODE mode).wr (R.BIV_CFG 0) F.BIV_CFG.TRIG_CORE 3
  let s := (s.wr (R.BIV_CFG 0) F.BIV_CFG.TRIG_CELL 1).wr (R.BIV_CFG 0) F.BIV_CFG.GO_CELL 2
  let s := (s.wr (R.BIV_CFG 0) F.BIV_CFG.RESERVE_PAGES 4).wr (R.BIV_STATUS 0) F.BIV_STATUS.STATE state
  let s := (s.wr (R.BIV_TARGET 0 0) F.BIV_TARGET.CHIP 1).wr (R.BIV_TARGET 0 1) F.BIV_TARGET.CHIP 1
  let s := (s.wr (R.BIV_CTRL 0) F.BIV_CTRL.EN 1).wr (R.BIV_CTRL 0) F.BIV_CTRL.INTERVAL 10
  s.wr (R.BIV_NEXT 0) F.BIV_NEXT.NEXT 20
/-- A manifest of one page, for an image size and key, with STEP 7, E = 3 and C = 5, and its CHECK. -/
def manifest (flags size key check : Nat) : List Byte :=
  natLe 0x56434942 4 ++ natLe 1 2 ++ natLe flags 2 ++ natLe 6 4 ++ natLe 0 4 ++ natLe 7 8 ++ natLe 0 16 ++ natLe size 8 ++ natLe 1 4 ++ natLe 0 4 ++
  natLe key 2 ++ natLe 0 2 ++ natLe 3 1 ++ natLe 0 1 ++ natLe 5 2 ++ natLe 0 128 ++ natLe check 8
/-- BIV_RESTART of context 0 from slots A and B. -/
def restart (a b : Nat) : State := mail (bivvy 0 0 {}) 0x301 (natLe 0 1 ++ natLe 50 1 ++ natLe 0 6 ++ natLe a 8 ++ natLe b 8)
/-- Context 0 restoring, with pages pulled. -/
def restoring (n : Nat) (m : List Byte) : State := bivvy 0 3 { pulled := n, manifest := m }
/-- `t` is `s` but for the counters of plinths. -/
def countsOnly (s t : State) : Prop :=
  ∃ m g, t = { s with regs := m, prog := g } ∧ ∀ b, b % 0x100000 ≠ 0x40 → SMap.lookD m b (resetWord b) = s.word b
theorem serve_unwritten (s : State) (i : Nat) (h : s.plinths = []) (t : s.hbm.tiles = []) : countsOnly s (s.serveTile i).1 := by
  have e : s.wcbEntry i = none := by unfold State.wcbEntry State.plinth; rw [h]; rfl
  have u : s.hbm.info i = {} := by unfold Tiled.info; rw [t]; rfl
  have v : s.serveTile i = ((s.dramDone i).bump (R.PLN_COUNT (s.siteOf i)) F.PLN_COUNT.UNINIT_READS 1, false) := by
    unfold State.serveTile State.wcbMerge
    rw [e]
    simp only [State.hbmCheck, u, if_true, Laws.dramDone_siteOf]
  rw [v, Laws.dramDone_frame]
  refine ⟨_, _, rfl, fun b hb => ?_⟩
  refine Laws.lookD_putD_ne _ _ _ _ _ _ ?_
  intro k
  apply hb
  rw [k]
  generalize s.siteOf i = q
  show (0x08000040 + q * 0x100000 + 0) % 0x100000 = 0x40
  omega
theorem readPage_unwritten (s : State) (a : Nat) (h : s.plinths = []) (t : s.hbm.tiles = []) : countsOnly s (s.readPage a).1 := by
  unfold State.readPage
  suffices ∀ (l : List Nat) (k : List (List Byte × TileMeta)) (w : State), countsOnly s w → countsOnly s (l.foldl (fun (r : State × List (List Byte × TileMeta)) i =>
      let (s, bad) := r.1.serveTile i
      let d := s.hbm.data i
      (s, r.2 ++ [(d, carried (s.hbm.info i) d bad)])) (w, k)).1 from this _ _ s ⟨s.regs, s.prog, rfl, fun _ _ => rfl⟩
  intro l
  induction l with
  | nil => intro k w hw; exact hw
  | cons i l ih =>
    intro k w hw
    rw [List.foldl_cons]
    refine ih _ _ ?_
    obtain ⟨m, g, rfl, hm⟩ := hw
    obtain ⟨n, y, q, r⟩ := serve_unwritten { s with regs := m, prog := g } i h t
    refine ⟨n, y, q, fun b hb => (r b hb).trans (hm b hb)⟩
theorem countsOnly_ports (s t : State) (h : countsOnly s t) : t.upRopes = s.upRopes ∧ t.ownChip = s.ownChip := by
  obtain ⟨m, g, rfl, h⟩ := h
  refine ⟨List.filter_congr fun w _ => ?_, ?_⟩
  · have e : ({ s with regs := m, prog := g } : State).rd (R.LNK_STATUS w) F.LNK_STATUS.STATE = s.rd (R.LNK_STATUS w) F.LNK_STATUS.STATE := by
      unfold State.rd
      rw [show ({ s with regs := m, prog := g } : State).word (R.LNK_STATUS w + 8 * (F.LNK_STATUS.STATE.lo / 64)) = _ from h _ ?_]
      show (0x09000000 + w * 0x10000 + 0) % 0x100000 ≠ 0x40
      omega
    unfold State.portUp
    rw [e]
  · unfold State.ownChip State.rd
    rw [show ({ s with regs := m, prog := g } : State).word (R.JNR_CHIP + 8 * (F.JNR_CHIP.INDEX.lo / 64)) = _ from h _ (by decide)]
/-- A state of chip 0 whose one rope port up is 1 reaches chip 1 through it. -/
theorem one_port (w : State) (h : w.upRopes = [1]) (o : w.ownChip = 0) (e : w.out = []) : (1 : Nat) ≠ w.ownChip ∧
    (∀ y ∈ w.out, w.stranded y = false) ∧ ∀ a, ∃ port rw, w.path (some 0) a w.ownChip 1 false = .port port rw := by
  refine ⟨by rw [o]; decide, fun y k => (by rw [e] at k; cases k), fun a => ⟨1, none, ?_⟩⟩
  unfold State.path State.pathBy
  rw [o, if_neg (by decide), if_pos (by decide), h]
  simp [pickPort, Nat.mod_one]
/-- The registers of `bivvy 0 1`, written out. -/
def sendRegs : SMap Word :=
  [(0, 34605408), (8, 72057594037862400), (16, 569918440), (196608, 267395072), (786432, 2148556816), (786440, 42949673061),
   (786448, 20), (786456, 1099511627776), (786464, 1099511627776), (786472, 1), (851976, 3687400), (5243136, 175), (5243152, 791076),
   (16777216, 1), (75694080, 4099), (75694112, 262144), (75695104, 8192), (151060480, 3)]
theorem sendRegs_eq : (bivvy 0 1 {}).regs = sendRegs := by decide +kernel
/-- The stream of context 0 with its one page still to send, on which a write is held. -/
def sending : State :=
  { State.reset with
    ctxs := [(0, { ctx0 with phase := .loaded, extents := [(0, 0x200000)], biv := { pend := [0], toSend := [0], held := [(0, 7)] } })]
    cores := [(3, { args with fetched := [0] })], logical := [(3, 3)], regs := sendRegs }
/-- The stream with nothing left to send. -/
def last1 (st : Nat) : State := bivvy 0 st {}
/-- Nothing waits and no tile is written; the cores are those of `live`. -/
def bare (s : State) : Prop := s.plinths = [] ∧ s.hbm.tiles = [] ∧ s.out = [] ∧ s.retry = [] ∧ s.biWait = [] ∧
    s.cores = [(3, { args with fetched := [0] })] ∧ ∃ x, s.ctxs = [(0, x)] ∧ x.scaTodo = []
theorem wr_bare (s : State) (r : Nat) (f : Field) (v : Nat) (h : bare s) : bare (s.wr r f v) := h
theorem bivvy_bare (m st : Nat) (b : Biv) : bare (bivvy m st b) := by
  unfold bivvy linked chip
  repeat apply wr_bare
  exact ⟨rfl, rfl, rfl, rfl, rfl, rfl, _, rfl, rfl⟩
theorem countsOnly_quiet (s t : State) (h : countsOnly s t) (q : s.quiet) : t.quiet := by
  obtain ⟨m, g, rfl, _⟩ := h
  exact q
theorem live_cores : live.cores = [(3, { args with fetched := [0] })] := by rfl
theorem bare_quiet (s : State) (h : bare s) : s.quiet := by
  obtain ⟨_, _, _, r, w, c, x, k, t⟩ := h
  exact live_quiet _ (c.trans live_cores.symm) r w x k t
theorem bare_out (s t : State) (h : countsOnly s t) (p : bare s) : t.out = [] := by
  obtain ⟨m, g, rfl, _⟩ := h
  exact p.2.2.1
theorem sending_reads : ∃ w l, sending.readPage 0 = (w, l) ∧ w.quiet ∧ (1 : Nat) ≠ w.ownChip ∧ (∀ y ∈ w.out, w.stranded y = false) ∧
    ∀ a, ∃ port rw, w.path (some 0) a w.ownChip 1 false = .port port rw := by
  have p : bare sending := ⟨rfl, rfl, rfl, rfl, rfl, rfl, _, rfl, rfl⟩
  have c := readPage_unwritten sending 0 p.1 p.2.1
  obtain ⟨u, o⟩ := countsOnly_ports _ _ c
  exact ⟨_, _, (Prod.eta _).symm, countsOnly_quiet _ _ c (bare_quiet _ p),
    one_port _ (u.trans (by decide +kernel)) (o.trans (by decide +kernel)) (bare_out _ _ c p)⟩
theorem meets_BivouacStream : (sending.ctx 0).biv.held.find? (fun h => h.1 == 0) = some (0, 7) ∧
    pageAddr (sending.ctx 0).extents 0 = some 0 ∧ (0 : Nat) ∈ (sending.ctx 0).biv.pend ∧ sending.heldBefore 0 7 < 4 ∧
    (sending.ctx 0).biv.reserve.length < sending.rd (R.BIV_CFG 0) F.BIV_CFG.RESERVE_PAGES ∧ sending.bivState 0 = 1 ∧ sending.bivTurn 0 = true ∧
    (sending.ctx 0).biv.toSend = [0] ∧ (sending.ctx 0).biv.reserve = [] ∧ (sending.slotBase 0).1 = 1 ∧ (last1 1).bivState 0 = 1 ∧
    (last1 2).bivState 0 = 2 ∧ ((last1 2).slotBase 0).1 = 1 := by
  refine ⟨?_, ?_, ?_, ?_, ?_, ?_, ?_, ?_, ?_, ?_, ?_, ?_, ?_⟩ <;> decide +kernel
theorem meets_BivouacStream_last (st : Nat) (h : (last1 st).upRopes = [1]) (o : (last1 st).ownChip = 0) : (last1 st).retry = [] ∧
    (1 : Nat) ≠ (last1 st).ownChip ∧ ∀ a, ∃ port rw, (last1 st).path (some 0) a (last1 st).ownChip 1 false = .port port rw := by
  have p : bare (last1 st) := bivvy_bare ..
  have q := one_port _ h o p.2.2.1
  exact ⟨p.2.2.2.1, q.1, q.2.2⟩
theorem last1_ports : (last1 1).upRopes = [1] ∧ (last1 1).ownChip = 0 ∧ (last1 2).upRopes = [1] ∧ (last1 2).ownChip = 0 := by decide +kernel
theorem plinth_empty (s : State) (h : s.plinths = []) (i : Nat) : (s.plinth i).hold = none := by
  unfold State.plinth
  rw [h]
  rfl
theorem blocked_eq (s : State) (h : s.plinths = []) (i : Nat) : s.tileBlocked i = s.stopped (s.siteOf i) := by
  have e : s.tileHeld i = false := by
    unfold State.tileHeld
    generalize s.tilePlace i = x
    cases x with
    | none => exact rfl
    | some x => 
      obtain ⟨x, y⟩ := x
      simp only [plinth_empty s h]
  unfold State.tileBlocked
  rw [e]
  exact Bool.or_false _
theorem page_free (s : State) (h : s.plinths = []) (k : ∀ x, x < 8 → s.stopped x = false) (a : Nat) : s.pageFree a = true := by
  unfold State.pageFree
  rw [List.all_eq_true]
  intro i _
  rw [blocked_eq s h, k _ (Laws.siteOf_lt _ i)]
  rfl
theorem meets_BivouacStream_state (w : State) (l : List (List Byte × TileMeta)) (h : sending.readPage 0 = (w, l)) : w.bivState 0 = 1 := by
  have c := readPage_unwritten sending 0 rfl rfl
  rw [h] at c
  obtain ⟨m, g, rfl, e⟩ := c
  unfold State.bivState State.rd
  rw [show ({ sending with regs := m, prog := g } : State).word (R.BIV_STATUS 0 + 8 * (F.BIV_STATUS.STATE.lo / 64)) = _ from e _ (by decide)]
  decide +kernel
theorem meets_BivouacStream_free : sending.pageFree 0 = true := page_free sending rfl (by decide +kernel) 0

/-- BIV_CONFIG of context 0 with so many reserve pages, where the stream stands in a state. -/
def configuring (state pages : Nat) : State :=
  mail (bivvy 0 state {}) 0x300 (natLe 0 1 ++ natLe 1 1 ++ natLe 50 1 ++ natLe 1 1 ++ natLe pages 2 ++ natLe 3 2 ++ natLe 1 2 ++ natLe 2 2 ++
    natLe 10 4 ++ natLe 20 8 ++ natLe (2 ^ 40) 8 ++ natLe (2 ^ 40 + 0x400000) 8)
theorem configuring_asks : (configuring 0 4).asks 0 0x300 0x28 := by refine ⟨?_, ?_, ?_, ?_, ?_, ?_⟩ <;> decide +kernel
theorem meets_BivouacConfig : (configuring 0 4).payload 0 0 1 = 0 ∧ (configuring 1 4).bivState 0 ≠ 0 ∧ ((configuring 0 4).ctx 0).live = true ∧
    ((configuring 0 4).ctx 0).fenced = false ∧ ((configuring 0 4).ctx 0).biv.rst = none ∧ (configuring 0 4).bivState 0 = 0 ∧ (configuring 0 3).bivBad 0 0 ≠ none ∧
    (configuring 0 4).bivBad 0 0 = none ∧ (configuring 0 1024).bivBad 0 0 = none := by
  refine ⟨?_, ?_, ?_, ?_, rfl, ?_, ?_, ?_, ?_⟩
  case refine_6 =>
    intro h
    exact absurd (show ((configuring 0 3).bivBad 0 0).isSome = true by decide +kernel) (by rw [h]; decide)
  all_goals decide +kernel
theorem meets_BivouacConfig_fit : takeHbm (((configuring 0 4).setCtx 0 { (configuring 0 4).ctx 0 with reserve := [] }).freeHbm 0) (4 * pageBytes) =
      some [(0x200000, 0x800000)] ∧
    takeHbm ((((configuring 0 1024).wr (R.MEM_PART 0) F.MEM_PART.SIZE 1).setCtx 0 { (configuring 0 4).ctx 0 with reserve := [] }).freeHbm 0)
      (1024 * pageBytes) = none := by
  refine ⟨?_, ?_⟩ <;> decide +kernel

/-- An increment of TRIG_CELL to 19, to 20 and to 45 waits for the bivouac engine; NEXT is 20. -/
def triggered (mode state : Nat) (v : Word) : State := bivvy mode state { trig := [v, 99], dirtyA := [0], dirtyB := [0], streamSeq := 4 }
theorem meets_BivouacTrigger : ((triggered 0 0 19).ctx 0).biv.trig = [19, 99] ∧
    (triggered 0 0 19).physOf ((triggered 0 0 19).rd (R.BIV_CFG 0) F.BIV_CFG.TRIG_CORE) = some 3 ∧ (triggered 0 0 19).slotOf 3 0 = some 0 ∧
    ((triggered 0 0 19).ctx 0).fenced = false ∧ ((triggered 0 0 19).core 3).jig = none ∧
    (triggered 0 0 19).rd (R.BIV_CFG 0) F.BIV_CFG.GO_CELL = 2 ∧ (triggered 0 0 19).rd (R.BIV_CFG 0) F.BIV_CFG.TRIG_CELL = 1 ∧
    2 < (triggered 0 0 19).cellCount 3 0 ∧ (triggered 0 0 19).cellAt 3 0 2 < 1024 ∧ ((triggered 0 0 19).cellValue 3 0 2).toNat + 1 < 2 ^ 64 ∧
    (19 : Word).toNat < (triggered 0 0 19).rd (R.BIV_NEXT 0) F.BIV_NEXT.NEXT := by
  refine ⟨?_, ?_, ?_, ?_, ?_, ?_, ?_, ?_, ?_, ?_, ?_⟩ <;> decide +kernel
theorem meets_BivouacTrigger_more : (triggered 0 1 20).flag (R.BIV_CTRL 0) F.BIV_CTRL.EN = true ∧
    (triggered 0 1 20).rd (R.BIV_NEXT 0) F.BIV_NEXT.NEXT ≤ (20 : Word).toNat ∧ (triggered 0 1 20).bivState 0 ≠ 0 ∧
    (triggered 1 0 45).bivState 0 = 0 ∧ (triggered 1 0 45).nextSlot 0 = 0 ∧ (triggered 1 0 45).rd (R.BIV_TARGET 0 0) F.BIV_TARGET.CHIP = 1 ∧
    (triggered 1 0 45).ownChip = 0 ∧ (triggered 1 0 45).path (some 0) 0 0 1 false = .port 1 none ∧
    (triggered 2 0 45).rd (R.BIV_CFG 0) F.BIV_CFG.MODE = 2 ∧ (triggered 2 0 45).path (some 0) 0 0 1 false = .port 1 none := by
  refine ⟨?_, ?_, ?_, ?_, ?_, ?_, ?_, ?_, ?_, ?_⟩ <;> decide +kernel

theorem restart_asks : (restart (2 ^ 40) 0).asks 0 0x301 0x18 := by refine ⟨?_, ?_, ?_, ?_, ?_, ?_⟩ <;> decide +kernel
theorem meets_BivouacRestart : (restart (2 ^ 40) 0).payload 0 0 1 = 0 ∧ ((restart (2 ^ 40) 0).ctx 0).phase = .loaded ∧
    ((restart (2 ^ 40) 0).ctx 0).fenced = false ∧ (restart (2 ^ 40) 0).bivState 0 = 0 ∧ (restart (2 ^ 40) 0).payload 0 1 1 = 50 ∧
    (restart (2 ^ 40) 0).inRoute 0 (2 ^ 40) = true ∧ chooseManifest [] [] = none ∧ (restart (2 ^ 40) 0).key 0 = 0 ∧
    ((restart (2 ^ 40) 0).ctx 0).hbmBytes = 0x200000 := by
  refine ⟨?_, ?_, ?_, ?_, ?_, ?_, ?_, ?_, ?_⟩ <;> decide +kernel
theorem meets_BivouacRestart_manifests :
    chooseManifest (manifest 1 0x200000 0 1840674987244290392) [] = some (false, manifest 1 0x200000 0 1840674987244290392) ∧
    chooseManifest (manifest 1 0x400000 0 6731330857839014417) [] = some (false, manifest 1 0x400000 0 6731330857839014417) ∧
    chooseManifest [] (manifest 1 0x200000 1 11524008896417500929) = some (true, manifest 1 0x200000 1 11524008896417500929) ∧
    leAt (manifest 1 0x200000 0 1840674987244290392) 0x28 8 = 0x200000 ∧ leAt (manifest 1 0x200000 0 1840674987244290392) 0x38 2 = 0 := by
  refine ⟨?_, ?_, ?_, ?_, ?_⟩ <;> decide +kernel
/-- The routes of a restart's reads from a bare state of chip 0 whose one rope port up is 1. -/
theorem restart_routed (s : State) (p : bare s) (h : s.upRopes = [1]) (o : s.ownChip = 0) : s.retry = [] ∧ (1 : Nat) ≠ s.ownChip ∧
    (∀ y ∈ s.out, s.stranded y = false) ∧ ∀ a, ∃ port rw, s.path (some 0) a s.ownChip 1 false = .port port rw :=
  ⟨p.2.2.2.1, one_port s h o p.2.2.1⟩
theorem meets_BivouacRestart_routed : (restart (2 ^ 40) (2 ^ 40 + 64)).upRopes = [1] ∧ (restart (2 ^ 40) 0).ownChip = 0 ∧
    (restart (2 ^ 40) (2 ^ 40 + 64)).payload 0 8 8 = 2 ^ 40 ∧ (restart (2 ^ 40) (2 ^ 40 + 64)).payload 0 16 8 = 2 ^ 40 + 64 ∧
    bits (2 ^ 40) 40 17 = 1 ∧ (restart (2 ^ 40) (2 ^ 40 + 64)).inRoute 0 (2 ^ 40 + 64) = true ∧
    (restart 0 0).inRoute 0 (0x1FFFF * 2 ^ 40) = false := by
  refine ⟨?_, ?_, ?_, ?_, ?_, ?_, ?_⟩ <;> decide +kernel
/-- Context 0 in a state of a restart, with what `b` says, and a read of it outstanding under tag 9. -/
def pulls (q : BivRead) (st : Nat) (b : Biv) : State :=
  { bivvy 0 st b with out := [{ tag := 9, cls := 1, chip := 1, addr := 0, len := 2048, core := 0, eng := .seq, ctx := 0, biv := true, pull := some q, deadline := 0, first := 0 }] }
theorem pulls_quiet (q : BivRead) (st : Nat) (b : Biv) : (pulls q st b).quiet := by
  have g (s : State) (l : List OutReq) (h : s.quiet) : ({ s with out := l } : State).quiet := h
  exact g _ _ (bare_quiet _ (bivvy_bare ..))
def rst1 : BivRst := { ch := 0, srcA := 2 ^ 40, srcB := 2 ^ 40 + 64, manA := some [] }
theorem meets_BivouacRestart_read : (pulls (.manifest true) 0 { rst := some rst1 }).out.filter (fun y => y.tag == 9) =
      [{ tag := 9, cls := 1, chip := 1, addr := 0, len := 2048, core := 0, eng := .seq, ctx := 0, biv := true, pull := some (.manifest true), deadline := 0, first := 0 }] ∧
    ((pulls (.manifest true) 0 { rst := some rst1 }).ctx 0).biv.rst = some rst1 ∧ ((pulls (.manifest true) 0 { rst := some rst1 }).ctx 0).phase = .loaded ∧
    ((pulls (.manifest true) 0 { rst := some rst1 }).ctx 0).fenced = false ∧ (pulls (.manifest true) 0 { rst := some rst1 }).bivState 0 = 0 ∧
    (pulls (.tile 2048) 3 {}).bivState 0 = 3 ∧ (pulls (.tile 2048) 3 {}).heldLines 2048 2048 = [] ∧
    (pulls (.tile 2048) 3 {}).pagePending 2048 = false ∧ ((pulls .again 3 { ending := true }).ctx 0).biv.ending = true ∧
    (reply.dst.toNat = (pulls .again 3 { ending := true }).ownChip) ∧ reply.poison = false := by
  refine ⟨?_, ?_, ?_, ?_, ?_, ?_, ?_, ?_, ?_, ?_, ?_⟩ <;> decide +kernel
theorem meets_BivouacRestart_tile : (pulls (.tile 2048) 3 {}).tileBlocked (2048 / 2048) = false := by
  have g (s : State) (l : List OutReq) (h : s.plinths = []) : ({ s with out := l } : State).plinths = [] := h
  unfold pulls
  rw [blocked_eq _ (g _ _ (bivvy_bare 0 3 {}).1)]
  decide +kernel
theorem meets_BivouacRestart_pull : pageAddr ((restoring 0 []).ctx 0).extents ((restoring 0 []).ctx 0).biv.pulled = some 0 ∧
    (restoring 0 []).bivState 0 = 3 ∧ ((restoring 0 []).ctx 0).biv.pulling = 0 ∧ ((pulls .again 3 { pulling := 7 }).ctx 0).biv.pulling ≠ 0 ∧
    ((restoring 1 []).ctx 0).pages ≤ ((restoring 1 []).ctx 0).biv.pulled ∧ ((restoring 1 []).ctx 0).biv.ending = false ∧
    leAt (manifest 1 0 0 0) 6 2 ≠ leAt (manifest 0 0 0 0) 6 2 := by
  refine ⟨?_, ?_, ?_, ?_, ?_, ?_, ?_⟩ <;> decide +kernel
/-- That state with the slot in chip 1. -/
def restoring1 (n : Nat) : State := bivvy 0 3 { pulled := n, srcSlot := 2 ^ 40 }
theorem meets_BivouacRestart_pull_routed (n : Nat) (h : (restoring1 n).upRopes = [1]) (o : (restoring1 n).ownChip = 0) :
    (restoring1 n).retry = [] ∧ bits ((restoring1 n).ctx 0).biv.srcSlot.toNat 40 17 = 1 ∧ (1 : Nat) ≠ (restoring1 n).ownChip ∧
    (∀ y ∈ (restoring1 n).out, (restoring1 n).stranded y = false) ∧
    ∀ a, ∃ port rw, (restoring1 n).path (some 0) a (restoring1 n).ownChip 1 false = .port port rw := by
  have r := restart_routed _ (bivvy_bare 0 3 _) h o
  have e : ((restoring1 n).ctx 0).biv.srcSlot = 2 ^ 40 := rfl
  exact ⟨r.1, by rw [e]; decide, r.2⟩
theorem restoring1_ports : (restoring1 0).upRopes = [1] ∧ (restoring1 0).ownChip = 0 ∧ (restoring1 1).upRopes = [1] ∧
    (restoring1 1).ownChip = 0 := by decide +kernel

/-- A firmware image of 7,344 bytes whose three sections are empty, with an SVN; its key and signature are elsewhere. -/
def firmware (flags svn : Nat) : List Byte :=
  natLe 0x57464E52 4 ++ natLe 1 2 ++ natLe flags 2 ++ natLe 0x1234 8 ++ natLe svn 4 ++ natLe 16 2 ++ natLe 3 2 ++ natLe 7344 4 ++ natLe 0 7268 ++
  natLe 1 16 ++ natLe 2 16 ++ natLe 3 16
/-- FW_STAGE of such an image. -/
def staging (s : State) (k : List Byte) : State :=
  { mail s 0x200 (natLe 0 8 ++ natLe 7344 4 ++ natLe 0 4) with
    fuses := { s.fuses with fwKey := BitVec.ofNat 512 (leNat (sha3_512 (slice k 0x40 2592))) } }
/-- A chip that runs, with its supplies good and no pin held. -/
def powered : State := { readyChip with pins := { aon := true, pwrGood := true, hold := false } }
theorem meets_PowerPins : ({ State.reset with pins := {} } : State).pins.aon = false ∧ powered.pins.pwrGood = true ∧ powered.pins.aon = true ∧
    powered.pins.trip = false ∧ ((1 : BitVec 4).toNat < 2) ∧ powered.stackPresent (0 : BitVec 4).toNat = true ∧ powered.fuses.ridges ≠ 0 ∧
    ({ powered with pins := { powered.pins with trip := true } } : State).pins.trip = true ∧
    (powered.wr (R.DIE_STATUS 0) F.DIE_STATUS.BRIDGE_UP 1).flag (R.DIE_STATUS 0) F.DIE_STATUS.BRIDGE_UP = true := by
  refine ⟨?_, ?_, ?_, ?_, ?_, ?_, ?_, ?_, ?_⟩ <;> decide +kernel

/-- A chip whose supplies have not come up, with HOLD_RESET_N asserted. -/
def cold : State := { State.reset with pins := { aon := true, hold := true } }
theorem meets_ChipStarts_cold : cold.pins.aon = true ∧ cold.pins.hold = true ∧ cold.pins.pwrGood = false ∧ cold.flash.active = false ∧
    cold.fuses.svn.toNat ≤ (SMap.lookD cold.flash.imgSvn 0 0).toNat ∧ cold.fuses.svn.toNat ≤ (SMap.lookD cold.flash.imgSvn 1 0).toNat := by
  refine ⟨?_, ?_, ?_, ?_, ?_, ?_⟩ <;> decide +kernel
/-- The chip with HOLD_RESET_N asserted while it ran, and the chip with a chip reset in progress. -/
def heldInReset : State := { powered.wr R.MGT_BOOT F.MGT_BOOT.STAGE 10 with pins := { powered.pins with hold := true }, ctxs := [] }
def chipReset : State := { powered with recov := { powered.recov with runs := [{ level := 4, target := 0, log := 20, start := 0 }] } }
theorem meets_ChipStarts_warm : (heldInReset.wr R.MGT_BOOT F.MGT_BOOT.READY 0).pins.aon = true ∧
    (heldInReset.wr R.MGT_BOOT F.MGT_BOOT.READY 0).pins.hold = true ∧ (heldInReset.wr R.MGT_BOOT F.MGT_BOOT.READY 0).pins.pwrGood = true ∧
    (heldInReset.wr R.MGT_BOOT F.MGT_BOOT.READY 0).rd R.MGT_BOOT F.MGT_BOOT.STAGE = 10 ∧
    (heldInReset.wr R.MGT_BOOT F.MGT_BOOT.READY 0).flag R.MGT_BOOT F.MGT_BOOT.READY = false ∧
    (heldInReset.wr R.MGT_BOOT F.MGT_BOOT.READY 0).cdc = [] ∧ (heldInReset.wr R.MGT_BOOT F.MGT_BOOT.READY 0).ctxs = [] := by
  refine ⟨?_, ?_, ?_, ?_, ?_, ?_, ?_⟩ <;> decide +kernel
theorem meets_PowerPins_pll : 0 < powered.rd R.CHIP_CAP_LIMITS F.CHIP_CAP_LIMITS.CLK_CAP_MHZ ∧ (powered.core 3).jig = none ∧
    (115 : BitVec 8).toNat = 115 ∧ chipReset.cairnWaits { level := 4, target := 0, log := 20, start := 0 } = false ∧
    powered.needsBase { level := 4, target := 0, log := 20, start := 0 } = true ∧
    powered.needsBase { level := 2, target := 0x1003, log := 16, start := 0 } = false := by
  refine ⟨?_, ?_, ?_, ?_, ?_, ?_⟩ <;> decide +kernel
theorem meets_ChipStarts_reset : chipReset.recov.runs.find? (fun x => x.level == 4) = some { level := 4, target := 0, log := 20, start := 0 } ∧
    chipReset.rd R.MGT_BOOT F.MGT_BOOT.STAGE ≠ 10 ∧ chipReset.pins.hold = false ∧ chipReset.cdc = [] ∧
    powered.rd R.MGT_BOOT F.MGT_BOOT.STAGE ≠ 9 ∧ (∀ r ∈ powered.recov.runs, r.level ≤ 4) := by
  refine ⟨?_, ?_, ?_, ?_, ?_, ?_⟩ <;> decide +kernel

theorem meets_FirmwareRestarts : powered.pins.pwrGood = true ∧ powered.rd R.MGT_BOOT F.MGT_BOOT.STAGE ≠ 9 ∧ (powered.log 20).entries.length < 64 ∧
    FwCause.watchdog ≠ .activation ∧ powered.pins.hold = false ∧ (mail powered 1 []).flag (R.MBX_CTRL 0) F.MBX_CTRL.BUSY = true ∧
    powered.bcWatchdogs < 2 ∧
    2 ≤ ({ powered with time := 77, recov := { powered.recov with bcRestarts := [(0, true), (5, true)] } } : State).bcWatchdogs := by
  refine ⟨?_, ?_, ?_, ?_, ?_, ?_, ?_, ?_⟩ <;> decide +kernel

/-- ATTEST and GET_MEASUREMENTS with two entries in the measurement log and a buffer of so many bytes. -/
def measured : State := { powered with fw := { powered.fw with mlog := [7, 9] } }
def attesting (n : Nat) : State := mail measured 0x210 (natLe 5 64 ++ natLe 0x1000 8 ++ natLe n 4 ++ natLe 0 4)
def measuring (n : Nat) : State := mail measured 0x211 (natLe 0x1000 8 ++ natLe n 4 ++ natLe 0 4)
theorem attesting_asks : (attesting 7859).asks 0 0x210 80 := by refine ⟨?_, ?_, ?_, ?_, ?_, ?_⟩ <;> decide +kernel
theorem measuring_asks : (measuring 256).asks 0 0x211 16 := by refine ⟨?_, ?_, ?_, ?_, ?_, ?_⟩ <;> decide +kernel
theorem meets_Reports : 384 + 128 * 2 + 2592 + 4627 ≤ (attesting 7859).payload 0 72 4 ∧ (attesting 7858).payload 0 72 4 < 384 + 128 * 2 + 2592 + 4627 ∧
    128 * (measuring 256).fw.mlog.length ≤ (measuring 256).payload 0 8 4 ∧
    (measuring 255).payload 0 8 4 < 128 * (measuring 255).fw.mlog.length := by
  refine ⟨?_, ?_, ?_, ?_⟩ <;> decide +kernel

theorem staging_asks (k : List Byte) : (staging powered k).asks 0 0x200 16 := by
  have g (s : State) (f : Fuses) (h : s.asks 0 0x200 16) : ({ s with fuses := f } : State).asks 0 0x200 16 := h
  exact g _ _ (by refine ⟨?_, ?_, ?_, ?_, ?_, ?_⟩ <;> decide +kernel)
/-- An image that passes the checks other than those of key and signature passes, where its signature verifies, on the chip of its key. -/
theorem stages (s : State) (k : List Byte)
    (m : ¬ (leAt k 0 4 ≠ 0x57464E52 ∨ leAt k 4 2 ≠ 1 ∨ leAt k 0x16 2 ≠ 3 ∨
      !([1, 2, 3].all (fun x => (imageSections k).countP (fun e => e.1 == x) == 1))))
    (b : ¬ (0x2000000 < leAt k 0x18 4 ∨ k.length < leAt k 0x18 4 ∨
      !((imageSections k).all (fun e => decide (e.2.1 + e.2.2 ≤ leAt k 0x18 4) && decide (e.2.2 ≤ sectionLimit e.1))) ∨
      !disjointRanges ((imageSections k).map Prod.snd)))
    (x : keyFits k s.fuses.fwKey = true) (v : sigFits k = true) (t : ¬ leAt k 0x14 2 ≠ s.rd R.CHIP_ID F.CHIP_ID.STEPPING)
    (e : ¬ leAt k 0x10 4 < s.rd R.MGT_FW F.MGT_FW.SVN_FLOOR) : s.fwFails k = 0 := by
  unfold State.fwFails
  rw [if_neg m, if_neg b, if_neg (by rw [x]; decide), if_neg (by rw [v]; decide), if_neg t, if_neg e]
theorem meets_FwStage (v : sigFits (slice (firmware 1 2) 0 7344) = true) : let k := slice (firmware 1 2) 0 7344
    (staging powered k).flag R.MGT_FW F.MGT_FW.STAGING = false ∧ (staging powered k).flag R.MGT_FW F.MGT_FW.PENDING = false ∧
    (staging powered k).payload 0 8 4 = 7344 ∧ (staging powered k).fwFails k = 0 := by
  refine ⟨?_, ?_, ?_, stages _ _ ?_ ?_ (Laws.keyFits_own _) v ?_ ?_⟩ <;> decide +kernel
theorem meets_FwStage_bad : (staging (powered.wr R.MGT_FW F.MGT_FW.PENDING 1) []).flag R.MGT_FW F.MGT_FW.PENDING = true ∧
    (staging powered []).fwFails (slice [] 0 7344) ≠ 0 := by
  refine ⟨?_, ?_⟩ <;> decide +kernel
/-- FW_ACTIVATE with no image staged, and with one staged in slot 1. -/
def activating (s : State) : State := mail s 0x201 []
def stagedChip : State := { powered.wr R.MGT_FW F.MGT_FW.STAGED 1 with
  flash := { powered.flash with staged := true, version := [(1, 0x1234)], imgSvn := [(1, 3)] } }
theorem activating_asks : (activating stagedChip).asks 0 0x201 0 := by refine ⟨?_, ?_, ?_, ?_, ?_, ?_⟩ <;> decide +kernel
theorem meets_FwActivate : (activating stagedChip).mlogFull = false ∧ (activating stagedChip).flag R.MGT_FW F.MGT_FW.PENDING = false ∧
    (activating powered).flag R.MGT_FW F.MGT_FW.STAGED = false ∧ (activating stagedChip).flag R.MGT_FW F.MGT_FW.STAGED = true ∧
    (activating (stagedChip.wr R.CLP_STATUS F.CLP_STATUS.EMERGENCY 1)).flag R.CLP_STATUS F.CLP_STATUS.EMERGENCY = true ∧
    (activating stagedChip).flag R.CLP_STATUS F.CLP_STATUS.EMERGENCY = false ∧
    (activating stagedChip).rd R.MGT_FW F.MGT_FW.SVN_FLOOR ≤ (SMap.lookD (activating stagedChip).flash.imgSvn (activating stagedChip).spareSlot 0).toNat := by
  refine ⟨?_, ?_, ?_, ?_, ?_, ?_, ?_⟩ <;> decide +kernel
/-- A deferred activation so many ticks after EMERGENCY cleared, and an image that raises the SVN so many ticks after it started. -/
def deferred (t : Nat) : State :=
  { stagedChip.wr R.MGT_FW F.MGT_FW.PENDING 1 with fw := { powered.fw with clearSince := some 0 }, time := BitVec.ofNat 64 t }
def raising (t : Nat) : State :=
  { powered with fw := { powered.fw with activatedAt := some 0, raiseSvn := true, imgSvn := 5 }, time := BitVec.ofNat 64 t }
theorem meets_FwDeferred : (deferred 100000000).fw.clearSince = some 0 ∧ (deferred 100000000).flag R.MGT_FW F.MGT_FW.PENDING = true ∧
    (deferred 100000000).flag R.MGT_BOOT F.MGT_BOOT.READY = true ∧ 100000000 ≤ ((deferred 100000000).time - 0).toNat ∧
    ((deferred 99999999).time - 0).toNat < 100000000 ∧
    (deferred 100000000).rd R.MGT_FW F.MGT_FW.SVN_FLOOR ≤ (SMap.lookD (deferred 100000000).flash.imgSvn (deferred 100000000).spareSlot 0).toNat := by
  refine ⟨?_, ?_, ?_, ?_, ?_, ?_⟩ <;> decide +kernel
theorem meets_SvnRaise : (raising 6000000000).fw.activatedAt = some 0 ∧ (raising 6000000000).fw.raiseSvn = true ∧
    (raising 6000000000).fuses.svn.toNat < (raising 6000000000).fw.imgSvn.toNat ∧ 6000000000 ≤ ((raising 6000000000).time - 0).toNat ∧
    ((raising 5999999999).time - 0).toNat < 6000000000 := by
  refine ⟨?_, ?_, ?_, ?_, ?_⟩ <;> decide +kernel
end Sys2Proof.Machine.Slice0
end

section
/-!
PROOFS. The vector instructions that write every element of one register (R122 to R135): what an element of a packed register is, what the shared
operation of these instructions does where no check fails, and the statement about them.
-/
namespace Sys2Proof.Proofs
open Sys2Proof.Machine Sys2Proof.Laws

/-! ### Elements of a packed register (R122) -/

theorem elemAt_lt (v : VWord) (w i : Nat) : elemAt v w i < 2 ^ w := bits_lt _ _ _

@[simp] theorem elemAt_mod (v : VWord) (w i : Nat) : elemAt v w i % 2 ^ w = elemAt v w i := Nat.mod_eq_of_lt (elemAt_lt v w i)

theorem testBit_elemAt (v : VWord) (w i j : Nat) : (elemAt v w i).testBit j = (decide (j < w) && v.getLsbD (w * i + j)) := by
  simp [elemAt, bits, BitVec.getLsbD]

/-- Element `i` lies below bit 8192 of the register. -/
theorem elem_fits {w i : Nat} (h : i < 8192 / w) : w * i + w ≤ 8192 :=
  calc w * i + w = w * (i + 1) := rfl
    _ ≤ w * (8192 / w) := Nat.mul_le_mul_left w h
    _ ≤ 8192 := Nat.mul_div_le 8192 w

/-- A number packed from a list of elements holds each of them in its place. -/
theorem bits_foldr_elems (w : Nat) (l : List Nat) (i : Nat) :
    bits (l.foldr (fun x n => n * 2 ^ w + x % 2 ^ w) 0) (w * i) w = l.getD i 0 % 2 ^ w := by
  induction l generalizing i with
  | nil => simp [bits]
  | cons x l ih =>
    cases i with
    | zero => simp [bits, Nat.add_mod]
    | succ i =>
      have drop : (l.foldr (fun x n => n * 2 ^ w + x % 2 ^ w) 0 * 2 ^ w + x % 2 ^ w) >>> w =
          l.foldr (fun x n => n * 2 ^ w + x % 2 ^ w) 0 := by
        rw [Nat.shiftRight_eq_div_pow, Nat.mul_comm, Nat.mul_add_div (Nat.two_pow_pos w),
          Nat.div_eq_of_lt (Nat.mod_lt x (Nat.two_pow_pos w)), Nat.add_zero]
      have tail := ih i
      unfold bits at tail ⊢
      rw [List.foldr_cons, Nat.mul_succ, Nat.add_comm (w * i) w, Nat.shiftRight_add, drop, tail]
      rfl

theorem elemAt_ofElems (w : Nat) (l : List Nat) {i : Nat} (h : i < 8192 / w) :
    elemAt (ofElems w l) w i = l.getD i 0 % 2 ^ w := by
  rw [← bits_foldr_elems]
  refine Nat.eq_of_testBit_eq fun j => ?_
  have fits := elem_fits h
  simp only [elemAt, bits, ofElems, BitVec.toNat_ofNat, Nat.testBit_mod_two_pow, Nat.testBit_shiftRight]
  by_cases hj : j < w
  · simp [show w * i + j < 8192 by omega]
  · simp [hj]

theorem getElem?_natsFrom (a n i : Nat) (h : i < n) : (natsFrom a n)[i]? = some (a + i) := by
  induction n generalizing a i with
  | zero => omega
  | succ n ih =>
    cases i with
    | zero => rfl
    | succ i =>
      have tail := ih (a + 1) i (by omega)
      rw [show a + (i + 1) = a + 1 + i by omega, ← tail]
      rfl

/-- A register built lane by lane holds each lane's value. -/
theorem elemAt_ofElems_upto (w n : Nat) (f : Nat → Nat) {i : Nat} (h : i < 8192 / w) (hn : i < n) :
    elemAt (ofElems w ((upto n).map f)) w i = f i % 2 ^ w := by
  rw [elemAt_ofElems w _ h, List.getD_eq_getElem?_getD, List.getElem?_map, upto, getElem?_natsFrom 0 n i hn, Nat.zero_add]
  rfl

theorem elemAt_zipElems (w : Nat) (f : Nat → Nat → Nat) (a b : VWord) {i : Nat} (h : i < 8192 / w) :
    elemAt (zipElems w f a b) w i = f (elemAt a w i) (elemAt b w i) % 2 ^ w := elemAt_ofElems_upto w _ _ h h

theorem elemAt_mapElems (w : Nat) (f : Nat → Nat) (a : VWord) {i : Nat} (h : i < 8192 / w) :
    elemAt (mapElems w f a) w i = f (elemAt a w i) % 2 ^ w := elemAt_ofElems_upto w _ _ h h

theorem elemAt_and (a b : VWord) (w i : Nat) : elemAt (a &&& b) w i = elemAt a w i &&& elemAt b w i := by
  simp [elemAt, bits, Nat.shiftRight_and_distrib, Nat.and_mod_two_pow]

theorem elemAt_or (a b : VWord) (w i : Nat) : elemAt (a ||| b) w i = elemAt a w i ||| elemAt b w i := by
  simp [elemAt, bits, Nat.shiftRight_or_distrib, Nat.or_mod_two_pow]

theorem elemAt_xor (a b : VWord) (w i : Nat) : elemAt (a ^^^ b) w i = elemAt a w i ^^^ elemAt b w i := by
  simp [elemAt, bits, Nat.shiftRight_xor_distrib, Nat.xor_mod_two_pow]

theorem elemAt_not (a : VWord) (w : Nat) {i : Nat} (h : i < 8192 / w) : elemAt (~~~a) w i = 2 ^ w - 1 - elemAt a w i := by
  refine Nat.eq_of_testBit_eq fun j => ?_
  have fits := elem_fits h
  rw [Nat.sub_sub, Nat.add_comm 1, Nat.testBit_two_pow_sub_succ (elemAt_lt a w i), testBit_elemAt, testBit_elemAt, BitVec.getLsbD_not]
  by_cases hj : j < w
  · simp [hj, show w * i + j < 8192 by omega]
  · simp [hj]

theorem elemAt_sub_mod (a b : VWord) (k : Nat) :
    (elemAt a 32 k + 2 ^ 32 - elemAt b 32 k) % 2 ^ 32 = (elemAt a 32 k + (2 ^ 32 - elemAt b 32 k)) % 2 ^ 32 := by
  rw [Nat.add_sub_assoc (Nat.le_of_lt (elemAt_lt b 32 k))]

/-! ### Slots and poison bits (R123) -/

/-- A field among the first 64 bits of a register lies in its first slot. -/
theorem slot_low (r : Nat) {lo : Nat} (h : lo < 64) : r + 8 * (lo / 64) = r := by
  rw [Nat.div_eq_of_lt h, Nat.mul_zero, Nat.add_zero]

theorem word_count_low_ne (s : State) (r a : Nat) (f : Field) (k : Nat) (low : f.lo < 64) (h : a ≠ r) :
    (s.count r f k).word a = s.word a := word_count_ne s r a f k (by rwa [slot_low r low])

theorem word_setVpois_ne (s : State) (p a : Nat) {r : Nat} (b : Bool) (hr : r < 64) (h : a ≠ R.VEC_POISON p) :
    (s.setVpois p r b).word a = s.word a := word_wr_ne s _ _ _ _ (by rwa [slot_low _ hr])

/-- A poison bit is a field of one bit of VEC_POISON. -/
theorem vpois_eq_bits (s : State) (p r : Nat) : s.vpois p r = decide (bits (s.word (R.VEC_POISON p)).toNat r 1 = 1) := by
  rw [State.vpois, BitVec.getLsbD, Nat.testBit_eq_decide_div_mod_eq, bits, Nat.shiftRight_eq_div_pow, Nat.pow_one]

/-- The poison bit of a register after that of one register has been written. -/
theorem vpois_setVpois (s : State) (p : Nat) {r : Nat} (q : Nat) (b : Bool) (hr : r < 64) :
    (s.setVpois p r b).vpois p q = if q = r then b else s.vpois p q := by
  have written := word_wr_same s (R.VEC_POISON p) ⟨r, 1⟩ (if b then 1 else 0) (by dsimp only; omega)
  simp only [slot_low _ hr, Nat.mod_eq_of_lt hr] at written
  rw [vpois_eq_bits, vpois_eq_bits, State.setVpois, written]
  rcases Nat.lt_trichotomy q r with below | same | above
  · rw [bits_setBits_below _ _ _ _ _ _ below, if_neg (by omega)]
  · rw [same, bits_setBits_same, if_pos rfl]
    cases b <;> rfl
  · rw [bits_setBits_above _ _ _ _ _ _ above, if_neg (by omega)]

/-! ### What an instruction of one core touches -/

theorem sameBut_trans {p : Nat} {l : List Nat} {s t u : State} (h : sameBut p l s t) (k : sameBut p l t u) : sameBut p l s u := by
  obtain ⟨whole, others, words, stamps⟩ := h
  obtain ⟨whole', others', words', stamps'⟩ := k
  refine ⟨?_, fun q hq => (others' q hq).trans (others q hq), fun a ha => (words' a ha).trans (words a ha),
    fun v hv => (stamps' v hv).trans (stamps v hv)⟩
  rw [whole', whole]

theorem sameBut_mono {p : Nat} {l m : List Nat} {s t : State} (h : sameBut p l s t) (hl : l ⊆ m) : sameBut p m s t := by
  obtain ⟨whole, others, words, stamps⟩ := h
  exact ⟨whole, others, fun a ha => words a (fun hm => ha (hl hm)), stamps⟩

/-- Writing a field changes its slot alone. -/
theorem wr_sameBut (s : State) (p r : Nat) (f : Field) (v : Nat) : sameBut p [r + 8 * (f.lo / 64)] s (s.wr r f v) :=
  ⟨rfl, fun _ _ => rfl, fun a ha => word_wr_ne s r a f v (by simpa using ha), fun _ _ => rfl⟩

theorem setVreg_sameBut (s : State) (p r : Nat) (v : VWord) : sameBut p [] s (s.setVreg p r v) :=
  ⟨rfl, fun q hq => core_setCore_ne s p q _ hq, fun _ _ => rfl, fun _ _ => rfl⟩

theorem setVpois_sameBut (s : State) (p : Nat) {r : Nat} (b : Bool) (hr : r < 64) :
    sameBut p [R.VEC_POISON p] s (s.setVpois p r b) := by
  have field := wr_sameBut s p (R.VEC_POISON p) ⟨r, 1⟩ (if b then 1 else 0)
  rwa [slot_low _ hr] at field

theorem core_setVreg (s : State) (p r : Nat) (v : VWord) :
    (s.setVreg p r v).core p = { s.core p with vregs := ((s.setVreg p r v).core p).vregs } := by
  simp [State.setVreg]

theorem core_commitAt (s : State) (p : Nat) (v : Word) :
    (s.commitAt p v).core p = { s.core p with seqP := (none, none, none) } := by
  obtain ⟨-, boundary, -⟩ := seqBoundary_frame (s.setPc p v) p
  rw [State.commitAt, core_stamp, boundary, core_setPc]

/-- A commit leaves every slot but the program counter and SEQ_CTRL. -/
theorem word_commitAt_ne (s : State) (p a : Nat) (v : Word) (hp : p < 104) (h : a ∉ [R.SEQ_PC p, R.SEQ_CTRL p]) :
    (s.commitAt p v).word a = s.word a := by
  obtain ⟨-, -, words, -⟩ := commitAt_sameBut s p v hp
  exact words a h

/-! ### Completion of a vector instruction -/

@[simp] theorem vreg_setVpois (s : State) (p r q : Nat) (b : Bool) : (s.setVpois p r b).vreg p q = s.vreg p q := by
  rw [State.vreg, State.setVpois, core_wr, State.vreg]

@[simp] theorem vreg_count (s : State) (p q r : Nat) (f : Field) (k : Nat) : (s.count r f k).vreg p q = s.vreg p q := by
  rw [State.vreg, core_count, State.vreg]

@[simp] theorem vreg_vecDone (s : State) (p r : Nat) : (s.vecDone p).vreg p r = s.vreg p r := by
  rw [State.vecDone, State.commit, vreg_commitAt, vreg_count]

theorem core_vecDone (s : State) (p : Nat) : (s.vecDone p).core p = { s.core p with seqP := (none, none, none) } := by
  rw [State.vecDone, State.commit, core_commitAt, core_count]

theorem word_vecDone_ne (s : State) (p a : Nat) (hp : p < 104) (h : a ∉ [R.SEQ_PC p, R.SEQ_CTRL p]) (perf : a ≠ R.VEC_PERF p) :
    (s.vecDone p).word a = s.word a :=
  (word_commitAt_ne _ p a _ hp h).trans (word_count_low_ne s _ a _ 1 (by decide) perf)

theorem vpois_vecDone (s : State) (p r : Nat) (hp : p < 104) : (s.vecDone p).vpois p r = s.vpois p r := by
  unfold State.vpois
  rw [word_vecDone_ne s p _ hp (by simp [R.VEC_POISON, R.SEQ_PC, R.SEQ_CTRL]) (by simp [R.VEC_POISON, R.VEC_PERF])]

theorem pc_vecDone (s : State) (p : Nat) : (s.vecDone p).pc p = s.pc p + 8 := by
  rw [State.vecDone, State.commit, pc_commitAt]
  congr 1
  exact word_count_low_ne s _ _ _ 1 (by decide) (by simp [R.SEQ_PC, R.VEC_PERF])

theorem insns_vecDone (s : State) (p : Nat) (hp : p < 104) :
    (s.vecDone p).rd (R.VEC_PERF p) F.VEC_PERF.INSNS = (s.rd (R.VEC_PERF p) F.VEC_PERF.INSNS + 1) % 65536 := by
  calc (s.vecDone p).rd (R.VEC_PERF p) F.VEC_PERF.INSNS
    _ = (s.count (R.VEC_PERF p) F.VEC_PERF.INSNS 1).rd (R.VEC_PERF p) F.VEC_PERF.INSNS := by
        unfold State.rd
        exact congrArg (fun x : Word => bits x.toNat _ _)
          (word_commitAt_ne _ p _ _ hp (by simp [R.VEC_PERF, R.SEQ_PC, R.SEQ_CTRL, F.VEC_PERF.INSNS]))
    _ = (s.rd (R.VEC_PERF p) F.VEC_PERF.INSNS + 1) % 65536 := rd_wr_same s _ _ _ (by decide)

theorem vecDone_sameBut (s : State) (p : Nat) (hp : p < 104) :
    sameBut p [R.SEQ_PC p, R.SEQ_CTRL p, R.VEC_PERF p] s (s.vecDone p) :=
  sameBut_trans (sameBut_mono (wr_sameBut s p _ _ _) (by simp [F.VEC_PERF.INSNS]))
    (sameBut_mono (commitAt_sameBut _ p _ hp) (by simp))

/-! ### A vector instruction that writes every element of one register -/

/-- The instruction has committed: the `w`-bit elements of `rd` hold `f`, `rd` is poisoned where one of `src` was, the instruction is counted, and
nothing else of the state has changed (R123, R149). -/
def VecWrote (t u : State) (p : CoreId) (rd : VReg) (w : Nat) (src : List Nat) (f : Nat → Nat) : Prop :=
  (∀ k, k < 8192 / w → elemAt (u.vreg p rd) w k = f k % 2 ^ w) ∧
  u.vpois p rd = src.any (t.vpois p) ∧ (∀ r : VReg, r ≠ rd → u.vreg p r = t.vreg p r ∧ u.vpois p r = t.vpois p r) ∧
  committed p 8 t u ∧ u.rd (R.VEC_PERF p) F.VEC_PERF.INSNS = (t.rd (R.VEC_PERF p) F.VEC_PERF.INSNS + 1) % 65536 ∧
  sameBut p [R.SEQ_PC p, R.SEQ_CTRL p, R.VEC_POISON p, R.VEC_PERF p] t u ∧
  u.core p = { t.core p with vregs := (u.core p).vregs, seqP := (none, none, none) }

/-- An instruction that may issue and reports no failing check puts its result and its poison into `rd` and completes. -/
theorem vecOp_noFault {s t : State} {p : CoreId} {c : Nat} (h : s.issues p 8 c t) (rd : Nat) (src : List Nat) (checked : Bool)
    (v : State → VWord) (w : Nat) (bad : State → Int → Nat → Option Nat) :
    s.vecOp p true rd src checked noFault v w bad = ((t.setVreg p rd (v t)).setVpois p rd (src.any (t.vpois p))).vecDone p := by
  have found : errFound noFault = false := by decide
  have parity : noFault.parity = false := rfl
  have hit : ∀ b x, t.hit noFault w b x = (t, x) := fun _ _ => if_pos rfl
  simp [State.vecOp, found, parity, issue_runs _ _ _ _ _ _ h, hit]

/-- Once it has completed, its result stands in `rd`, and nothing has changed that it does not name. -/
theorem vecDone_vecWrote (t : State) (p : CoreId) (rd : VReg) (w : Nat) (src : List Nat) (f : Nat → Nat) (x : VWord)
    (hx : ∀ k, k < 8192 / w → elemAt x w k = f k % 2 ^ w) :
    VecWrote t (((t.setVreg p rd x).setVpois p rd (src.any (t.vpois p))).vecDone p) p rd w src f := by
  have kept : ∀ a, a ≠ R.VEC_POISON p → ((t.setVreg p rd x).setVpois p rd (src.any (t.vpois p))).word a = t.word a :=
    fun a ha => word_setVpois_ne _ p a _ rd.isLt ha
  refine ⟨fun k hk => ?elements, ?poison, fun r hr => ⟨?register, ?otherPoison⟩, ?pc, ?count, ?frame, ?core⟩
  case elements => rw [vreg_vecDone, vreg_setVpois, vreg_setVreg_same, hx k hk]
  case poison => rw [vpois_vecDone _ p _ p.isLt, vpois_setVpois _ p _ _ rd.isLt, if_pos rfl]
  case register => rw [vreg_vecDone, vreg_setVpois, vreg_setVreg_ne _ _ _ _ _ (Fin.val_ne_of_ne hr)]
  case otherPoison =>
    rw [vpois_vecDone _ p _ p.isLt, vpois_setVpois _ p _ _ rd.isLt, if_neg (Fin.val_ne_of_ne hr)]
    rfl
  case pc =>
    unfold committed
    rw [pc_vecDone]
    congr 1
    exact kept _ (by simp [R.SEQ_PC, R.VEC_POISON])
  case count =>
    rw [insns_vecDone _ p p.isLt]
    unfold State.rd
    rw [kept _ (by simp [R.VEC_PERF, R.VEC_POISON, F.VEC_PERF.INSNS])]
  case frame =>
    have register := setVreg_sameBut t p rd x
    have poison := setVpois_sameBut (t.setVreg p rd x) p (src.any (t.vpois p)) rd.isLt
    have completion := vecDone_sameBut ((t.setVreg p rd x).setVpois p rd (src.any (t.vpois p))) p p.isLt
    exact sameBut_trans (sameBut_mono register (by simp)) (sameBut_trans (sameBut_mono poison (by simp)) (sameBut_mono completion (by simp)))
  case core =>
    rw [core_vecDone, State.setVpois, core_wr, core_setVreg]

/-- An instruction that may issue and reports no failing check writes the elements of its result. -/
theorem vecOp_vecWrote {s t : State} {p : CoreId} {c : Nat} (h : s.issues p 8 c t) {legal : Bool} (ok : legal = true) {rd : VReg}
    {src : List Nat} {checked : Bool} {flt : VFault} (sound : flt = noFault) {v : State → VWord} {w w' : Nat}
    {bad : State → Int → Nat → Option Nat} {f : Nat → Nat}
    (value : ∀ k, k < 8192 / w → elemAt (v t) w k = f k % 2 ^ w) :
    VecWrote t (s.vecOp p legal rd src checked flt v w' bad) p rd w src f := by
  rw [ok, sound, vecOp_noFault h]
  exact vecDone_vecWrote t p rd w src f (v t) value

/-- Counting it as a transform too (VEC_PERF.XFM_INSNS) changes another field of VEC_PERF. -/
theorem vecWrote_count_xfm {t u : State} {p : CoreId} {rd : VReg} {w : Nat} {src : List Nat} {f : Nat → Nat}
    (h : VecWrote t u p rd w src f) : VecWrote t (u.count (R.VEC_PERF p) F.VEC_PERF.XFM_INSNS 1) p rd w src f := by
  obtain ⟨elements, poison, others, pc, count, frame, core⟩ := h
  have kept : ∀ a, a ≠ R.VEC_PERF p → (u.count (R.VEC_PERF p) F.VEC_PERF.XFM_INSNS 1).word a = u.word a :=
    fun a ha => word_count_low_ne u _ a _ 1 (by decide) ha
  have vpois : ∀ r, (u.count (R.VEC_PERF p) F.VEC_PERF.XFM_INSNS 1).vpois p r = u.vpois p r := fun r => by
    unfold State.vpois
    rw [kept _ (by simp [R.VEC_POISON, R.VEC_PERF])]
  refine ⟨fun k hk => ?elements, ?poison, fun r hr => ⟨?register, ?otherPoison⟩, ?pc, ?count, ?frame, ?core⟩
  case elements => rw [vreg_count, elements k hk]
  case poison => rw [vpois, poison]
  case register => rw [vreg_count, (others r hr).1]
  case otherPoison => rw [vpois, (others r hr).2]
  case core => rw [core_count, core]
  case pc =>
    unfold committed State.pc at pc ⊢
    rw [kept _ (by simp [R.SEQ_PC, R.VEC_PERF]), pc]
  case count =>
    rw [State.count, rd_wr_field u _ F.VEC_PERF.XFM_INSNS F.VEC_PERF.INSNS _ (by decide) (by decide), count]
  case frame => exact sameBut_trans frame (sameBut_mono (wr_sameBut u p _ _ _) (by simp [F.VEC_PERF.XFM_INSNS]))

/-- Whether the completion is also counted as a transform's makes no difference to the result. -/
theorem vecWrote_ite_count_xfm {t u : State} {p : CoreId} {rd : VReg} {w : Nat} {src : List Nat} {f : Nat → Nat} (b : Bool)
    (h : VecWrote t u p rd w src f) :
    VecWrote t (if b then u.count (R.VEC_PERF p) F.VEC_PERF.XFM_INSNS 1 else u) p rd w src f := by
  cases b
  · exact h
  · exact vecWrote_count_xfm h

/-! ### The statement -/

/-- Settles O14: each instruction is the shared operation with a result of its own, whose elements are those of the manual. -/
theorem vectorInstruction : Obligations.VectorInstruction := by
  intro i s t c p rd w src f result wf checks issues
  change ∃ u, exec i s = .next u ∧ VecWrote t u p rd w src f
  cases i with
  | vecAdd | vecSub | vecMul | vecMax | vecMin | vecIadd | vecImul | vecSar | vecCmp =>
    cases result
    exact ⟨_, rfl, vecOp_vecWrote issues wf checks fun k hk => elemAt_zipElems _ _ _ _ hk⟩
  | vecRcp | vecRsq | vecExp2 | vecLog2 =>
    cases result
    exact ⟨_, rfl, vecOp_vecWrote issues wf checks fun k hk => elemAt_mapElems _ _ _ hk⟩
  | vecFma | vecClass =>
    cases result
    exact ⟨_, rfl, vecOp_vecWrote issues wf checks fun k hk => elemAt_ofElems_upto _ _ _ hk hk⟩
  | vecSel =>
    cases result
    exact ⟨_, rfl, vecOp_vecWrote issues wf checks fun k hk => by rw [elemAt_ofElems_upto _ _ _ hk hk, ite_not]⟩
  | vecRed =>
    cases result
    exact ⟨_, rfl, vecOp_vecWrote issues wf checks fun k hk => elemAt_ofElems _ _ hk⟩
  | vecIsub =>
    cases result
    exact ⟨_, rfl, vecOp_vecWrote issues wf checks fun k hk => (elemAt_zipElems _ _ _ _ hk).trans (elemAt_sub_mod _ _ k)⟩
  | vecShl =>
    cases result
    exact ⟨_, rfl, vecOp_vecWrote issues wf checks fun k hk => by rw [Nat.shiftLeft_eq, elemAt_zipElems _ _ _ _ hk]⟩
  | vecShr =>
    cases result
    exact ⟨_, rfl, vecOp_vecWrote issues wf checks fun k hk => by rw [Nat.shiftRight_eq_div_pow, elemAt_zipElems _ _ _ _ hk]⟩
  | vecAnd =>
    cases result
    exact ⟨_, rfl, vecOp_vecWrote issues wf checks fun k hk => by rw [← elemAt_and, elemAt_mod]⟩
  | vecOr =>
    cases result
    exact ⟨_, rfl, vecOp_vecWrote issues wf checks fun k hk => by rw [← elemAt_or, elemAt_mod]⟩
  | vecXor =>
    cases result
    exact ⟨_, rfl, vecOp_vecWrote issues wf checks fun k hk => by rw [← elemAt_xor, elemAt_mod]⟩
  | vecNot =>
    cases result
    exact ⟨_, rfl, vecOp_vecWrote issues wf checks fun k hk => by rw [← elemAt_not _ _ hk, elemAt_mod]⟩
  | vecXfm =>
    cases result
    exact ⟨_, rfl, vecWrote_ite_count_xfm _ (vecOp_vecWrote issues wf checks fun k _ => (elemAt_mod _ _ k).symm)⟩
  -- No other command writes every element of one vector register.
  | _ => cases result

end Sys2Proof.Proofs
end

section
/-!
PROOFS. The instructions that write one scalar register (R150, R173), and the branches and jumps (R152 to R154): what a commit with a scalar
result does, what the end of a window of run-ahead leaves unchanged, and the statement about them.
-/
namespace Sys2Proof.Proofs
open Sys2Proof.Machine Sys2Proof.Laws

/-! ### A scalar result (R32, R149) -/

theorem setSreg_sameBut (s : State) (p : Nat) (rd : SReg) (v : Word) : sameBut p [] s (s.setSreg p rd v) := by
  obtain ⟨whole, -⟩ := setSreg_frame s p rd v
  refine ⟨?_, fun q hq => core_setSreg_ne s p q rd v hq, fun a _ => word_setSreg s p rd v a, fun w _ => ?_⟩
  · rw [whole]
  · rw [whole]

theorem core_setSreg (s : State) (p : Nat) (rd : SReg) (v : Word) :
    (s.setSreg p rd v).core p = { s.core p with sregs := ((s.setSreg p rd v).core p).sregs } := by
  obtain ⟨-, core⟩ := setSreg_frame s p rd v
  exact core

theorem core_commitReg (s : State) (p : Nat) (rd : SReg) (v : Word) :
    (s.commitReg p rd v).core p = { s.core p with sregs := ((s.commitReg p rd v).core p).sregs, seqP := (none, none, none) } := by
  rw [State.commitReg, State.commit, core_commitAt, core_setSreg]

/-- A destination register holds the value written to it; s0 reads as zero. -/
theorem sreg_setSreg_dest (s : State) (p : Nat) (rd : SReg) (v : Word) :
    (s.setSreg p rd v).sreg p rd = if rd = 0 then 0 else v := by
  by_cases h : rd = 0
  · rw [if_pos h, h, setSreg_zero, sreg_zero]
  · rw [if_neg h, sreg_setSreg_same s p rd v h]

/-- The instruction has committed with the value `v` in `rd`; a write to s0 is discarded, and nothing else has changed but the values that
SEQ_CTRL took at the boundary. -/
def ScalarWrote (t u : State) (p : CoreId) (rd : SReg) (v : Word) : Prop :=
  u.sreg p rd = (if rd = 0 then 0 else v) ∧ (∀ r, r ≠ rd → u.sreg p r = t.sreg p r) ∧
  committed p 8 t u ∧ sameBut p [R.SEQ_PC p, R.SEQ_CTRL p] t u ∧
  u.core p = { t.core p with sregs := (u.core p).sregs, seqP := (none, none, none) }

theorem commitReg_scalarWrote (t : State) (p : CoreId) (rd : SReg) (v : Word) : ScalarWrote t (t.commitReg p rd v) p rd v := by
  have result := fun q => commitReg_result t p rd q v
  refine ⟨?dest, fun r hr => ?others, ?pc, commitReg_sameBut t p rd v p.isLt, core_commitReg t p rd v⟩
  case dest => rw [State.commitReg, State.commit, sreg_commitAt, sreg_setSreg_dest]
  case others => rw [(result r).1, if_neg fun h => hr h.1]
  case pc => exact (result rd).2

/-- An instruction that may issue writes the value its operands give. -/
theorem scalar_scalarWrote {s t : State} {p : CoreId} {c : Nat} (h : s.issues p 8 c t) (rd : SReg) {f : State → Word} {v : Word}
    (value : f t = v) : ScalarWrote t (s.scalar p true rd f) p rd v := by
  rw [State.scalar, issue_runs _ _ _ _ _ _ h, value]
  exact commitReg_scalarWrote t p rd v

/-! ### Values (Tables 46 and 47) -/

theorem truth_slt (a b : Word) : truth (a.slt b) = if a.toInt < b.toInt then 1 else 0 := by
  simp [truth, BitVec.slt]

theorem truth_ult (a b : Word) : truth (a.ult b) = if a.toNat < b.toNat then 1 else 0 := by
  simp [truth, BitVec.ult]

theorem toInt_sext_imm40 (imm : BitVec 40) : (sext imm).toInt = imm.toInt := BitVec.toInt_signExtend_of_le (by decide)

/-- SCL.LIH puts its 24 bits above the low 40 bits of RA. -/
theorem lih_value (a : Word) (imm : BitVec 24) :
    (a &&& 0xFFFFFFFFFF) ||| (imm.zeroExtend 64 <<< 40) = BitVec.ofNat 64 (a.toNat % 2 ^ 40 + imm.toNat * 2 ^ 40) := by
  have low : a.toNat % 2 ^ 40 < 2 ^ 40 := Nat.mod_lt _ (by decide)
  have high := imm.isLt
  apply BitVec.eq_of_toNat_eq
  have mask : a.toNat &&& 0xFFFFFFFFFF = a.toNat % 2 ^ 40 := Nat.and_two_pow_sub_one_eq_mod a.toNat 40
  have shifted : (imm.zeroExtend 64 <<< 40).toNat = 2 ^ 40 * imm.toNat := by
    rw [BitVec.toNat_shiftLeft, BitVec.zeroExtend, BitVec.toNat_setWidth, Nat.shiftLeft_eq]
    omega
  rw [BitVec.toNat_or, BitVec.toNat_and, shifted, BitVec.toNat_ofNat, Nat.or_comm]
  change 2 ^ 40 * imm.toNat ||| (a.toNat &&& 0xFFFFFFFFFF) = _
  rw [mask, ← Nat.two_pow_add_eq_or_of_lt low]
  omega

/-- What SCL.INFO returns to a context is the table's entry, for each selector that the encoding admits. -/
theorem infoValue_eq_table (t : State) (p : Nat) {c sel : Nat} (hc : c < 16) (legal : sel ≤ 5) :
    t.infoValue p c sel = (infoTable t p c).getD sel 0 := by
  have context : c ≠ jigCtx := Nat.ne_of_lt hc
  unfold State.infoValue infoTable
  rw [if_neg (by simp [context])]
  match sel, legal with
  | 0, _ | 1, _ | 2, _ | 3, _ | 4, _ | 5, _ => rfl

/-- Counting in a field among a register's first 64 bits changes its first slot alone. -/
theorem count_sameBut (s : State) (p r : Nat) (f : Field) (k : Nat) (low : f.lo < 64) : sameBut p [r] s (s.count r f k) := by
  have field := wr_sameBut s p r f (s.rd r f + k)
  rwa [slot_low r low] at field

/-! ### Branches: the end of a window of run-ahead (R36, R154) -/

/-- Run-ahead data of core `p` may have gone, and the instructions squashed with it are counted: nothing else has changed. -/
def AheadResolved (p : Nat) (t u : State) : Prop :=
  sameBut p [R.SEQ_PERF p] t u ∧ u.core p = { t.core p with ahead := (u.core p).ahead }

theorem aheadResolved_refl (p : Nat) (t : State) : AheadResolved p t t :=
  ⟨⟨rfl, fun _ _ => rfl, fun _ _ => rfl, fun _ _ => rfl⟩, rfl⟩

theorem setAhead_aheadResolved (t : State) (p : Nat) (w : Option RunAhead) :
    AheadResolved p t (t.setCore p { t.core p with ahead := w }) := by
  refine ⟨⟨rfl, fun q hq => core_setCore_ne t p q _ hq, fun _ _ => rfl, fun _ _ => rfl⟩, ?_⟩
  rw [core_setCore_same]

theorem retireAhead_aheadResolved (t : State) (p : Nat) : AheadResolved p t (t.retireAhead p) := by
  unfold State.retireAhead
  cases (t.core p).window with
  | none => exact aheadResolved_refl p t
  | some w => exact setAhead_aheadResolved t p _

theorem mispredict_aheadResolved (t : State) (p : Nat) : AheadResolved p t (t.mispredict p) := by
  unfold State.mispredict
  cases (t.core p).window with
  | none => exact aheadResolved_refl p t
  | some w =>
    obtain ⟨frame, core⟩ := setAhead_aheadResolved t p none
    refine ⟨sameBut_trans frame (count_sameBut _ p _ _ _ (by decide)), ?_⟩
    rw [core_count]
    exact core

theorem aheadResolved_pc {p : Nat} {t u : State} (h : AheadResolved p t u) : u.pc p = t.pc p := by
  obtain ⟨⟨-, -, words, -⟩, -⟩ := h
  exact words _ (by simp [R.SEQ_PC, R.SEQ_PERF])

theorem aheadResolved_sreg {p : Nat} {t u : State} (h : AheadResolved p t u) (r : SReg) : u.sreg p r = t.sreg p r := by
  obtain ⟨-, core⟩ := h
  unfold State.sreg
  rw [core]

/-- The branch has gone to `target` with its return address in `rd`; other scalar registers and the memories keep their values. -/
def Branched (t u : State) (p : CoreId) (rd : SReg) (target : Word) : Prop :=
  u.pc p = target ∧ u.sreg p rd = (if rd = 0 then 0 else t.pc p + 8) ∧
  (∀ r, r ≠ rd → u.sreg p r = t.sreg p r) ∧ sameBut p [R.SEQ_PC p, R.SEQ_CTRL p, R.SEQ_PERF p] t u ∧
  u.core p = { t.core p with sregs := (u.core p).sregs, ahead := (u.core p).ahead, seqP := (none, none, none) }

/-- A commit at `target`, once run-ahead is resolved and the return address stands in `rd`, is such a branch. -/
theorem commitAt_branched {p : CoreId} {t r : State} (h : AheadResolved p t r) (rd : SReg) {back target goal : Word}
    (link : back = t.pc p + 8) (goes : target = goal) : Branched t ((r.setSreg p rd back).commitAt p target) p rd goal := by
  obtain ⟨resolved, ahead⟩ := h
  refine ⟨?pc, ?link, fun q hq => ?others, ?frame, ?core⟩
  case pc => rw [pc_commitAt, goes]
  case link => rw [sreg_commitAt, sreg_setSreg_dest, link]
  case others => rw [sreg_commitAt, sreg_setSreg_ne _ _ _ _ _ hq, aheadResolved_sreg ⟨resolved, ahead⟩]
  case frame =>
    have register := setSreg_sameBut r p rd back
    have commit := commitAt_sameBut (r.setSreg p rd back) p target p.isLt
    exact sameBut_trans (sameBut_mono resolved (by simp)) (sameBut_trans (sameBut_mono register (by simp)) (sameBut_mono commit (by simp)))
  case core => rw [core_commitAt, core_setSreg, ahead]

/-- A taken branch goes to its offset, one that is not taken to the next instruction (R152, R153). -/
theorem branchResult_ctlBr (s : State) (p : CoreId) (cond : Cond) (hint : Bool) (ra rb : SReg) (off : BitVec 34) :
    branchResult s (.ctlBr p cond hint ra rb off) =
      some (p, 0, if condHolds cond (s.sreg p ra) (s.sreg p rb) then s.branchTo p off else s.pc p + 8) := by
  cases cond with
  | eq => simp [branchResult, condHolds, State.branchTo, sext]
  | ne => simp [branchResult, condHolds, State.branchTo, sext]
  | lt | ltu => rfl
  | ge => simp [branchResult, condHolds, State.branchTo, sext, BitVec.slt]
  | geu => simp [branchResult, condHolds, State.branchTo, sext, BitVec.ult]

/-! ### The statement -/

/-- Settles O9: a scalar instruction is a commit with the table's value, a branch is a commit at its target once run-ahead is resolved. -/
theorem scalarAndBranchInstructions : Obligations.ScalarAndBranchInstructions := by
  refine ⟨fun i s t c p rd v result wf issues => ?scalar, fun i s t c p rd target result issues => ?branch⟩
  case scalar =>
    change ∃ u, exec i s = .next u ∧ ScalarWrote t u p rd v
    have ⟨context, _⟩ := issues
    cases i with
    | sclAdd | sclSub | sclMul | sclAnd | sclOr | sclXor | sclShl | sclShr | sclSar | sclAddi | sclAndi | sclOri | sclXori | sclShli
    | sclShri | sclSari | sclLi =>
      cases result
      exact ⟨_, rfl, scalar_scalarWrote issues _ rfl⟩
    | sclSlt =>
      cases result
      exact ⟨_, rfl, scalar_scalarWrote issues _ (truth_slt _ _)⟩
    | sclSltu =>
      cases result
      exact ⟨_, rfl, scalar_scalarWrote issues _ (truth_ult _ _)⟩
    | sclSlti =>
      cases result
      exact ⟨_, rfl, scalar_scalarWrote issues _ ((truth_slt _ _).trans (by rw [toInt_sext_imm40]))⟩
    | sclLih =>
      cases result
      exact ⟨_, rfl, scalar_scalarWrote issues _ (lih_value _ _)⟩
    | sclInfo p rd sel =>
      cases result
      refine ⟨_, rfl, ?_⟩
      rw [wf, issue_runs _ _ _ _ _ _ issues, infoValue_eq_table t p context (of_decide_eq_true wf)]
      exact commitReg_scalarWrote t p rd _
    | scaLsget p rd =>
      cases result
      refine ⟨_, rfl, ?_⟩
      rw [issue_runs _ _ _ _ _ _ issues, State.ofCtx, if_neg (show c ≠ jigCtx from Nat.ne_of_lt context)]
      exact commitReg_scalarWrote t p rd _
    -- No other command has a scalar result of these tables.
    | _ => cases result
  case branch =>
    change ∃ u, exec i s = .next u ∧ Branched t u p rd target
    cases i with
    | ctlBr p cond hint ra rb off =>
      rw [branchResult_ctlBr] at result
      cases result
      refine ⟨_, rfl, ?_⟩
      rw [issue_runs _ _ _ _ _ _ issues]
      have resolved : AheadResolved p t
          (if hint = condHolds cond (t.sreg p ra) (t.sreg p rb) then t.retireAhead p else t.mispredict p) := by
        split
        · exact retireAhead_aheadResolved t p
        · exact mispredict_aheadResolved t p
      refine commitAt_branched resolved 0 rfl ?_
      rw [State.branchTo, aheadResolved_pc resolved, State.branchTo]
    | ctlJmp p rd off =>
      cases result
      refine ⟨_, rfl, ?_⟩
      rw [issue_runs _ _ _ _ _ _ issues]
      exact commitAt_branched (retireAhead_aheadResolved t p) rd rfl rfl
    | ctlJr p rd ra =>
      cases result
      refine ⟨_, rfl, ?_⟩
      rw [issue_runs _ _ _ _ _ _ issues]
      exact commitAt_branched (retireAhead_aheadResolved t p) rd rfl rfl
    -- No other command is a branch or a jump.
    | _ => cases result

end Sys2Proof.Proofs
end

section
/-!
PROOFS. No jig begins while a core fetches (R146, R330): a fetch walks page tables and reads tiles, which may merge writes, file records and so
begin a reset, and none of these puts a core into jig mode. A program that issues thus has the slot of its own context, not the jig's workspace.
-/
namespace Sys2Proof.Proofs
open Sys2Proof.Machine Sys2Proof.Laws

/-- Core `p` runs no jig's pattern. It unfolds where it is asked to: a proof about an operation goes through the rules below. -/
@[irreducible] def NoJig (p : Nat) (s : State) : Prop := s.jigging p = false

section
variable {p : Nat} {s t : State}

/-! ### Updates of the state outside the cores -/

theorem NoJig.of_cores (h : NoJig p s) (e : t.cores = s.cores) : NoJig p t := by
  unfold NoJig State.jigging State.core at h ⊢
  rwa [e]

theorem NoJig.setWord {a : Nat} {v : Word} (h : NoJig p s) : NoJig p (s.setWord a v) := h.of_cores rfl
theorem NoJig.wr {r : Nat} {f : Field} {v : Nat} (h : NoJig p s) : NoJig p (s.wr r f v) := h.of_cores rfl
theorem NoJig.bump {r : Nat} {f : Field} {k : Nat} (h : NoJig p s) : NoJig p (s.bump r f k) := h.of_cores rfl
theorem NoJig.count {r : Nat} {f : Field} {k : Nat} (h : NoJig p s) : NoJig p (s.count r f k) := h.of_cores rfl
theorem NoJig.stamp {u : Nat} (h : NoJig p s) : NoJig p (s.stamp u) := h.of_cores rfl
theorem NoJig.setCtx {c : Nat} {x : Ctx} (h : NoJig p s) : NoJig p (s.setCtx c x) := h.of_cores rfl
theorem NoJig.setPlinth {i : Nat} {x : Plinth} (h : NoJig p s) : NoJig p (s.setPlinth i x) := h.of_cores rfl
theorem NoJig.setLog {d : Nat} {x : ErrLog} (h : NoJig p s) : NoJig p (s.setLog d x) := h.of_cores rfl
theorem NoJig.showEsc (h : NoJig p s) : NoJig p s.showEsc := h.of_cores rfl
theorem NoJig.withRecov {x : Recov} (h : NoJig p s) : NoJig p { s with recov := x } := h.of_cores rfl
theorem NoJig.withCdc {x : List CdcWait} (h : NoJig p s) : NoJig p { s with cdc := x } := h.of_cores rfl
theorem NoJig.withPins {x : Pins} (h : NoJig p s) : NoJig p { s with pins := x } := h.of_cores rfl
theorem NoJig.showAwake {d : Nat} (h : NoJig p s) : NoJig p (s.showAwake d) := h.wr
theorem NoJig.admitWakes {d : Nat} (h : NoJig p s) : NoJig p (s.admitWakes d) := h.of_cores rfl
theorem NoJig.draw (h : NoJig p s) : NoJig p s.draw := h.of_cores rfl
theorem NoJig.withBiWait {x : List BiWait} (h : NoJig p s) : NoJig p { s with biWait := x } := h.of_cores rfl

theorem NoJig.keepHeld {k : Coll} (h : NoJig p s) : NoJig p (s.keepHeld k) := h.of_cores rfl
theorem NoJig.saveRepair {i : Nat} (h : NoJig p s) : NoJig p (s.saveRepair i) := h.of_cores rfl
theorem NoJig.poisonTile {i : Nat} (h : NoJig p s) : NoJig p (s.poisonTile i) := h.of_cores rfl
theorem NoJig.wcbDrop {i : Nat} (h : NoJig p s) : NoJig p (s.wcbDrop i) := h.of_cores rfl

theorem NoJig.park {i : Nat} {x : Parked} (h : NoJig p s) : NoJig p (s.park i x) := by
  unfold State.park State.showShelf
  exact h.setPlinth.wr.wr

theorem NoJig.emit {o : Out} (h : NoJig p s) : NoJig p (s.emit o) := by
  unfold State.emit
  cases o.link <;> exact h.of_cores rfl

/-! ### Composition -/

theorem NoJig.ite {c : Prop} [Decidable c] (h : NoJig p s) (k : NoJig p t) : NoJig p (if c then s else t) := by
  split
  · exact h
  · exact k

theorem NoJig.fst {α : Type} {b : α} (h : NoJig p s) : NoJig p (s, b).1 := h

theorem NoJig.iteFst {α : Type} {c : Prop} [Decidable c] {x y : State × α} (h : NoJig p x.1) (k : NoJig p y.1) :
    NoJig p (if c then x else y).1 := by
  split
  · exact h
  · exact k

theorem NoJig.foldl {α : Type} {f : State → α → State} {l : List α} (h : NoJig p s) (each : ∀ s a, NoJig p s → NoJig p (f s a)) :
    NoJig p (l.foldl f s) := by
  induction l generalizing s with
  | nil => exact h
  | cons a l ih => exact ih (each s a h)

/-- A core may be replaced by one that runs a jig only where it did. -/
theorem NoJig.setCore {q : Nat} {x : Core} (h : NoJig p s) (keeps : (s.core q).jigging = false → x.jigging = false) :
    NoJig p (s.setCore q x) := by
  unfold NoJig State.jigging at h ⊢
  by_cases same : p = q
  · subst same
    rw [core_setCore_same]
    exact keeps h
  · rwa [core_setCore_ne s q p x same]

/-! ### Cairns (R362 to R365) -/

theorem NoJig.keepSummary {c : Cairn} (h : NoJig p s) : NoJig p (s.keepSummary c) :=
  (NoJig.foldl h fun _ _ k => k.setWord).wr.withRecov

theorem NoJig.cdcMode {m : Nat} (h : NoJig p s) : NoJig p (s.cdcMode m) := by
  unfold State.cdcMode
  exact .ite h (.ite h.wr h.wr.withCdc.wr)

theorem NoJig.nextCairn (h : NoJig p s) : NoJig p s.nextCairn := by
  unfold State.nextCairn
  dsimp only
  split
  · exact h.withRecov.withRecov.wr.cdcMode
  · exact h.withRecov

theorem NoJig.assertFault {cause : Nat} (h : NoJig p s) : NoJig p (s.assertFault cause) := by
  unfold State.assertFault
  exact .ite h h.keepSummary.withPins.wr.showEsc.emit

theorem NoJig.storeCairn {c : Cairn} {logs : List Nat} {truncated : Bool} {bad : BitVec 8} (h : NoJig p s) :
    NoJig p (s.storeCairn c logs truncated bad) := by
  have kept (c : Cairn) : NoJig p (s.draw.keepSummary c) := h.draw.keepSummary
  unfold State.storeCairn
  refine NoJig.nextCairn (.cdcMode (.wr (.withRecov ?_)))
  cases s.takingSlot bad with
  | none => exact kept _
  | some k => exact (kept _).withRecov.wr

theorem NoJig.endCairn {run : ResetRun} {truncated : Bool} {bad : BitVec 8} (h : NoJig p s) : NoJig p (s.endCairn run truncated bad) := by
  unfold State.endCairn
  cases s.recov.cairn with
  | none => exact h
  | some c => exact .ite h.storeCairn h

theorem NoJig.preempt {d : Nat} (h : NoJig p s) : NoJig p (s.preempt d) := by
  unfold State.preempt
  dsimp only
  split
  · exact h
  · exact h.setLog

/-! ### The end of a jig (Table 105 step 6) -/

theorem NoJig.setCube {q c : Nat} {x : Cube} (h : NoJig p s) : NoJig p (s.setCube q c x) := NoJig.setCore h fun k => k

theorem NoJig.putImage {q : Nat} {m : SaveImage} (h : NoJig p s) : NoJig p (s.putImage q m) := by
  have registers : NoJig p (s.setCore q { s.core q with sregs := m.sregs, vregs := m.vregs }) := NoJig.setCore h fun k => k
  exact (NoJig.foldl registers.setWord fun _ _ k => k.setCube.setWord.wr).setWord.setWord.setWord

theorem NoJig.unbench {q : Nat} {d : List Byte} (h : NoJig p s) : NoJig p (s.unbench q d) :=
  NoJig.foldl h.putImage fun _ _ k => k.setCube

theorem NoJig.unshadow {q : Nat} {r : JigRun} (h : NoJig p s) : NoJig p (s.unshadow q r) := by
  have reset : NoJig p (s.resetSlots (jigShadow q)) := h.of_cores rfl
  exact (NoJig.foldl (NoJig.foldl reset fun _ _ k => k.setWord) fun _ _ k => k.setWord.setCube).wr

theorem NoJig.gateCore {q : Nat} (h : NoJig p s) : NoJig p (s.gateCore q) := by
  have reset : NoJig p (s.resetSlots (inCoreWindow q)) := h.of_cores rfl
  exact (NoJig.setCore reset fun _ => rfl).wr

theorem NoJig.leaveJig {q : Nat} (h : NoJig p s) : NoJig p (s.leaveJig q) := by
  have dropped {u : State} (k : NoJig p u) : NoJig p (u.setCore q (u.core q).dropJig) := NoJig.setCore k fun _ => rfl
  unfold State.leaveJig
  cases (s.core q).jig with
  | none => exact h
  | some r => exact .ite (dropped h.wr).gateCore.showAwake.admitWakes (dropped h.wr).unbench.unshadow

theorem NoJig.abandonRun {q : Nat} (h : NoJig p s) : NoJig p (s.abandonRun q) := by
  unfold State.abandonRun
  cases (s.core q).jig with
  | none => exact h
  | some r => exact h.leaveJig.wr

/-! ### The fence of a context (R352, R353) -/

theorem NoJig.dropColl {c g : Nat} {x : Group} {k : Coll} (h : NoJig p s) : NoJig p (s.dropColl c g x k) := by
  have released {f : Nat → Out} {l : List Nat} : NoJig p (l.foldl (fun s n => s.emit (f n)) s) := .foldl h fun _ _ k => k.emit
  unfold State.dropColl
  exact .ite released.wr.wr released.wr

theorem NoJig.freeGroups {c : Nat} (h : NoJig p s) : NoJig p (s.freeGroups c) := by
  unfold State.freeGroups
  refine NoJig.setCtx (.foldl h fun s g k => .setWord (.wr ?_))
  cases g.2.cur with
  | none => exact k
  | some x => exact k.keepHeld.dropColl

theorem NoJig.fenceQueues {c : Nat} (h : NoJig p s) : NoJig p (s.fenceQueues c) := by
  unfold State.fenceQueues
  exact .foldl h fun _ _ k => .ite k.wr k

theorem NoJig.forgetReaders {gone : Reader → Bool} (h : NoJig p s) : NoJig p (s.forgetReaders gone) := by
  unfold State.forgetReaders
  exact .ite h (.foldl h fun _ _ k => k.setPlinth.wr)

theorem NoJig.stopBiv {c : Nat} (h : NoJig p s) : NoJig p (s.stopBiv c) := by
  unfold State.stopBiv
  exact .ite h.setCtx.withBiWait h.setCtx.withBiWait.wr.wr.wr.wr

theorem NoJig.squash {q : Nat} (h : NoJig p s) : NoJig p (s.squash q) := by
  have dropped : NoJig p (s.setCore q { s.core q with ahead := none }) := h.setCore fun k => k
  unfold State.squash
  cases (s.core q).window with
  | none => exact h
  | some w => exact dropped.count

theorem NoJig.dmaHead {q e : Nat} (h : NoJig p s) : NoJig p (s.dmaHead q e) := by
  unfold State.dmaHead
  exact NoJig.stamp (h.setCore fun k => k)

theorem NoJig.showDma {q e : Nat} (h : NoJig p s) : NoJig p (s.showDma q e) := by
  unfold State.showDma
  exact h.wr.wr

theorem NoJig.dropOn {q c : Nat} (h : NoJig p s) : NoJig p (s.dropOn q c) := by
  have dropped : NoJig p (s.setCore q ((s.core q).dropWork (Fin.ofNat 17 c))) := h.setCore fun k => k
  unfold State.dropOn
  exact .foldl dropped fun _ _ k => .showDma (.ite k k.dmaHead)

theorem NoJig.fenceCtx {c : Nat} (h : NoJig p s) : NoJig p (s.fenceCtx c) := by
  unfold State.fenceCtx
  refine .ite h (.foldl h.freeGroups.fenceQueues.forgetReaders.stopBiv.setCtx fun s e k => .ite ?_ k.dropOn)
  exact k.abandonRun.squash.dropOn.setCore fun j => j

theorem NoJig.fenceDomain {run : ResetRun} (h : NoJig p s) : NoJig p (s.fenceDomain run) := by
  unfold State.fenceDomain
  exact .foldl h fun _ _ k => .ite k.fenceCtx k

/-! ### Records and the resets they begin (R347 to R358) -/

theorem NoJig.beginReset {d : Nat} {r : ErrRec} {noCairn : Bool} (h : NoJig p s) : NoJig p (s.beginReset d r noCairn) := by
  have taken {d : Nat} {l : List ResetRun} :
      NoJig p (l.foldl (fun s x => if x.log.val = d then s else s.preempt x.log.val) s) := .foldl h fun _ _ k => .ite k k.preempt
  have ended {u : State} {l : List ResetRun} (k : NoJig p u) : NoJig p (l.foldl (fun s x => s.endCairn x true 0) u) :=
    .foldl k fun _ _ j => j.endCairn
  have faulted {u : State} {t : Option Word} {a : Word → Prop} [∀ t, Decidable (a t)] (k : NoJig p u) :
      NoJig p (match t with | some t => if a t then u.assertFault 2 else u | none => u) := by
    cases t with
    | none => exact k
    | some t => exact .ite k.assertFault k
  have fenced {u : State} {x : ResetRun} (k : NoJig p u) : NoJig p (if x.level = 4 then
      match u.recov.chipEnd with
      | some t => if u.time.toNat < t.toNat + 6000000000 then u.assertFault 2 else u
      | none => u
      else u) := .ite (faulted k) k
  unfold State.beginReset
  refine .ite h (.ite h (.ite h (.showEsc (.ite (.nextCairn (.withRecov ?_)) ?_))))
  · exact fenced (ended taken.withRecov).withRecov.fenceDomain
  · exact fenced (ended taken.withRecov).withRecov.fenceDomain

theorem NoJig.lostReset {d : Nat} (h : NoJig p s) : NoJig p (s.lostReset d) := by
  unfold State.lostReset
  exact .ite h h.draw.setLog.beginReset.withRecov

theorem NoJig.enter {d : Nat} {r : ErrRec} {mayAct noCairn : Bool} (h : NoJig p s) : NoJig p (s.enter d r mayAct noCairn) := by
  unfold State.enter
  refine .ite h.setLog.lostReset (.ite h.setLog (.ite h.setLog.showEsc ?_))
  split
  · exact h.setLog.beginReset
  · exact .ite h.setLog.beginReset h.setLog.showEsc

theorem NoJig.file {cls sev unit : Nat} {ctx : Option Nat} {addr detail : Nat} (h : NoJig p s) :
    NoJig p (s.file cls sev unit ctx addr detail) := by
  unfold State.file
  exact h.enter

/-! ### Reads of HBM (R192, R196, R200, R206) -/

theorem NoJig.requestRepair {site ch : Nat} (h : NoJig p s) : NoJig p (s.requestRepair site ch) := by
  unfold State.requestRepair
  exact .ite h.wr.wr.wr.saveRepair (.ite h h.wr.file.wr.saveRepair)

theorem NoJig.foundUe {sector : Nat} (h : NoJig p s) : NoJig p (s.foundUe sector) := by
  unfold State.foundUe
  cases s.served (64 * sector) with
  | none => exact h
  | some x => exact h.bump.file.requestRepair

theorem NoJig.dramDone {i : Nat} (h : NoJig p s) : NoJig p (s.dramDone i) := h.of_cores (by rw [dramDone_frame])

theorem NoJig.hbmCheck {i : Nat} {counted : Bool} (h : NoJig p s) : NoJig p (s.hbmCheck i counted).1 := by
  have found {l : List Nat} : NoJig p (l.foldl State.foundUe (s.dramDone i)) := .foldl h.dramDone fun _ _ k => k.foundUe
  unfold State.hbmCheck
  dsimp only
  cases (s.hbm.info i).st with
  | unwritten => exact .ite h.dramDone.bump h.dramDone
  | poison =>
    dsimp only
    exact found
  | sealed =>
    dsimp only
    exact .iteFst found.poisonTile.fst (.iteFst h.dramDone.fst h.dramDone.poisonTile.file.fst)

theorem NoJig.putTile {i : Nat} {d : List Byte} {m : TileMeta} (h : NoJig p s) : NoJig p (s.putTile i d m) := by
  have stored : NoJig p (State.freshEcc { s with hbm := s.hbm.put i d m } i) := h.of_cores rfl
  exact stored.dramDone

theorem NoJig.mergeBytes {i : Nat} {b : SMap Byte} {poison : Bool} (h : NoJig p s) : NoJig p (s.mergeBytes i b poison) := by
  unfold State.mergeBytes
  exact h.hbmCheck.putTile.count

theorem NoJig.wcbMerge {i : Nat} (h : NoJig p s) : NoJig p (s.wcbMerge i) := by
  unfold State.wcbMerge
  cases s.wcbEntry i with
  | none => exact h
  | some e => exact h.wcbDrop.mergeBytes

theorem NoJig.serveTiles {l : List Nat} {x : State × Bool} (h : NoJig p x.1) :
    NoJig p (l.foldl (fun (x : State × Bool) i => ((x.1.serveTile i).1, x.2 || (x.1.serveTile i).2)) x).1 := by
  induction l generalizing x with
  | nil => exact h
  | cons i l ih => exact ih h.wcbMerge.hbmCheck

theorem NoJig.hbmRead {a n : Nat} {d : List Byte} {po : Bool} (h : NoJig p s) (read : s.hbmRead a n = some (t, d, po)) : NoJig p t := by
  unfold State.hbmRead at read
  dsimp only at read
  split at read
  · cases read
  · cases read
    exact NoJig.serveTiles (x := (s, false)) h

theorem NoJig.parkRead {who : Reader} {a n ce : Nat} (h : NoJig p s) (parked : s.parkRead who a n ce = some t) : NoJig p t := by
  unfold State.parkRead at parked
  dsimp only at parked
  split at parked
  · cases parked
  · split at parked
    · cases parked
      exact h.park
    · split at parked
      · cases parked
        exact h.wcbDrop.park.park
      · cases parked

theorem NoJig.readAs {who : Reader} {a n : Nat} (h : NoJig p s) : NoJig p (s.readAs who a n).1 := by
  unfold State.readAs
  dsimp only
  split
  · exact h.setPlinth
  · split
    next read => exact h.hbmRead read
    next =>
      split
      · exact h
      · cases parked : s.parkRead who a n 0 with
        | none => exact h
        | some t => exact h.parkRead parked

/-! ### Translation and fetch (R146, R222) -/

theorem NoJig.walkRead {c a : Nat} (h : NoJig p s) : NoJig p (s.walkRead c a).1 := by
  have read : NoJig p (s.readAs (.walk c) a 8).1 := h.readAs
  unfold State.walkRead
  split
  · exact h
  · split
    next e => rwa [e] at read
    next e => rwa [e] at read

theorem NoJig.walkFrom {c va : Nat} {acc : Access} {left table : Nat} (h : NoJig p s) : NoJig p (s.walkFrom c va acc left table).1 := by
  induction left generalizing s table with
  | zero => exact h
  | succ left ih =>
    have read : NoJig p (s.walkRead c (table + 8 * bits va (39 - 9 * (2 - left)) 9)).1 := h.walkRead
    unfold State.walkFrom
    dsimp only
    split
    next e => rwa [e] at read
    next e => rwa [e] at read
    next e =>
      rw [e] at read
      exact .iteFst read (.iteFst read (.iteFst read (.iteFst read (ih read))))

theorem NoJig.xlate {c va : Nat} {acc : Access} (h : NoJig p s) : NoJig p (s.xlate c va acc).1 := by
  unfold State.xlate
  refine .iteFst h ?_
  split
  · exact h
  · exact .iteFst h h.walkFrom

theorem NoJig.fetchTile {q c va : Nat} (context : c ≠ jigCtx) (h : NoJig p s) : NoJig p (s.fetchTile q c va).1 := by
  have walked : NoJig p (s.xlate c va .fetch).1 := h.xlate
  unfold State.fetchTile
  rw [if_neg context]
  split
  · exact h
  · split
    next t a _ e =>
      rw [e] at walked
      have read : NoJig p (t.readAs (.fetch q c) a 8).1 := walked.readAs
      split
      next f => rwa [f] at read
      next f => rwa [f] at read
      next f =>
        rw [f] at read
        exact read.setCore fun k => k
    all_goals
      next e => rwa [e] at walked

theorem NoJig.fetch {q c n : Nat} (context : c ≠ jigCtx) (h : NoJig p s) : NoJig p (s.fetch q c n).1 := by
  have first : NoJig p (s.fetchTile q c (s.pc q).toNat).1 := h.fetchTile context
  unfold State.fetch
  dsimp only
  split
  · exact h
  · split
    next e =>
      rw [e] at first
      split
      · exact first.fetchTile context
      · exact first
    next => exact first

/-! ### The slot of a program that issues -/

theorem noJig_of_running {c : Nat} (running : s.running p = some c) (context : c ≠ jigCtx) : NoJig p s := by
  unfold State.running at running
  unfold NoJig
  cases jig : s.jigging p with
  | false => rfl
  | true =>
    rw [jig, if_pos rfl] at running
    split at running
    · exact absurd (Option.some.inj running).symm context
    · cases running

/-- The scratchpad accesses of an instruction of a context lie in the allocation of the active slot (R43). -/
theorem runSlotOf_of_issues {n c : Nat} (h : s.issues p n c t) : t.runSlotOf p = t.activeSlot p := by
  obtain ⟨bound, running, -, fetched⟩ := h
  have context : c ≠ jigCtx := Nat.ne_of_lt bound
  have after : NoJig p (s.fetch p c n).1 := (noJig_of_running running context).fetch context
  rw [fetched] at after
  unfold NoJig at after
  rw [State.runSlotOf, after]
  rfl

end

end Sys2Proof.Proofs
end

section
/-!
PROOFS. Vector loads and stores (R125, R158): the bytes of a register, one tile's part of the scratchpad read and written, and the statement
about them.
-/
namespace Sys2Proof.Proofs
open Sys2Proof.Machine Sys2Proof.Laws

/-! ### Bytes of a register and of a tile -/

theorem length_natsFrom (a n : Nat) : (natsFrom a n).length = n := by
  induction n generalizing a with
  | zero => rfl
  | succ n ih => simp [natsFrom, ih]

/-- Reading bytes is reading each of them. -/
theorem memory_read_eq (m : Memory) (a n : Nat) : Memory.read m a n = (natsFrom a n).map (Memory.byte m) := by
  unfold Memory.read
  refine List.map_congr_left fun b hb => ?_
  have within := mem_natsFrom a n b hb
  unfold Memory.byte SMap.lookD
  exact congrArg (Option.getD · 0) (look_filter_in m (fun k => decide (a ≤ k) && decide (k < a + n)) b (by simpa using within))

theorem length_memory_read (m : Memory) (a n : Nat) : (Memory.read m a n).length = n := by
  rw [memory_read_eq, List.length_map, length_natsFrom]

theorem getD_memory_read (m : Memory) (a : Nat) {n i : Nat} (h : i < n) : (Memory.read m a n).getD i 0 = Memory.byte m (a + i) := by
  rw [memory_read_eq, List.getD_eq_getElem?_getD, List.getElem?_map, getElem?_natsFrom a n i h]
  rfl

theorem getD_take_read (m : Memory) (a : Nat) {n k i : Nat} (h : i < n) (hk : i < k) :
    ((Memory.read m a n).take k).getD i 0 = Memory.byte m (a + i) := by
  rw [← getD_memory_read m a h, List.getD_eq_getElem?_getD, List.getElem?_take_of_lt hk, List.getD_eq_getElem?_getD]

theorem getD_drop_read (m : Memory) (a : Nat) {n k i : Nat} (h : k + i < n) :
    ((Memory.read m a n).drop k).getD i 0 = Memory.byte m (a + k + i) := by
  rw [Nat.add_assoc, ← getD_memory_read m a h, List.getD_eq_getElem?_getD, List.getElem?_drop, List.getD_eq_getElem?_getD]

theorem getD_natLe (v : Nat) {n i : Nat} (h : i < n) : (natLe v n).getD i 0 = BitVec.ofNat 8 (bits v (8 * i) 8) := by
  induction n generalizing v i with
  | zero => omega
  | succ n ih =>
    cases i with
    | zero => simp [natLe, bits, BitVec.ofNat_eq_ofNat, ← BitVec.toNat_inj]
    | succ i =>
      have tail := ih (v / 256) (Nat.lt_of_succ_lt_succ h)
      have shift : (v / 256) >>> (8 * i) = v >>> (8 * (i + 1)) := by
        rw [Nat.mul_succ, Nat.add_comm (8 * i), Nat.shiftRight_add, Nat.shiftRight_eq_div_pow v 8]
      unfold bits at tail ⊢
      rw [natLe, List.getD_cons_succ, tail, shift]

/-- A number spelled by bytes, packed as a register of 8-bit elements. -/
theorem ofNat_leNat (l : List Byte) : BitVec.ofNat 8192 (leNat l) = ofElems 8 (l.map BitVec.toNat) := by
  unfold ofElems
  congr 1
  induction l with
  | nil => rfl
  | cons b l ih =>
    have byte := b.isLt
    rw [leNat, List.map_cons, List.foldr_cons, ← ih]
    omega

/-- A register that was loaded from 1024 bytes holds each in its place. -/
theorem elemAt_ofNat_leNat (l : List Byte) {i : Nat} (h : i < 1024) :
    elemAt (BitVec.ofNat 8192 (leNat l)) 8 i = (l.getD i 0).toNat := by
  have byte := (l.getD i 0).isLt
  rw [ofNat_leNat, elemAt_ofElems 8 _ (show i < 8192 / 8 from h)]
  have mapped : (l.map BitVec.toNat).getD i 0 = (l.getD i 0).toNat := by
    rw [List.getD_eq_getElem?_getD, List.getElem?_map, List.getD_eq_getElem?_getD]
    cases l[i]? <;> rfl
  rw [mapped]
  exact Nat.mod_eq_of_lt byte

theorem getD_append (l m : List Byte) (i : Nat) : (l ++ m).getD i 0 = if i < l.length then l.getD i 0 else m.getD (i - l.length) 0 := by
  simp only [List.getD_eq_getElem?_getD]
  split
  next h => rw [List.getElem?_append_left h]
  next h => rw [List.getElem?_append_right (Nat.le_of_not_lt h)]

theorem length_splice (l x : List Byte) {off : Nat} (h : off + x.length ≤ l.length) : (splice l off x).length = l.length := by
  unfold splice
  rw [List.length_append, List.length_append, List.length_take, List.length_drop]
  omega

/-- Bytes laid over a list stand at their offset; the others stay. -/
theorem getD_splice (l x : List Byte) {off : Nat} (i : Nat) (h : off + x.length ≤ l.length) :
    (splice l off x).getD i 0 = if off ≤ i ∧ i < off + x.length then x.getD (i - off) 0 else l.getD i 0 := by
  have front : (l.take off).length = off := by
    rw [List.length_take]
    omega
  unfold splice
  rw [getD_append, getD_append, List.length_append, front]
  by_cases before : i < off
  · rw [if_pos (by omega), if_pos before, if_neg (by omega)]
    simp [List.getD_eq_getElem?_getD, before]
  · by_cases inside : i < off + x.length
    · rw [if_pos inside, if_neg before, if_pos (by omega)]
    · rw [if_neg inside, if_neg (by omega)]
      simp only [List.getD_eq_getElem?_getD, List.getElem?_drop]
      congr 2
      omega

/-! ### One tile of the scratchpad (R40 to R42) -/

/-- A run of bytes inside one tile is one piece. -/
theorem pieces_one {a : Nat} {d : List Byte} (some : d ≠ []) (fits : a % 2048 + d.length ≤ 2048) : pieces a d = [(a, d)] := by
  obtain ⟨b, bs, rfl⟩ := List.exists_cons_of_ne_nil some
  unfold pieces
  rw [tilePieces, List.take_of_length_le (by omega), List.drop_of_length_le (by omega)]
  · rfl
  · exact some

/-- A run of bytes inside one tile touches that tile alone. -/
theorem tilesOf_one {a n : Nat} (pos : 0 < n) (fits : a % 2048 + n ≤ 2048) : tilesOf a n = [a / 2048] := by
  have last : (a + n - 1) / 2048 = a / 2048 := by omega
  rw [tilesOf, if_neg (by omega), last, Nat.sub_self]
  rfl

theorem spdWrite_one (s : State) (p : Nat) (ctx : Option Nat) {a : Nat} {d : List Byte} (poison : Bool) (some : d ≠ [])
    (fits : a % 2048 + d.length ≤ 2048) : s.spdWrite p ctx a d poison = s.spdPiece p ctx a d poison := by
  rw [State.spdWrite, pieces_one some fits]
  rfl

/-- The seal of a tile agrees with its bytes where it is sealed (R41). -/
def TileSound (s : State) (p i : Nat) : Prop :=
  s.spdState p i = .sealed → sealOf ((s.core p).spd.data i) = ((s.core p).spd.info i).sl

/-- A state whose count of reads of UNWRITTEN tiles may have gone on (R42). -/
def uninitCounted (s : State) (p i : Nat) : State :=
  if s.spdState p i = .unwritten then s.bump (R.CORE_STATUS p) F.CORE_STATUS.UNINIT_READS 1 else s

/-- A check of a tile whose seal holds counts a read of an UNWRITTEN tile, and answers whether the tile is POISON. -/
theorem spdCheck_sound {s : State} {p i : Nat} (ctx : Option Nat) (sound : TileSound s p i) :
    s.spdCheck p ctx i = (uninitCounted s p i, decide (s.spdState p i = .poison)) := by
  unfold State.spdCheck uninitCounted
  unfold TileSound State.spdState at sound
  unfold State.spdState
  dsimp only
  cases st : ((s.core p).spd.info i).st with
  | unwritten => rfl
  | poison => rfl
  | sealed => simp [sound st]

theorem core_uninitCounted (s : State) (p i q : Nat) : (uninitCounted s p i).core q = s.core q := by
  unfold uninitCounted
  split
  · exact core_bump ..
  · rfl

theorem vreg_uninitCounted (s : State) (p i r : Nat) : (uninitCounted s p i).vreg p r = s.vreg p r := by
  rw [State.vreg, core_uninitCounted, State.vreg]

theorem hbm_uninitCounted (s : State) (p i : Nat) : (uninitCounted s p i).hbm = s.hbm := by
  unfold uninitCounted
  split
  · exact bump_hbm ..
  · rfl

theorem pc_uninitCounted (s : State) (p i : Nat) : (uninitCounted s p i).pc p = s.pc p := by
  unfold uninitCounted
  split
  · exact word_bump_ne s _ _ _ _ (by simp [R.SEQ_PC, R.CORE_STATUS, F.CORE_STATUS.UNINIT_READS])
  · rfl

/-- A read inside one tile whose seal holds. -/
theorem spdRead_one {s : State} {p a n : Nat} (ctx : Option Nat) (pos : 0 < n) (fits : a % 2048 + n ≤ 2048)
    (sound : TileSound s p (a / 2048)) :
    s.spdRead p ctx a n =
      (uninitCounted s p (a / 2048), Memory.read (s.core p).spd.bytes a n, decide (s.spdState p (a / 2048) = .poison)) := by
  simp [State.spdRead, tilesOf_one pos fits, spdCheck_sound ctx sound]

/-- The tile that holds a merged write: the bytes laid over the old ones; POISON where either was. -/
theorem spdPiece_part {s : State} {p a : Nat} (ctx : Option Nat) {d : List Byte} (poison : Bool) (part : d.length ≠ 2048)
    (sound : TileSound s p (a / 2048)) :
    ∃ m : TileMeta, m.st = (if poison = true ∨ s.spdState p (a / 2048) = .poison then .poison else .sealed) ∧
      s.spdPiece p ctx a d poison =
        s.spdStore p (a / 2048) ((s.core p).spd.put (a / 2048) (splice ((s.core p).spd.data (a / 2048)) (a % 2048) d) m) := by
  have checked : (if ((s.core p).spd.info (a / 2048)).st = .unwritten then (s, false) else s.spdCheck p ctx (a / 2048)) =
      (s, decide (s.spdState p (a / 2048) = .poison)) := by
    rw [spdCheck_sound ctx sound, uninitCounted]
    unfold State.spdState
    split
    next u => simp [u]
    next => rfl
  unfold State.spdPiece
  rw [if_neg part, checked]
  refine ⟨_, ?_, rfl⟩
  by_cases bad : s.spdState p (a / 2048) = .poison <;> cases poison <;> simp [bad, poisonMeta, sealedMeta]

/-- A whole tile written: its old state does not matter. -/
theorem spdPiece_whole (s : State) (p a : Nat) (ctx : Option Nat) {d : List Byte} (poison : Bool) (whole : d.length = 2048) :
    ∃ m : TileMeta, m.st = (if poison = true then .poison else .sealed) ∧
      s.spdPiece p ctx a d poison = s.spdStore p (a / 2048) ((s.core p).spd.put (a / 2048) d m) := by
  unfold State.spdPiece
  rw [if_pos whole]
  refine ⟨_, ?_, rfl⟩
  cases poison <;> rfl

/-! ### A tile stored by a vector instruction -/

theorem vregs_staleSpec (k : Core) (i : Nat) : (k.staleSpec i).vregs = k.vregs := by
  unfold Core.staleSpec
  cases k.ahead <;> rfl

theorem core_vecDone_ne (s : State) {p q : Nat} (hp : p < 104) (h : q ≠ p) : (s.vecDone p).core q = s.core q := by
  obtain ⟨-, others, -⟩ := vecDone_sameBut s p hp
  exact others q h

theorem hbm_vecDone (s : State) {p : Nat} (hp : p < 104) : (s.vecDone p).hbm = s.hbm := by
  obtain ⟨whole, -⟩ := vecDone_sameBut s p hp
  rw [whole]

theorem spd_vecDone (s : State) {p : Nat} (q : Nat) (hp : p < 104) : ((s.vecDone p).core q).spd = (s.core q).spd := by
  by_cases h : q = p
  · rw [h, core_vecDone]
  · rw [core_vecDone_ne s hp h]

theorem spdByte_vecDone (s : State) {p : Nat} (q b : Nat) (hp : p < 104) : (s.vecDone p).spdByte q b = s.spdByte q b := by
  rw [State.spdByte, spd_vecDone s q hp, State.spdByte]

/-- The instruction has stored the bytes `d` from `x` on, in one tile, which is left in state `st`; it has committed, and every other byte and every
vector register keeps its value. -/
def VecStored (t u : State) (p : CoreId) (x : Nat) (d : List Byte) (st : TState) : Prop :=
  committed p 8 t u ∧
  (∀ b, u.spdByte p b = if x ≤ b ∧ b < x + d.length then d.getD (b - x) 0 else t.spdByte p b) ∧
  (∀ (q : CoreId) b, q ≠ p → u.spdByte q b = t.spdByte q b) ∧ u.hbm = t.hbm ∧ (∀ r, u.vreg p r = t.vreg p r) ∧
  u.spdState p (x / 2048) = st

/-- A whole tile stored, and the instruction completed. -/
theorem spdStore_vecStored (t : State) (p : CoreId) (i : Nat) (d : List Byte) (m : TileMeta) :
    VecStored t ((t.spdStore p i ((t.core p).spd.put i d m)).vecDone p) p (2048 * i) d m.st := by
  refine ⟨?pc, fun b => ?bytes, fun q b hq => ?others, ?hbm, fun r => ?registers, ?state⟩
  case pc => exact pc_vecDone _ p
  case bytes =>
    rw [spdByte_vecDone _ p b p.isLt, State.spdByte, State.spdStore, core_setCore_same]
    exact memory_byte_write _ _ _ _
  case others => rw [spdByte_vecDone _ q b p.isLt, State.spdByte, State.spdStore, core_setCore_ne _ _ _ _ (Fin.val_ne_of_ne hq), State.spdByte]
  case hbm => exact hbm_vecDone _ p.isLt
  case registers => rw [vreg_vecDone, State.vreg, State.spdStore, core_setCore_same, vregs_staleSpec, State.vreg]
  case state =>
    rw [State.spdState, spd_vecDone _ p p.isLt, State.spdStore, core_setCore_same, Nat.mul_div_cancel_left i (by decide), info_put_same]

/-- Bytes laid over a tile are those bytes stored. -/
theorem vecStored_splice {t u : State} {p : CoreId} {x : Nat} {d : List Byte} {st : TState} (fits : x % 2048 + d.length ≤ 2048)
    (h : VecStored t u p (2048 * (x / 2048)) (splice ((t.core p).spd.data (x / 2048)) (x % 2048) d) st) : VecStored t u p x d st := by
  obtain ⟨pc, bytes, others, hbm, registers, state⟩ := h
  have tile : ((t.core p).spd.data (x / 2048)).length = 2048 := length_memory_read _ _ _
  have inside : x % 2048 + d.length ≤ ((t.core p).spd.data (x / 2048)).length := by rwa [tile]
  refine ⟨pc, fun b => ?_, others, hbm, registers, ?_⟩
  · rw [bytes b, length_splice _ _ inside, tile, getD_splice _ _ _ inside]
    by_cases here : x ≤ b ∧ b < x + d.length
    · rw [if_pos (by omega), if_pos (by omega), if_pos here]
      congr 1
      omega
    · rw [if_neg here]
      split
      · rw [if_neg (by omega), Tiled.data, getD_memory_read _ _ (by omega)]
        exact congrArg (Memory.byte _) (by omega)
      · rfl
  · rwa [Nat.mul_div_cancel_left _ (by decide)] at state

/-- VEC.ST of 1 KiB, where the seal of its tile holds. -/
theorem vecStore_half {t : State} (p : CoreId) (c : Nat) (rd : VReg) {x : Nat} (aligned : x % 1024 = 0)
    (sound : TileSound t p (x / 2048)) :
    VecStored t (t.vecStore p c rd x 1024 false) p x (natLe (t.vreg p rd).toNat 1024)
      (if t.vpois p rd ∨ t.spdState p (x / 2048) = .poison then .poison else .sealed) := by
  have len := natLe_length (t.vreg p rd).toNat 1024
  have fits : x % 2048 + (natLe (t.vreg p rd).toNat 1024).length ≤ 2048 := by omega
  obtain ⟨m, state, piece⟩ := spdPiece_part (some c) (t.vpois p rd) (show (natLe (t.vreg p rd).toNat 1024).length ≠ 2048 by omega) sound
  have stored : t.vecStore p c rd x 1024 false =
      (t.spdStore p (x / 2048) ((t.core p).spd.put (x / 2048)
        (splice ((t.core p).spd.data (x / 2048)) (x % 2048) (natLe (t.vreg p rd).toNat 1024)) m)).vecDone p := by
    rw [← piece, ← spdWrite_one t p (some c) (t.vpois p rd) (List.ne_nil_of_length_pos (by omega)) fits]
    simp [State.vecStore]
  rw [stored, ← state]
  exact vecStored_splice fits (spdStore_vecStored t p _ _ m)

/-- VEC.ST2 of 2 KiB. -/
theorem vecStore_pair (t : State) (p : CoreId) (c : Nat) (rd : VReg) {x : Nat} (aligned : x % 2048 = 0) :
    VecStored t (t.vecStore p c rd x 2048 false) p x
      (natLe (t.vreg p rd).toNat 1024 ++ natLe (t.vreg p (rd.val + 1)).toNat 1024)
      (if t.vpois p rd ∨ t.vpois p (rd.val + 1) then .poison else .sealed) := by
  generalize bytes : natLe (t.vreg p rd).toNat 1024 ++ natLe (t.vreg p (rd.val + 1)).toNat 1024 = d
  have len : d.length = 2048 := by rw [← bytes, List.length_append, natLe_length, natLe_length]
  obtain ⟨m, state, piece⟩ := spdPiece_whole t p x (some c) (t.vpois p rd || t.vpois p (rd.val + 1)) len
  have stored : t.vecStore p c rd x 2048 false = (t.spdStore p (x / 2048) ((t.core p).spd.put (x / 2048) d m)).vecDone p := by
    rw [← piece, ← spdWrite_one t p (some c) _ (List.ne_nil_of_length_pos (by omega)) (by omega), ← bytes]
    simp [State.vecStore]
  have tile := spdStore_vecStored t p (x / 2048) d m
  rw [Nat.mul_div_cancel' (Nat.dvd_of_mod_eq_zero aligned), state] at tile
  rw [stored]
  simpa only [Bool.or_eq_true] using tile

/-! ### Registers filled by a vector load (R123, R158) -/

/-- Fill one register with sound bytes. -/
def fillReg (s : State) (p r : Nat) (d : List Byte) : State := (s.setVreg p r (BitVec.ofNat 8192 (leNat d))).setVpois p r false

theorem vreg_fillReg (s : State) (p r q : Nat) (d : List Byte) :
    (fillReg s p r d).vreg p q = if q = r then BitVec.ofNat 8192 (leNat d) else s.vreg p q := by
  rw [fillReg, vreg_setVpois]
  split
  next h => rw [h, vreg_setVreg_same]
  next h => exact vreg_setVreg_ne s p r q _ h

theorem vpois_fillReg (s : State) (p q : Nat) {r : Nat} (d : List Byte) (hr : r < 64) :
    (fillReg s p r d).vpois p q = if q = r then false else s.vpois p q := by
  rw [fillReg, vpois_setVpois _ p q false hr]
  rfl

theorem spd_fillReg (s : State) (p r q : Nat) (d : List Byte) : ((fillReg s p r d).core q).spd = (s.core q).spd := by
  rw [fillReg, State.setVpois, core_wr]
  by_cases h : q = p
  · rw [h, core_setVreg]
  · rw [State.setVreg, core_setCore_ne _ _ _ _ h]

theorem hbm_fillReg (s : State) (p r : Nat) (d : List Byte) : (fillReg s p r d).hbm = s.hbm := by
  rw [fillReg, State.setVpois, wr_hbm, State.setVreg, setCore_hbm]

theorem pc_fillReg (s : State) (p : Nat) {r : Nat} (d : List Byte) (hr : r < 64) : (fillReg s p r d).pc p = s.pc p :=
  word_setVpois_ne _ p _ false hr (by simp [R.SEQ_PC, R.VEC_POISON])

/-- The memories, and the program counter of core `p`, are the same. -/
def SameMemory (p : Nat) (t r : State) : Prop := r.pc p = t.pc p ∧ (∀ q, (r.core q).spd = (t.core q).spd) ∧ r.hbm = t.hbm

theorem uninitCounted_sameMemory (t : State) (p i : Nat) : SameMemory p t (uninitCounted t p i) :=
  ⟨pc_uninitCounted t p i, fun q => by rw [core_uninitCounted], hbm_uninitCounted t p i⟩

theorem fillReg_sameMemory {p r : Nat} {t s : State} (h : SameMemory p t s) (d : List Byte) (hr : r < 64) :
    SameMemory p t (fillReg s p r d) := by
  obtain ⟨pc, spd, hbm⟩ := h
  exact ⟨(pc_fillReg s p d hr).trans pc, fun q => (spd_fillReg s p r q d).trans (spd q), (hbm_fillReg s p r d).trans hbm⟩

/-- A vector instruction that completes with the memories as they were. -/
theorem vecDone_sameMemory {t r : State} {p : CoreId} (h : SameMemory p t r) :
    committed p 8 t (r.vecDone p) ∧ (∀ q b, (r.vecDone p).spdByte q b = t.spdByte q b) ∧ (r.vecDone p).hbm = t.hbm := by
  obtain ⟨pc, spd, hbm⟩ := h
  refine ⟨?_, fun q b => ?_, ?_⟩
  · rw [committed, pc_vecDone, pc]
    rfl
  · rw [spdByte_vecDone r q b p.isLt, State.spdByte, spd, State.spdByte]
  · rw [hbm_vecDone r p.isLt, hbm]

/-- VEC.LD of sound data fills one register and completes. -/
theorem vecLoad_half_eq {t : State} (p : CoreId) (c : Nat) (rd : VReg) {x : Nat} (aligned : x % 1024 = 0) (sound : TileSound t p (x / 2048))
    (clean : t.spdState p (x / 2048) ≠ .poison) :
    t.vecLoad p c rd x 1024 = (fillReg (uninitCounted t p (x / 2048)) p rd (Memory.read (t.core p).spd.bytes x 1024)).vecDone p := by
  have whole : (Memory.read (t.core p).spd.bytes x 1024).take 1024 = Memory.read (t.core p).spd.bytes x 1024 :=
    List.take_of_length_le (Nat.le_of_eq (length_memory_read _ _ _))
  rw [State.vecLoad, spdRead_one (some c) (by decide) (by omega) sound]
  simp [clean, whole, fillReg]

/-- VEC.LD2 of sound data fills a pair of registers and completes. -/
theorem vecLoad_pair_eq {t : State} (p : CoreId) (c : Nat) (rd : VReg) {x : Nat} (aligned : x % 2048 = 0) (sound : TileSound t p (x / 2048))
    (clean : t.spdState p (x / 2048) ≠ .poison) :
    t.vecLoad p c rd x 2048 =
      (fillReg (fillReg (uninitCounted t p (x / 2048)) p rd ((Memory.read (t.core p).spd.bytes x 2048).take 1024)) p (rd.val + 1)
        ((Memory.read (t.core p).spd.bytes x 2048).drop 1024)).vecDone p := by
  rw [State.vecLoad, spdRead_one (some c) (by decide) (by omega) sound]
  simp [clean, fillReg]

/-! ### What a vector store and a vector load leave (R158) -/

section
variable {t : State} {p : CoreId} {c x : Nat} {rd : VReg}

theorem vecStore_half_result (aligned : x % 1024 = 0) (sound : TileSound t p (x / 2048)) :
    committed p 8 t (t.vecStore p c rd x 1024 false) ∧
    (∀ b, (t.vecStore p c rd x 1024 false).spdByte p b =
      if x ≤ b ∧ b < x + 1024 then BitVec.ofNat 8 (elemAt (t.vreg p rd) 8 (b - x)) else t.spdByte p b) ∧
    (∀ (q : CoreId) b, q ≠ p → (t.vecStore p c rd x 1024 false).spdByte q b = t.spdByte q b) ∧
    (t.vecStore p c rd x 1024 false).hbm = t.hbm ∧ (∀ r, (t.vecStore p c rd x 1024 false).vreg p r = t.vreg p r) ∧
    (t.vecStore p c rd x 1024 false).spdState p (x / 2048) =
      (if t.vpois p rd ∨ t.spdState p (x / 2048) = .poison then .poison else .sealed) := by
  obtain ⟨pc, bytes, rest⟩ := vecStore_half p c rd aligned sound
  refine ⟨pc, fun b => ?_, rest⟩
  rw [bytes b, natLe_length]
  split
  next here => rw [getD_natLe _ (by omega), elemAt]
  next => rfl

theorem vecStore_pair_result (aligned : x % 2048 = 0) :
    committed p 8 t (t.vecStore p c rd x 2048 false) ∧
    (∀ b, (t.vecStore p c rd x 2048 false).spdByte p b =
      if x ≤ b ∧ b < x + 1024 then BitVec.ofNat 8 (elemAt (t.vreg p rd) 8 (b - x))
      else if x + 1024 ≤ b ∧ b < x + 2048 then BitVec.ofNat 8 (elemAt (t.vreg p (rd.val + 1)) 8 (b - x - 1024))
      else t.spdByte p b) ∧
    (∀ (q : CoreId) b, q ≠ p → (t.vecStore p c rd x 2048 false).spdByte q b = t.spdByte q b) ∧
    (t.vecStore p c rd x 2048 false).hbm = t.hbm ∧ (∀ r, (t.vecStore p c rd x 2048 false).vreg p r = t.vreg p r) ∧
    (t.vecStore p c rd x 2048 false).spdState p (x / 2048) =
      (if t.vpois p rd ∨ t.vpois p (rd.val + 1) then .poison else .sealed) := by
  obtain ⟨pc, bytes, rest⟩ := vecStore_pair t p c rd aligned
  refine ⟨pc, fun b => ?_, rest⟩
  rw [bytes b, List.length_append, natLe_length, natLe_length, getD_append, natLe_length]
  by_cases first : x ≤ b ∧ b < x + 1024
  · rw [if_pos (by omega), if_pos (by omega), if_pos first, getD_natLe _ (by omega), elemAt]
  · rw [if_neg first]
    by_cases second : x + 1024 ≤ b ∧ b < x + 2048
    · rw [if_pos (by omega), if_neg (by omega), if_pos second, getD_natLe _ (by omega), elemAt]
    · rw [if_neg (by omega), if_neg second]

theorem vecLoad_half_result (aligned : x % 1024 = 0) (sound : TileSound t p (x / 2048)) (clean : t.spdState p (x / 2048) ≠ .poison) :
    committed p 8 t (t.vecLoad p c rd x 1024) ∧
    (∀ i, i < 1024 → elemAt ((t.vecLoad p c rd x 1024).vreg p rd) 8 i = (t.spdByte p (x + i)).toNat) ∧
    (t.vecLoad p c rd x 1024).vpois p rd = false ∧ (∀ r, r ≠ rd.val → (t.vecLoad p c rd x 1024).vreg p r = t.vreg p r) ∧
    (∀ q b, (t.vecLoad p c rd x 1024).spdByte q b = t.spdByte q b) ∧ (t.vecLoad p c rd x 1024).hbm = t.hbm := by
  rw [vecLoad_half_eq p c rd aligned sound clean]
  obtain ⟨pc, bytes, hbm⟩ := vecDone_sameMemory (fillReg_sameMemory (uninitCounted_sameMemory t p (x / 2048))
    (Memory.read (t.core p).spd.bytes x 1024) rd.isLt)
  refine ⟨pc, fun i hi => ?elements, ?poison, fun r hr => ?others, bytes, hbm⟩
  case elements =>
    rw [vreg_vecDone, vreg_fillReg, if_pos rfl, elemAt_ofNat_leNat _ hi, getD_memory_read _ _ hi]
    rfl
  case poison => rw [vpois_vecDone _ p _ p.isLt, vpois_fillReg _ p _ _ rd.isLt, if_pos rfl]
  case others => rw [vreg_vecDone, vreg_fillReg, if_neg hr, vreg_uninitCounted]

theorem vecLoad_pair_result (even : rd.val % 2 = 0) (aligned : x % 2048 = 0) (sound : TileSound t p (x / 2048))
    (clean : t.spdState p (x / 2048) ≠ .poison) :
    committed p 8 t (t.vecLoad p c rd x 2048) ∧
    (∀ i, i < 1024 → elemAt ((t.vecLoad p c rd x 2048).vreg p rd) 8 i = (t.spdByte p (x + i)).toNat ∧
      elemAt ((t.vecLoad p c rd x 2048).vreg p (rd.val + 1)) 8 i = (t.spdByte p (x + 1024 + i)).toNat) ∧
    (t.vecLoad p c rd x 2048).vpois p rd = false ∧ (t.vecLoad p c rd x 2048).vpois p (rd.val + 1) = false ∧
    (∀ r, r ≠ rd.val → r ≠ rd.val + 1 → (t.vecLoad p c rd x 2048).vreg p r = t.vreg p r) ∧
    (∀ q b, (t.vecLoad p c rd x 2048).spdByte q b = t.spdByte q b) ∧ (t.vecLoad p c rd x 2048).hbm = t.hbm := by
  have pair : rd.val + 1 < 64 := by omega
  rw [vecLoad_pair_eq p c rd aligned sound clean]
  obtain ⟨pc, bytes, hbm⟩ := vecDone_sameMemory (fillReg_sameMemory (fillReg_sameMemory (uninitCounted_sameMemory t p (x / 2048))
    ((Memory.read (t.core p).spd.bytes x 2048).take 1024) rd.isLt) ((Memory.read (t.core p).spd.bytes x 2048).drop 1024) pair)
  refine ⟨pc, fun i hi => ⟨?low, ?high⟩, ?lowPoison, ?highPoison, fun r hlow hhigh => ?others, bytes, hbm⟩
  case low =>
    rw [vreg_vecDone, vreg_fillReg, if_neg (by omega), vreg_fillReg, if_pos rfl, elemAt_ofNat_leNat _ hi,
      getD_take_read _ _ (by omega) hi]
    rfl
  case high =>
    rw [vreg_vecDone, vreg_fillReg, if_pos rfl, elemAt_ofNat_leNat _ hi, getD_drop_read _ _ (by omega)]
    rfl
  case lowPoison =>
    rw [vpois_vecDone _ p _ p.isLt, vpois_fillReg _ p _ _ pair, if_neg (by omega), vpois_fillReg _ p _ _ rd.isLt, if_pos rfl]
  case highPoison => rw [vpois_vecDone _ p _ p.isLt, vpois_fillReg _ p _ _ pair, if_pos rfl]
  case others => rw [vreg_vecDone, vreg_fillReg, if_neg hhigh, vreg_fillReg, if_neg hlow, vreg_uninitCounted]

end

/-! ### Addresses of a vector access (R43, R158) -/

/-- A slot's allocation begins at a multiple of 2 KiB. -/
theorem spdAddr_mod {t : State} {p j a n x : Nat} (h : t.spdAddr p j a n = some x) : x % 2048 = a % 2048 := by
  have base : t.spdBase p j % 2048 = 0 := by
    unfold State.spdBase benchWork
    split <;> omega
  unfold State.spdAddr at h
  split at h
  · cases h
    omega
  · cases h

section
variable {s t : State} {p : CoreId} {c : Nat} (h : s.issues p 8 c t) {ra : SReg} {off : BitVec 32} {n : Nat} {f : State → Nat → Nat → State}
include h

theorem vecMem_runs {legal : Bool} (ok : legal = true) {x : Nat} (aligned : (t.sreg p ra + off.signExtend 64).toNat % n = 0)
    (inside : t.spdAddr p (t.activeSlot p) (t.sreg p ra + off.signExtend 64).toNat n = some x) (drained : t.drainAhead p x n = false) :
    s.vecMem p legal ra off n f = f t c x := by
  rw [ok, State.vecMem, issue_runs _ _ _ _ _ _ h]
  dsimp only
  rw [State.baseOff, sext, if_neg (fun misaligned => misaligned aligned), runSlotOf_of_issues h, inside]
  dsimp only
  rw [drained]
  rfl

theorem vecMem_misaligned {legal : Bool} (ok : legal = true) (misaligned : (t.sreg p ra + off.signExtend 64).toNat % n ≠ 0) :
    s.vecMem p legal ra off n f = t.raiseInsn p c cMisaligned (t.sreg p ra + off.signExtend 64).toNat 0 := by
  rw [ok, State.vecMem, issue_runs _ _ _ _ _ _ h]
  exact if_pos misaligned

theorem vecMem_illegal {legal : Bool} (bad : legal = false) :
    s.vecMem p legal ra off n f = t.raiseInsn p c cIllegalInsn (t.pc p).toNat 0 := by
  rw [bad, State.vecMem, issue_illegal _ _ _ _ _ _ h]

end

theorem legalPair_even {rd : VReg} (even : rd.val % 2 = 0) : legalPair rd = true := beq_iff_eq.mpr even

theorem legalPair_odd {rd : VReg} (odd : rd.val % 2 = 1) : legalPair rd = false := by
  rw [legalPair, odd]
  rfl

theorem tileSound_of_sealsHold {t : State} {p x n : Nat} (pos : 0 < n) (fits : x % 2048 + n ≤ 2048) (h : t.sealsHold p x n) :
    TileSound t p (x / 2048) := h _ (by rw [tilesOf_one pos fits]; exact List.mem_singleton_self _)

theorem clean_of_noPoison {t : State} {p x n : Nat} (pos : 0 < n) (fits : x % 2048 + n ≤ 2048) (h : t.noPoison p x n) :
    t.spdState p (x / 2048) ≠ .poison := h _ (by rw [tilesOf_one pos fits]; exact List.mem_singleton_self _)

/-! ### The statement -/

/-- Settles O12: a vector access is a read or a write of one tile, or of half of one, at an aligned address. -/
theorem vectorMemoryInstructions : Obligations.VectorMemoryInstructions := by
  refine ⟨fun s t p c x rd ra off issues => ⟨?st, ?st2, ?stMisaligned, ?st2Misaligned, ?st2Odd⟩,
    fun s t p c x rd ra off issues => ⟨?ld, ?ld2, ?ldMisaligned, ?ld2Misaligned, ?ld2Odd⟩⟩
  case stMisaligned => exact fun bad => congrArg Host.Outcome.next (vecMem_misaligned issues rfl bad)
  case ldMisaligned => exact fun bad => congrArg Host.Outcome.next (vecMem_misaligned issues rfl bad)
  case st2Misaligned => exact fun even bad => congrArg Host.Outcome.next (vecMem_misaligned issues (legalPair_even even) bad)
  case ld2Misaligned => exact fun even bad => congrArg Host.Outcome.next (vecMem_misaligned issues (legalPair_even even) bad)
  case st2Odd => exact fun odd => congrArg Host.Outcome.next (vecMem_illegal issues (legalPair_odd odd))
  case ld2Odd => exact fun odd => congrArg Host.Outcome.next (vecMem_illegal issues (legalPair_odd odd))
  case st =>
    intro aligned inside drained seals
    have place := spdAddr_mod inside
    have sound := tileSound_of_sealsHold (by decide) (by omega) seals
    exact ⟨_, congrArg Host.Outcome.next (vecMem_runs issues rfl aligned inside drained), vecStore_half_result (by omega) sound⟩
  case st2 =>
    intro even aligned inside drained
    have place := spdAddr_mod inside
    exact ⟨_, congrArg Host.Outcome.next (vecMem_runs issues (legalPair_even even) aligned inside drained),
      vecStore_pair_result (place.trans aligned)⟩
  case ld =>
    intro aligned inside drained seals unpoisoned
    have place := spdAddr_mod inside
    have fits : x % 2048 + 1024 ≤ 2048 := by omega
    have sound := tileSound_of_sealsHold (by decide) fits seals
    have clean := clean_of_noPoison (by decide) fits unpoisoned
    exact ⟨_, congrArg Host.Outcome.next (vecMem_runs issues rfl aligned inside drained), vecLoad_half_result (by omega) sound clean⟩
  case ld2 =>
    intro even aligned inside drained seals unpoisoned
    have place := spdAddr_mod inside
    have fits : x % 2048 + 2048 ≤ 2048 := by omega
    have sound := tileSound_of_sealsHold (by decide) fits seals
    have clean := clean_of_noPoison (by decide) fits unpoisoned
    exact ⟨_, congrArg Host.Outcome.next (vecMem_runs issues (legalPair_even even) aligned inside drained),
      vecLoad_pair_result even (place.trans aligned) sound clean⟩

end Sys2Proof.Proofs
end

section
/-!
PROOFS. The loss scale and range telemetry (R173 to R175, R185, R186): an update of the loss scale as a function of its values, what the boundary
of its pending limits and the commit leave of them, what an addition to a telemetry counter does, and the statement about them.
-/
namespace Sys2Proof.Proofs
open Sys2Proof.Machine Sys2Proof.Laws

/-! ### Fields of the register file -/

theorem rd_lt (s : State) (r : Nat) (f : Field) : s.rd r f < 2 ^ f.n := bits_lt _ _ _

/-- A field of another register keeps its value. -/
theorem rd_wr_register (s : State) {r q : Nat} {f g : Field} (v : Nat) (other : q ≠ r) (hf : f.lo < 64) (hg : g.lo < 64) :
    (s.wr r f v).rd q g = s.rd q g := rd_wr_slot s r q f g v (by omega)

theorem rd_eq_of_word {s u : State} {r : Nat} {f : Field} (low : f.lo < 64) (h : u.word r = s.word r) : u.rd r f = s.rd r f := by
  unfold State.rd
  rw [slot_low r low, h]

/-- Counting nothing leaves a field that saturates as it is. -/
theorem min_rd_full (s : State) (r : Nat) (f : Field) : min (s.rd r f) (2 ^ f.n - 1) = s.rd r f :=
  Nat.min_eq_left (Nat.le_sub_one_of_lt (rd_lt s r f))

/-- A field that saturates reads back what has been added. -/
theorem rd_bump_same (s : State) (r : Nat) (f : Field) (k : Nat) (fits : f.lo % 64 + f.n ≤ 64) :
    (s.bump r f k).rd r f = min (s.rd r f + k) (2 ^ f.n - 1) := by
  have := Nat.two_pow_pos f.n
  exact (rd_wr_same s r f _ fits).trans (Nat.mod_eq_of_lt (by omega))

/-! ### Exponents in eight bits (R173) -/

theorem sgn_mod (n v : Nat) : sgn n (v % 2 ^ n) = sgn n v := by
  simp only [sgn, Nat.mod_mod]

/-- An exponent that eight bits hold is read back from its code. -/
theorem sgn_wrap {x : Int} (lowest : -128 ≤ x) (highest : x ≤ 127) : sgn 8 (wrap 8 x) = x := by
  unfold sgn wrap
  dsimp only
  split <;> omega

theorem expOf_range (v : Nat) : -126 ≤ expOf v ∧ expOf v ≤ 127 := by
  unfold expOf sgn
  dsimp only
  split <;> omega

/-- A clamped exponent fits its field. -/
theorem sgn_wrap_clampExp (e : Int) (v w : Nat) :
    sgn 8 (wrap 8 (clampExp e (expOf v) (expOf w))) = clampExp e (expOf v) (expOf w) := by
  have lo := expOf_range v
  have hi := expOf_range w
  unfold clampExp
  exact sgn_wrap (by omega) (by omega)

/-! ### What a loss-scale update leaves (R174, R175) -/

/-- `t` is `s` but for contexts' own state and the register slots at the offsets `l`. -/
def TouchesRegs (l : List Nat) (s t : State) : Prop :=
  t = { s with regs := t.regs, ctxs := t.ctxs } ∧ ∀ a, a ∉ l → t.word a = s.word a

section
variable {l : List Nat} {s t : State}

theorem TouchesRegs.refl (s : State) : TouchesRegs l s s := ⟨rfl, fun _ _ => rfl⟩

theorem TouchesRegs.mono {m : List Nat} (h : TouchesRegs l s t) (hl : l ⊆ m) : TouchesRegs m s t := by
  obtain ⟨whole, words⟩ := h
  exact ⟨whole, fun a ha => words a fun hm => ha (hl hm)⟩

theorem TouchesRegs.wr {r : Nat} {f : Field} {v : Nat} (h : TouchesRegs l s t) (named : r + 8 * (f.lo / 64) ∈ l) :
    TouchesRegs l s (t.wr r f v) := by
  obtain ⟨whole, words⟩ := h
  refine ⟨?_, fun a ha => (word_wr_ne t r a f v fun e => ha (e ▸ named)).trans (words a ha)⟩
  rw [State.wr, State.setWord, whole]

theorem TouchesRegs.ite {c : Prop} [Decidable c] {u : State} (h : TouchesRegs l s t) (k : TouchesRegs l s u) :
    TouchesRegs l s (if c then t else u) := by
  split
  · exact h
  · exact k

theorem TouchesRegs.core (h : TouchesRegs l s t) (p : Nat) : t.core p = s.core p := by
  obtain ⟨whole, -⟩ := h
  rw [whole]
  rfl

theorem TouchesRegs.hbm (h : TouchesRegs l s t) : t.hbm = s.hbm := by
  obtain ⟨whole, -⟩ := h
  rw [whole]

theorem TouchesRegs.sreg (h : TouchesRegs l s t) (p : Nat) (r : SReg) : t.sreg p r = s.sreg p r := by
  unfold State.sreg
  rw [h.core p]

end

/-! ### Pending values come into force (R175) -/

/-- A field takes its pending value, where it has one. -/
def takePending (s : State) (r : Nat) (f : Field) (x : Option Nat) : State :=
  match x with
  | some v => s.wr r f v
  | none => s

theorem TouchesRegs.takePending {l : List Nat} {s t : State} {r : Nat} {f : Field} {x : Option Nat} (h : TouchesRegs l s t)
    (named : r + 8 * (f.lo / 64) ∈ l) : TouchesRegs l s (takePending t r f x) := by
  cases x with
  | none => exact h
  | some v => exact h.wr named

theorem rd_takePending_same {n : Nat} (s : State) (r : Nat) (f : Field) (x : Option (BitVec n)) (fits : f.lo % 64 + f.n ≤ 64)
    (width : n = f.n) : (takePending s r f (x.map BitVec.toNat)).rd r f = pendNat x (s.rd r f) := by
  subst width
  cases x with
  | none => rfl
  | some b => exact (rd_wr_same s r f _ fits).trans (Nat.mod_eq_of_lt b.isLt)

theorem rd_takePending_field (s : State) (r : Nat) (f g : Field) (x : Option Nat) (fits : f.lo % 64 + f.n ≤ 64)
    (apart : g.lo / 64 ≠ f.lo / 64 ∨ g.lo % 64 + g.n ≤ f.lo % 64 ∨ f.lo % 64 + f.n ≤ g.lo % 64) :
    (takePending s r f x).rd r g = s.rd r g := by
  cases x with
  | none => rfl
  | some v => exact rd_wr_field s r f g v fits apart

/-- The state once N, MIN_EXP and MAX_EXP have taken their pending values. -/
def lsTaken (s : State) (c : Nat) : State :=
  takePending (takePending (takePending s (R.SCA_LS_CTRL c) F.SCA_LS_CTRL.N ((s.ctx c).lsN.map BitVec.toNat))
    (R.SCA_LS_CTRL c) F.SCA_LS_CTRL.MIN_EXP ((s.ctx c).lsMin.map BitVec.toNat))
    (R.SCA_LS_CTRL c) F.SCA_LS_CTRL.MAX_EXP ((s.ctx c).lsMax.map BitVec.toNat)

/-- At the boundary the pending values come into force; only contexts' own state changes besides. -/
theorem lsBoundary_eq (s : State) (c : Nat) : ∃ l, s.lsBoundary c = { lsTaken s c with ctxs := l } := by
  unfold State.lsBoundary
  dsimp only
  split
  · next idle =>
    simp only [Bool.and_eq_true, Option.isNone_iff_eq_none] at idle
    obtain ⟨⟨n, lo⟩, hi⟩ := idle
    refine ⟨s.ctxs, ?_⟩
    rw [lsTaken, n, lo, hi]
    rfl
  · exact ⟨_, rfl⟩

theorem rd_lsBoundary (s : State) (c r : Nat) (f : Field) : (s.lsBoundary c).rd r f = (lsTaken s c).rd r f := by
  obtain ⟨l, e⟩ := lsBoundary_eq s c
  rw [e]
  rfl

theorem lsBoundary_touches (s : State) (c : Nat) : TouchesRegs [R.SCA_LS_CTRL c] s (s.lsBoundary c) := by
  have named : ∀ f : Field, f.lo < 64 → R.SCA_LS_CTRL c + 8 * (f.lo / 64) ∈ [R.SCA_LS_CTRL c] :=
    fun f low => by rw [slot_low _ low]; exact List.mem_cons_self
  have taken : TouchesRegs [R.SCA_LS_CTRL c] s (lsTaken s c) :=
    (((TouchesRegs.refl s).takePending (named _ (by decide))).takePending (named _ (by decide))).takePending
      (named _ (by decide))
  obtain ⟨l, e⟩ := lsBoundary_eq s c
  obtain ⟨whole, words⟩ := taken
  rw [e]
  exact ⟨by rw [whole], words⟩

/-- The N that an update uses. -/
theorem lsBoundary_n (s : State) (c : Nat) : (s.lsBoundary c).rd (R.SCA_LS_CTRL c) F.SCA_LS_CTRL.N =
    pendNat (s.ctx c).lsN (s.rd (R.SCA_LS_CTRL c) F.SCA_LS_CTRL.N) := by
  rw [rd_lsBoundary, lsTaken, rd_takePending_field _ _ _ _ _ (by decide) (by decide),
    rd_takePending_field _ _ _ _ _ (by decide) (by decide), rd_takePending_same _ _ _ _ (by decide) (by decide)]

/-- The limits that an update uses. -/
theorem lsBoundary_limits (s : State) (c : Nat) : (s.lsBoundary c).lsLimits c =
    (expOf (pendNat (s.ctx c).lsMin (s.rd (R.SCA_LS_CTRL c) F.SCA_LS_CTRL.MIN_EXP)),
      expOf (pendNat (s.ctx c).lsMax (s.rd (R.SCA_LS_CTRL c) F.SCA_LS_CTRL.MAX_EXP))) := by
  rw [State.lsLimits, rd_lsBoundary, rd_lsBoundary, lsTaken, rd_takePending_field _ _ _ _ _ (by decide) (by decide),
    rd_takePending_same _ _ _ _ (by decide) (by decide), rd_takePending_same _ _ _ _ (by decide) (by decide),
    rd_takePending_field _ _ _ _ _ (by decide) (by decide), rd_takePending_field _ _ _ _ _ (by decide) (by decide),
    rd_takePending_field _ _ _ _ _ (by decide) (by decide)]

/-! ### The state of a loss scale (R173, R174) -/

/-- What the registers of a context hold of its loss scale: E, C and the four counters. -/
structure LossScale where
  exp : Int
  clean : Nat
  halvings : Nat
  doublings : Nat
  updates : Nat
  floorHits : Nat

/-- What the state holds of the loss scale of context `c`. -/
def lossScale (s : State) (c : Nat) : LossScale where
  exp := s.lsExp c
  clean := s.rd (R.SCA_LS_STATUS c) F.SCA_LS_STATUS.CLEAN
  halvings := s.rd (R.SCA_LS_STATUS c) F.SCA_LS_STATUS.HALVINGS
  doublings := s.rd (R.SCA_LS_STATUS c) F.SCA_LS_STATUS.DOUBLINGS
  updates := s.rd (R.SCA_LS_COUNT c) F.SCA_LS_COUNT.UPDATES
  floorHits := s.rd (R.SCA_LS_COUNT c) F.SCA_LS_COUNT.FLOOR_HITS

/-- It depends on two registers. -/
theorem lossScale_of_words {s u : State} {c : Nat} (status : u.word (R.SCA_LS_STATUS c) = s.word (R.SCA_LS_STATUS c))
    (count : u.word (R.SCA_LS_COUNT c) = s.word (R.SCA_LS_COUNT c)) : lossScale u c = lossScale s c := by
  have ofStatus : ∀ f : Field, f.lo < 64 → u.rd (R.SCA_LS_STATUS c) f = s.rd (R.SCA_LS_STATUS c) f :=
    fun f low => rd_eq_of_word low status
  have ofCount : ∀ f : Field, f.lo < 64 → u.rd (R.SCA_LS_COUNT c) f = s.rd (R.SCA_LS_COUNT c) f :=
    fun f low => rd_eq_of_word low count
  simp (disch := decide) only [lossScale, State.lsExp, ofStatus, ofCount]

section
variable (s : State) (c v : Nat)

/-- Writing a field of SCA_LS_STATUS leaves the counters of SCA_LS_COUNT. -/
theorem rd_count_wr_status {f g : Field} (hf : f.lo < 64) (hg : g.lo < 64) :
    (s.wr (R.SCA_LS_STATUS c) f v).rd (R.SCA_LS_COUNT c) g = s.rd (R.SCA_LS_COUNT c) g :=
  rd_wr_register s v (by unfold R.SCA_LS_STATUS R.SCA_LS_COUNT; omega) hf hg

/-- Writing a field of SCA_LS_COUNT leaves those of SCA_LS_STATUS. -/
theorem rd_status_wr_count {f g : Field} (hf : f.lo < 64) (hg : g.lo < 64) :
    (s.wr (R.SCA_LS_COUNT c) f v).rd (R.SCA_LS_STATUS c) g = s.rd (R.SCA_LS_STATUS c) g :=
  rd_wr_register s v (by unfold R.SCA_LS_STATUS R.SCA_LS_COUNT; omega) hf hg

@[simp] theorem lossScale_wr_exp : lossScale (s.wr (R.SCA_LS_STATUS c) F.SCA_LS_STATUS.EXP v) c =
    { lossScale s c with exp := sgn 8 v } := by
  have exp : (s.wr (R.SCA_LS_STATUS c) F.SCA_LS_STATUS.EXP v).lsExp c = sgn 8 v :=
    (congrArg (sgn 8) (rd_wr_same s _ F.SCA_LS_STATUS.EXP v (by decide))).trans (sgn_mod 8 v)
  simp (disch := decide) only [lossScale, exp, rd_wr_field, rd_count_wr_status]

@[simp] theorem lossScale_wr_clean : lossScale (s.wr (R.SCA_LS_STATUS c) F.SCA_LS_STATUS.CLEAN v) c =
    { lossScale s c with clean := v % 2 ^ 16 } := by
  have clean : (s.wr (R.SCA_LS_STATUS c) F.SCA_LS_STATUS.CLEAN v).rd _ F.SCA_LS_STATUS.CLEAN = v % 2 ^ 16 :=
    rd_wr_same s _ _ v (by decide)
  rw [lossScale, clean]
  simp (disch := decide) only [lossScale, State.lsExp, rd_wr_field, rd_count_wr_status]

@[simp] theorem lossScale_bump_halvings : lossScale (s.bump (R.SCA_LS_STATUS c) F.SCA_LS_STATUS.HALVINGS 1) c =
    { lossScale s c with halvings := min ((lossScale s c).halvings + 1) 0xFFFF } := by
  have counted : (s.bump (R.SCA_LS_STATUS c) F.SCA_LS_STATUS.HALVINGS 1).rd _ F.SCA_LS_STATUS.HALVINGS =
      min (s.rd (R.SCA_LS_STATUS c) F.SCA_LS_STATUS.HALVINGS + 1) 0xFFFF := rd_bump_same s _ _ 1 (by decide)
  rw [lossScale, counted]
  simp (disch := decide) only [lossScale, State.lsExp, State.bump, rd_wr_field, rd_count_wr_status]

@[simp] theorem lossScale_bump_doublings : lossScale (s.bump (R.SCA_LS_STATUS c) F.SCA_LS_STATUS.DOUBLINGS 1) c =
    { lossScale s c with doublings := min ((lossScale s c).doublings + 1) 0xFFFF } := by
  have counted : (s.bump (R.SCA_LS_STATUS c) F.SCA_LS_STATUS.DOUBLINGS 1).rd _ F.SCA_LS_STATUS.DOUBLINGS =
      min (s.rd (R.SCA_LS_STATUS c) F.SCA_LS_STATUS.DOUBLINGS + 1) 0xFFFF := rd_bump_same s _ _ 1 (by decide)
  rw [lossScale, counted]
  simp (disch := decide) only [lossScale, State.lsExp, State.bump, rd_wr_field, rd_count_wr_status]

@[simp] theorem lossScale_bump_floorHits : lossScale (s.bump (R.SCA_LS_COUNT c) F.SCA_LS_COUNT.FLOOR_HITS 1) c =
    { lossScale s c with floorHits := min ((lossScale s c).floorHits + 1) 0xFFFF } := by
  have counted : (s.bump (R.SCA_LS_COUNT c) F.SCA_LS_COUNT.FLOOR_HITS 1).rd _ F.SCA_LS_COUNT.FLOOR_HITS =
      min (s.rd (R.SCA_LS_COUNT c) F.SCA_LS_COUNT.FLOOR_HITS + 1) 0xFFFF := rd_bump_same s _ _ 1 (by decide)
  rw [lossScale, counted]
  simp (disch := decide) only [lossScale, State.lsExp, State.bump, rd_wr_field, rd_status_wr_count]

@[simp] theorem lossScale_count_updates : lossScale (s.count (R.SCA_LS_COUNT c) F.SCA_LS_COUNT.UPDATES 1) c =
    { lossScale s c with updates := ((lossScale s c).updates + 1) % 2 ^ 32 } := by
  have updates : (s.count (R.SCA_LS_COUNT c) F.SCA_LS_COUNT.UPDATES 1).rd _ F.SCA_LS_COUNT.UPDATES =
      (s.rd (R.SCA_LS_COUNT c) F.SCA_LS_COUNT.UPDATES + 1) % 2 ^ 32 := rd_wr_same s _ _ _ (by decide)
  rw [lossScale, updates]
  simp (disch := decide) only [lossScale, State.lsExp, State.count, rd_wr_field, rd_status_wr_count]

end

/-! ### The update (R174) -/

/-- The update of R174 on the values of a loss scale: `w` is the outcome word, and `k` what C becomes at a clean step that does not double. -/
def LossScale.close (x : LossScale) (n : Nat) (lo hi : Int) (w : Nat) : LossScale :=
  let k := min (x.clean + 1) 0xFFFF
  { exp := clampExp (if w % 2 = 1 then x.exp - 1 else if w % 4 = 0 ∧ n ≠ 0 ∧ n ≤ k then x.exp + 1 else x.exp) lo hi
    clean := if w % 2 = 1 then 0 else if w % 4 = 0 then if n ≠ 0 ∧ n ≤ k then 0 else k else x.clean
    halvings := if w % 2 = 1 then min (x.halvings + 1) 0xFFFF else x.halvings
    doublings := if w % 4 = 0 ∧ n ≠ 0 ∧ n ≤ k then min (x.doublings + 1) 0xFFFF else x.doublings
    updates := (x.updates + 1) % 2 ^ 32
    floorHits := if w % 2 = 1 ∧ x.exp = lo then min (x.floorHits + 1) 0xFFFF else x.floorHits }

/-- NONFINITE is bit 0 of the outcome word. -/
theorem bits_nonfinite (w : Nat) : bits w 0 1 = w % 2 := by
  simp only [bits, Nat.shiftRight_zero, Nat.pow_one]

theorem bits_hold (w : Nat) : bits w 1 1 = w / 2 % 2 := by
  simp only [bits, Nat.shiftRight_eq_div_pow, Nat.pow_one]

theorem lossScale_lsBoundary (s : State) (c : Nat) : lossScale (s.lsBoundary c) c = lossScale s c := by
  obtain ⟨-, words⟩ := lsBoundary_touches s c
  have status : R.SCA_LS_STATUS c ≠ R.SCA_LS_CTRL c := by unfold R.SCA_LS_STATUS R.SCA_LS_CTRL; omega
  have count : R.SCA_LS_COUNT c ≠ R.SCA_LS_CTRL c := by unfold R.SCA_LS_COUNT R.SCA_LS_CTRL; omega
  exact lossScale_of_words (words _ (mt List.mem_singleton.mp status)) (words _ (mt List.mem_singleton.mp count))

/-- An update is R174's on the values of the loss scale, with N and the limits that were pending in force. -/
theorem lossScale_lsUpdate (s : State) (c w : Nat) : lossScale (s.lsUpdate c w) c =
    (lossScale s c).close (pendNat (s.ctx c).lsN (s.rd (R.SCA_LS_CTRL c) F.SCA_LS_CTRL.N))
      (expOf (pendNat (s.ctx c).lsMin (s.rd (R.SCA_LS_CTRL c) F.SCA_LS_CTRL.MIN_EXP)))
      (expOf (pendNat (s.ctx c).lsMax (s.rd (R.SCA_LS_CTRL c) F.SCA_LS_CTRL.MAX_EXP))) w := by
  rw [← lossScale_lsBoundary s, ← lsBoundary_n]
  unfold State.lsUpdate LossScale.close
  simp only [lsBoundary_limits, bits_nonfinite, bits_hold]
  generalize s.lsBoundary c = b
  generalize pendNat (s.ctx c).lsMin _ = lo
  generalize pendNat (s.ctx c).lsMax _ = hi
  have exp : b.lsExp c = (lossScale b c).exp := rfl
  have clean : b.rd (R.SCA_LS_STATUS c) F.SCA_LS_STATUS.CLEAN = (lossScale b c).clean := rfl
  rw [exp, clean]
  have hold : w / 2 % 2 = 0 ↔ w % 4 = 0 ∨ w % 4 = 1 := by omega
  by_cases nonfinite : w % 2 = 1
  · have counts : ¬ w % 4 = 0 := by omega
    by_cases floor : (lossScale b c).exp = expOf lo
    · simp only [nonfinite, counts, floor, ↓reduceIte, lossScale_count_updates, lossScale_bump_halvings, lossScale_wr_clean,
        lossScale_wr_exp, lossScale_bump_floorHits, sgn_wrap_clampExp, Nat.zero_mod, false_and, and_self]
    · simp only [nonfinite, counts, floor, ↓reduceIte, lossScale_count_updates, lossScale_bump_halvings, lossScale_wr_clean,
        lossScale_wr_exp, sgn_wrap_clampExp, Nat.zero_mod, false_and, and_false]
  · by_cases step : w % 4 = 0
    · generalize b.rd (R.SCA_LS_CTRL c) F.SCA_LS_CTRL.N = n
      by_cases doubles : n ≠ 0 ∧ n ≤ min ((lossScale b c).clean + 1) 65535
      · simp only [nonfinite, hold, step, doubles, ↓reduceIte, true_or, false_and, ne_eq, not_false_eq_true, and_self,
          lossScale_count_updates, lossScale_bump_doublings, lossScale_wr_clean, lossScale_wr_exp, sgn_wrap_clampExp, Nat.zero_mod]
      · have fits : min ((lossScale b c).clean + 1) 65535 % 2 ^ 16 = min ((lossScale b c).clean + 1) 65535 :=
          Nat.mod_eq_of_lt (by omega)
        simp only [nonfinite, hold, step, doubles, true_or, true_and, false_and, if_true, if_false, lossScale_count_updates,
          lossScale_wr_clean, lossScale_wr_exp, sgn_wrap_clampExp, fits]
    · have held : ¬ w / 2 % 2 = 0 := by omega
      simp only [nonfinite, held, step, ↓reduceIte, false_and, lossScale_count_updates, lossScale_wr_exp, sgn_wrap_clampExp]

/-- The registers of a context's loss scale. -/
def lsRegs (c : Nat) : List Nat := [R.SCA_LS_CTRL c, R.SCA_LS_STATUS c, R.SCA_LS_COUNT c]

/-- An update touches the loss scale's own registers and the context's pending values alone. -/
theorem lsUpdate_touches (s : State) (c w : Nat) : TouchesRegs (lsRegs c) s (s.lsUpdate c w) := by
  have boundary : TouchesRegs (lsRegs c) s (s.lsBoundary c) :=
    (lsBoundary_touches s c).mono (List.cons_subset.mpr ⟨List.mem_cons_self, List.nil_subset _⟩)
  have status : ∀ f : Field, f.lo < 64 → R.SCA_LS_STATUS c + 8 * (f.lo / 64) ∈ lsRegs c :=
    fun f low => by simp only [lsRegs, slot_low _ low, List.mem_cons, true_or, or_true]
  have count : ∀ f : Field, f.lo < 64 → R.SCA_LS_COUNT c + 8 * (f.lo / 64) ∈ lsRegs c :=
    fun f low => by simp only [lsRegs, slot_low _ low, List.mem_cons, true_or, or_true]
  unfold State.lsUpdate
  simp only [lsBoundary_limits]
  refine .wr ?_ (count _ (by decide))
  refine .ite ?nonfinite (.ite (.ite ?doubling ?clean) ?hold)
  case nonfinite =>
    exact .wr (.wr (.wr (.ite (boundary.wr (count _ (by decide))) boundary) (status _ (by decide))) (status _ (by decide)))
      (status _ (by decide))
  case doubling => exact ((boundary.wr (status _ (by decide))).wr (status _ (by decide))).wr (status _ (by decide))
  case clean => exact (boundary.wr (status _ (by decide))).wr (status _ (by decide))
  case hold => exact boundary.wr (status _ (by decide))

/-! ### The values of an update (R174) -/

section
variable (x : LossScale) (n : Nat) (lo hi : Int) {w : Nat}

/-- A NONFINITE outcome. -/
theorem close_nonfinite (nonfinite : w % 2 = 1) :
    (x.close n lo hi w).clean = 0 ∧ (x.close n lo hi w).exp = clampExp (x.exp - 1) lo hi := by
  simp only [LossScale.close, nonfinite, ↓reduceIte, and_self]

/-- HOLD alone. -/
theorem close_hold (hold : w % 4 = 2) :
    (x.close n lo hi w).clean = x.clean ∧ (x.close n lo hi w).exp = clampExp x.exp lo hi := by
  have finite : ¬ w % 2 = 1 := by omega
  have counts : ¬ w % 4 = 0 := by omega
  simp only [LossScale.close, finite, counts, ↓reduceIte, false_and, and_self]

/-- A clean step. -/
theorem close_step (step : w % 4 = 0) :
    (x.close n lo hi w).clean = (if n ≠ 0 ∧ n ≤ min (x.clean + 1) 0xFFFF then 0 else min (x.clean + 1) 0xFFFF) ∧
    (x.close n lo hi w).exp = clampExp (if n ≠ 0 ∧ n ≤ min (x.clean + 1) 0xFFFF then x.exp + 1 else x.exp) lo hi := by
  have finite : ¬ w % 2 = 1 := by omega
  simp only [LossScale.close, finite, step, ↓reduceIte, true_and, and_self]

end

/-- A counter that saturates, counted where an event has occurred. -/
theorem counted_ite (s : State) (r : Nat) (f : Field) (hit : Prop) [Decidable hit] :
    (if hit then min (s.rd r f + 1) (2 ^ f.n - 1) else s.rd r f) = min (s.rd r f + (if hit then 1 else 0)) (2 ^ f.n - 1) := by
  split
  · rfl
  · exact (min_rd_full s r f).symm

/-! ### SCA.LSUPD (R174) -/

/-- What only a context has, a context may use. -/
theorem ofCtx_context (s u : State) (p : Nat) (c : CtxId) : s.ofCtx p c u = u := if_neg (Nat.ne_of_lt c.isLt)

/-- On the owner core the update is made and the instruction commits. -/
theorem scaLsupd_owner {s t : State} {p : CoreId} {c : CtxId} (h : s.issues p 8 c.val t) (ra : SReg)
    (owner : t.logicalOf p = some (t.rd (R.SCA_LS_CTRL c) F.SCA_LS_CTRL.OWNER)) :
    exec (.scaLsupd p ra) s = .next ((t.lsUpdate c (t.sreg p ra).toNat).commit p) := by
  refine congrArg Host.Outcome.next ?_
  rw [issue_runs _ _ _ _ _ _ h, ofCtx_context, if_pos owner]

/-- On any other core it raises SCA_NOT_OWNER. -/
theorem scaLsupd_notOwner {s t : State} {p : CoreId} {c : CtxId} (h : s.issues p 8 c.val t) (ra : SReg)
    (other : ¬ t.logicalOf p = some (t.rd (R.SCA_LS_CTRL c) F.SCA_LS_CTRL.OWNER)) :
    exec (.scaLsupd p ra) s = .next (t.raiseInsn p c.val cScaNotOwner (t.pc p).toNat 0) := by
  refine congrArg Host.Outcome.next ?_
  rw [issue_runs _ _ _ _ _ _ h, ofCtx_context, if_neg other]

/-- The commit keeps the loss scale. -/
theorem lossScale_commit (s : State) (p : CoreId) (c : CtxId) : lossScale (s.commit p) c = lossScale s c := by
  have context := c.isLt
  have kept : ∀ a, a < 0x04800000 → (s.commit p).word a = s.word a := by
    intro a low
    refine word_commitAt_ne s p a _ p.isLt ?_
    simp only [R.SEQ_PC, R.SEQ_CTRL, List.mem_cons, List.not_mem_nil, or_false]
    omega
  exact lossScale_of_words (kept _ (by unfold R.SCA_LS_STATUS; omega)) (kept _ (by unfold R.SCA_LS_COUNT; omega))

/-- An update and its commit leave scalar registers and HBM, and move the program counter on by 8. -/
theorem lsUpdate_commit_frame (t : State) (p : CoreId) (c : CtxId) (w : Nat) :
    committed p 8 t ((t.lsUpdate c w).commit p) ∧ (∀ r, ((t.lsUpdate c w).commit p).sreg p r = t.sreg p r) ∧
    ((t.lsUpdate c w).commit p).hbm = t.hbm := by
  have touched := lsUpdate_touches t c w
  have context := c.isLt
  refine ⟨?pc, fun r => ?sreg, ?hbm⟩
  case pc =>
    obtain ⟨-, words⟩ := touched
    rw [committed, State.commit, pc_commitAt]
    congr 1
    have other : R.SEQ_PC p ∉ lsRegs c := by
      simp only [lsRegs, R.SEQ_PC, R.SCA_LS_CTRL, R.SCA_LS_STATUS, R.SCA_LS_COUNT, List.mem_cons, List.not_mem_nil, or_false]
      omega
    exact words _ other
  case sreg => rw [State.commit, sreg_commitAt, touched.sreg]
  case hbm =>
    obtain ⟨whole, -⟩ := commitAt_sameBut (t.lsUpdate c w) p ((t.lsUpdate c w).pc p + 8) p.isLt
    rw [State.commit, whole]
    exact touched.hbm

/-! ### Telemetry (R185, R186) -/

section
variable {d c tag fmt : Nat} (hc : c < 16) (ht : tag < 64) (hf : fmt < 16)
include hc ht hf

/-- Adding to one counter of a tag and format, as it is read from any of the four. -/
theorem rd_telAdd (s : State) (k n : Nat) {j : Nat} (hj : j < 4) :
    (s.telAdd d c tag fmt k n).rd (R.TEL_CNT d c tag fmt j) F.TEL_CNT.COUNT =
      if j = k then min (s.rd (R.TEL_CNT d c tag fmt j) F.TEL_CNT.COUNT + n) (2 ^ 48 - 1)
      else s.rd (R.TEL_CNT d c tag fmt j) F.TEL_CNT.COUNT := by
  have apart : R.TEL_CNT d c tag fmt j ≠ R.TEL_CTX d c := by
    unfold R.TEL_CNT R.TEL_CTX
    omega
  have full : ∀ v : State, (v.wr (R.TEL_CTX d c) F.TEL_CTX.SATURATED 1).rd (R.TEL_CNT d c tag fmt j) F.TEL_CNT.COUNT =
      v.rd (R.TEL_CNT d c tag fmt j) F.TEL_CNT.COUNT :=
    fun v => rd_wr_register v 1 apart (by decide) (by decide)
  unfold State.telAdd
  by_cases nothing : n = 0
  · rw [if_pos nothing, nothing]
    have bound := min_rd_full s (R.TEL_CNT d c tag fmt j) F.TEL_CNT.COUNT
    split
    · exact bound.symm
    · rfl
  · rw [if_neg nothing, apply_ite (fun v : State => v.rd (R.TEL_CNT d c tag fmt j) F.TEL_CNT.COUNT), full, ite_self]
    split
    · next same =>
      subst same
      exact rd_bump_same s _ F.TEL_CNT.COUNT n (by decide)
    · next other => exact rd_wr_register s _ (by unfold R.TEL_CNT; omega) (by decide) (by decide)

end

theorem core_telAdd (s : State) (d c tag fmt k n q : Nat) : (s.telAdd d c tag fmt k n).core q = s.core q := by
  unfold State.telAdd
  dsimp only
  split
  · rfl
  · split
    · rw [core_wr, core_wr]
    · rw [core_wr]

/-! ### The statement -/

/-- Settles O18: an update is R174's on the values of the loss scale, a read the sum of two counters, a delivery four additions. -/
theorem lossScaleAndTelemetry : Obligations.LossScaleAndTelemetry := by
  refine ⟨fun s t p c issues => ⟨fun ra owner => ?update, fun ra other => scaLsupd_notOwner issues ra other, ?read⟩, ?deliver⟩
  case update =>
    obtain ⟨pc, sregs, hbm⟩ := lsUpdate_commit_frame t p c (t.sreg p ra).toNat
    have closed := (lossScale_commit (t.lsUpdate c (t.sreg p ra).toNat) p c).trans (lossScale_lsUpdate t c (t.sreg p ra).toNat)
    refine ⟨_, scaLsupd_owner issues ra owner, pc, sregs, hbm, congrArg LossScale.updates closed, ?halvings, ?doublings, ?floorHits,
      fun nonfinite => ?_, fun hold => ?_, fun step => ?_⟩
    case halvings => exact (congrArg LossScale.halvings closed).trans (counted_ite ..)
    case doublings => exact (congrArg LossScale.doublings closed).trans (counted_ite ..)
    case floorHits => exact (congrArg LossScale.floorHits closed).trans (counted_ite ..)
    · obtain ⟨clean, exp⟩ := close_nonfinite (lossScale t c) _ _ _ nonfinite
      exact ⟨(congrArg LossScale.clean closed).trans clean, (congrArg LossScale.exp closed).trans exp⟩
    · obtain ⟨clean, exp⟩ := close_hold (lossScale t c) _ _ _ hold
      exact ⟨(congrArg LossScale.clean closed).trans clean, (congrArg LossScale.exp closed).trans exp⟩
    · obtain ⟨clean, exp⟩ := close_step (lossScale t c) _ _ _ step
      exact ⟨(congrArg LossScale.clean closed).trans clean, (congrArg LossScale.exp closed).trans exp⟩
  case read =>
    intro rd tag fmt kind legal delivered idle
    obtain ⟨dest, others, pc, ⟨whole, -⟩, -⟩ := commitReg_scalarWrote t p rd
      (BitVec.ofNat 64 (t.rd (R.TEL_CNT 0 c tag.toNat fmt.toNat (telCode kind)) F.TEL_CNT.COUNT +
        t.rd (R.TEL_CNT 1 c tag.toNat fmt.toNat (telCode kind)) F.TEL_CNT.COUNT))
    refine ⟨_, congrArg Host.Outcome.next ?_, pc, dest, others, by rw [whole]⟩
    rw [legal, issue_runs _ _ _ _ _ _ issues, ofCtx_context, delivered, idle]
    rfl
  case deliver =>
    intro s p x rest owes hc ht hf
    refine ⟨_, congrArg Host.Outcome.next (by rw [owes]), ?rest, ?produced, ?overs, ?vanished, ?subnormal, fun q hq => ?others⟩
    case rest => simp only [core_telAdd, core_setCore_same]
    case others => simp only [core_telAdd, core_setCore_ne _ _ _ _ hq]
    case produced | overs | vanished | subnormal =>
      simp (disch := decide) only [rd_telAdd hc ht hf, rd_setCore, ↓reduceIte, reduceCtorEq, Nat.reduceEqDiff, Nat.zero_ne_one,
        Nat.succ_ne_self]

end Sys2Proof.Proofs
end

section
/-!
PROOFS. What a change of a stack's thermal state (R213, R214) keeps: the bytes of HBM, what each stack shows of its heat, and, while no context is
fenced, what waits for memory. First the updates of parts of the state, then the end of a jig, the clamp and the reports.
-/
namespace Sys2Proof.Proofs
open Sys2Proof.Machine Sys2Proof.Laws

/-! ### What is kept -/

/-- The requests, writes and contexts that wait for memory, and what the plinths have parked and announced, are those of `s`; a core on which no store
and no DMA descriptor waited still has none. -/
structure SameWaits (s t : State) : Prop where
  retry : t.retry = s.retry
  biWait : t.biWait = s.biWait
  ctxs : t.ctxs = s.ctxs
  parked : ∀ i, (t.plinth i).parked = (s.plinth i).parked
  notices : ∀ i, (t.plinth i).notices = (s.plinth i).notices
  posted : ∀ p, (s.core p).posted = [] → (t.core p).posted = []
  active : ∀ p, (∀ e, (s.dmaEng p e).active = none) → ∀ e, (t.dmaEng p e).active = none

/-- The bytes of HBM and what each stack shows of its heat are those of `s`, and THERM_TRIP_N stays asserted; where `waits` is true, what waits for
memory is that of `s` too. -/
structure HeatKept (waits : Bool) (s t : State) : Prop where
  hbm : t.hbm = s.hbm
  trip : s.pins.trip = true → t.pins.trip = true
  temp : ∀ site : SiteId, t.rd (R.PLN_STATUS site) F.PLN_STATUS.TEMP = s.rd (R.PLN_STATUS site) F.PLN_STATUS.TEMP
  therm : ∀ site : SiteId, t.rd (R.PLN_STATUS site) F.PLN_STATUS.THERM_STATE = s.rd (R.PLN_STATUS site) F.PLN_STATUS.THERM_STATE
  waiting : waits = true → SameWaits s t

/-- The parts of the state that `HeatKept` speaks of. -/
def heatParts (s : State) := (s.hbm, s.pins.trip, s.regs, s.retry, s.biWait, s.ctxs, s.plinths, s.cores)

/-- A register slot that is no PLN_STATUS. -/
def OffPlinth (a : Nat) : Prop := ∀ site : SiteId, R.PLN_STATUS site ≠ a

theorem offPlinth_low {a : Nat} (h : a < 0x08000000) : OffPlinth a := by
  intro site
  unfold R.PLN_STATUS
  omega

theorem offPlinth_high {a : Nat} (h : 0x08800000 ≤ a) : OffPlinth a := by
  intro site
  have := site.isLt
  unfold R.PLN_STATUS
  omega

/-- PLN_STATUS lies at multiples of 0x80. -/
theorem offPlinth_between {a : Nat} (h : a % 0x80 ≠ 0) : OffPlinth a := by
  intro site
  unfold R.PLN_STATUS
  omega

theorem SameWaits.refl (s : State) : SameWaits s s := ⟨rfl, rfl, rfl, fun _ => rfl, fun _ => rfl, fun _ h => h, fun _ h => h⟩

theorem SameWaits.trans {s t u : State} (h : SameWaits s t) (k : SameWaits t u) : SameWaits s u where
  retry := k.retry.trans h.retry
  biWait := k.biWait.trans h.biWait
  ctxs := k.ctxs.trans h.ctxs
  parked i := (k.parked i).trans (h.parked i)
  notices i := (k.notices i).trans (h.notices i)
  posted p e := k.posted p (h.posted p e)
  active p e := k.active p (h.active p e)

theorem SameWaits.quiet {s t : State} (h : SameWaits s t) (q : s.quiet) : t.quiet := by
  obtain ⟨retry, biWait, cores, todo⟩ := q
  refine ⟨h.retry.trans retry, h.biWait.trans biWait, fun p => ⟨h.posted p (cores p).1, h.active p (cores p).2⟩, fun c => ?_⟩
  rw [State.ctx, h.ctxs]
  exact todo c

section
variable {b : Bool} {s t u : State}

theorem HeatKept.refl (b : Bool) (s : State) : HeatKept b s s := ⟨rfl, id, fun _ => rfl, fun _ => rfl, fun _ => .refl s⟩

theorem HeatKept.trans (h : HeatKept b s t) (k : HeatKept b t u) : HeatKept b s u where
  hbm := k.hbm.trans h.hbm
  trip asserted := k.trip (h.trip asserted)
  temp site := (k.temp site).trans (h.temp site)
  therm site := (k.therm site).trans (h.therm site)
  waiting w := (h.waiting w).trans (k.waiting w)

/-! ### Updates of parts of the state -/

theorem HeatKept.of_parts (h : HeatKept b s t) (e : heatParts u = heatParts t) : HeatKept b s u := by
  obtain ⟨hbm, trip, regs, retry, biWait, ctxs, plinths, cores⟩ : _ ∧ _ ∧ _ ∧ _ ∧ _ ∧ _ ∧ _ ∧ _ := by
    simpa only [heatParts, Prod.mk.injEq] using e
  have shown (site : SiteId) (f : Field) : u.rd (R.PLN_STATUS site) f = t.rd (R.PLN_STATUS site) f := rd_regs t u regs _ _
  refine h.trans ⟨hbm, trip.trans, fun site => shown site _, fun site => shown site _, fun _ => ⟨retry, biWait, ctxs, ?_, ?_, ?_, ?_⟩⟩
  · simp [State.plinth, plinths]
  · simp [State.plinth, plinths]
  · simp [State.core, cores]
  · simp [State.dmaEng, State.core, cores]

/-- A register file in which the low 24 bits of each PLN_STATUS stay. -/
theorem HeatKept.withRegs {m : SMap Word} (h : HeatKept b s t) (kept : ∀ (site : SiteId) (f : Field), f.lo + f.n ≤ 24 →
    ({ t with regs := m } : State).rd (R.PLN_STATUS site) f = t.rd (R.PLN_STATUS site) f) : HeatKept b s { t with regs := m } :=
  h.trans ⟨rfl, id, fun site => kept site _ (by decide), fun site => kept site _ (by decide), fun _ =>
    ⟨rfl, rfl, rfl, fun _ => rfl, fun _ => rfl, fun _ h => h, fun _ h => h⟩⟩

/-- A register slot other than PLN_STATUS. -/
theorem HeatKept.setWord {a : Nat} {v : Word} (h : HeatKept b s t) (off : OffPlinth a) : HeatKept b s (t.setWord a v) :=
  h.withRegs fun site _ below => rd_eq_of_word (by omega) (word_setWord_ne t a _ v (off site))

theorem HeatKept.wr {r : Nat} {f : Field} {v : Nat} (h : HeatKept b s t) (off : OffPlinth (r + 8 * (f.lo / 64))) :
    HeatKept b s (t.wr r f v) := h.setWord off

/-- A register below the plinths' windows. -/
theorem HeatKept.wrLow {r : Nat} {f : Field} {v : Nat} (h : HeatKept b s t) (low : r + 8 * (f.lo / 64) < 0x08000000) :
    HeatKept b s (t.wr r f v) := h.wr (offPlinth_low low)

/-- A field that lies above TEMP in whatever register. -/
theorem HeatKept.wrFill {r : Nat} {f : Field} {v : Nat} (h : HeatKept b s t) (above : 24 ≤ f.lo) (low : f.lo < 64)
    (fits : f.lo % 64 + f.n ≤ 64) : HeatKept b s (t.wr r f v) := by
  refine h.withRegs fun site g below => ?_
  change (t.wr r f v).rd (R.PLN_STATUS site) g = _
  by_cases same : R.PLN_STATUS site = r
  · rw [same]
    exact rd_wr_field t r f g v fits (by omega)
  · exact rd_wr_register t v same low (by omega)

theorem HeatKept.resetSlots {sel : Nat → Bool} (h : HeatKept b s t) (off : ∀ site : SiteId, sel (R.PLN_STATUS site) = false) :
    HeatKept b s (t.resetSlots sel) := by
  refine h.withRegs fun site f below => rd_eq_of_word (by omega) ?_
  unfold State.word SMap.lookD
  rw [look_filter_in _ (fun a => !sel a) _ (by rw [off site]; rfl)]

/-- A core may be replaced by one that has no store and no DMA descriptor waiting where it had none. -/
theorem HeatKept.setCore {p : Nat} {x : Core} (h : HeatKept b s t)
    (posted : b = true → (t.core p).posted = [] → x.posted = [])
    (active : b = true → (∀ e, (t.dmaEng p e).active = none) → ∀ e, (SMap.lookD x.dma e ({} : DmaEng)).active = none) :
    HeatKept b s (t.setCore p x) := by
  refine h.trans ⟨rfl, id, fun _ => rfl, fun _ => rfl, fun w => ⟨rfl, rfl, rfl, fun _ => rfl, fun _ => rfl, fun q k => ?_, fun q k => ?_⟩⟩
  · by_cases same : q = p
    · subst same
      rw [core_setCore_same]
      exact posted w k
    · rwa [core_setCore_ne t p q x same]
  · by_cases same : q = p
    · subst same
      unfold State.dmaEng
      rw [core_setCore_same]
      exact active w k
    · unfold State.dmaEng at k ⊢
      rwa [core_setCore_ne t p q x same]

/-- A core whose stores and DMA engines stay. -/
theorem HeatKept.setCore_same {p : Nat} {x : Core} (h : HeatKept b s t) (posted : x.posted = (t.core p).posted)
    (dma : x.dma = (t.core p).dma) : HeatKept b s (t.setCore p x) :=
  h.setCore (fun _ k => posted.trans k) (fun _ k => by rwa [dma])

/-- A plinth whose parked requests and notices stay. -/
theorem HeatKept.setPlinth {i : Nat} {x : Plinth} (h : HeatKept b s t) (parked : b = true → x.parked = (t.plinth i).parked)
    (notices : b = true → x.notices = (t.plinth i).notices) : HeatKept b s (t.setPlinth i x) := by
  refine h.trans ⟨rfl, id, fun _ => rfl, fun _ => rfl, fun w => ⟨rfl, rfl, rfl, fun j => ?_, fun j => ?_, fun _ k => k, fun _ k => k⟩⟩
  · by_cases same : j = i
    · subst same
      rw [plinth_setPlinth_same]
      exact parked w
    · rw [plinth_setPlinth_ne t i j x same]
  · by_cases same : j = i
    · subst same
      rw [plinth_setPlinth_same]
      exact notices w
    · rw [plinth_setPlinth_ne t i j x same]

theorem HeatKept.emit {o : Out} (h : HeatKept b s t) : HeatKept b s (t.emit o) := by
  unfold State.emit
  cases o.link <;> exact h.of_parts rfl

/-! ### Composition -/

theorem HeatKept.ite {c : Prop} [Decidable c] (h : HeatKept b s t) (k : HeatKept b s u) : HeatKept b s (if c then t else u) := by
  split
  · exact h
  · exact k

theorem HeatKept.foldl {α : Type} {f : State → α → State} {l : List α} (h : HeatKept b s t)
    (each : ∀ a ∈ l, ∀ t, HeatKept b s t → HeatKept b s (f t a)) : HeatKept b s (l.foldl f t) :=
  List.foldlRecOn l f h fun t k a member => each a member t k

end

section
variable {b : Bool} {s t : State} {p : Nat}

/-! ### The end of a jig (R332, Table 105 step 6) -/

theorem lt_of_mem_upto {n x : Nat} (h : x ∈ upto n) : x < n := by
  have := mem_natsFrom 0 n x h
  omega

/-- No slot of a core's window of 64 KiB is a PLN_STATUS. -/
theorem offPlinth_window {a : Nat} (hp : p < 104) (h : a < 0x04800000 + p * 0x10000 + 0x10000) : OffPlinth a := offPlinth_low (by omega)

theorem HeatKept.wrWindow {r : Nat} {f : Field} {v : Nat} (h : HeatKept b s t) (hp : p < 104)
    (inside : r + 8 * (f.lo / 64) < 0x04800000 + p * 0x10000 + 0x10000) : HeatKept b s (t.wr r f v) := h.wr (offPlinth_window hp inside)

theorem HeatKept.setCube {c : Nat} {x : Cube} (h : HeatKept b s t) : HeatKept b s (t.setCube p c x) := h.setCore_same rfl rfl

theorem HeatKept.putImage {m : SaveImage} (hp : p < 104) (h : HeatKept b s t) : HeatKept b s (t.putImage p m) := by
  have registers : HeatKept b s (t.setCore p { t.core p with sregs := m.sregs, vregs := m.vregs }) := h.setCore_same rfl rfl
  have word {a : Nat} {v : Word} {u : State} (k : HeatKept b s u) (inside : a < 0x04800000 + p * 0x10000 + 0x10000) :
      HeatKept b s (u.setWord a v) := k.setWord (offPlinth_window hp inside)
  unfold State.putImage
  refine word (word (word (.foldl (word registers ?_) fun c hc u k => .wr (word k.setCube ?_) (offPlinth_window hp ?_)) ?_) ?_) ?_
  case refine_2 | refine_3 =>
    have := lt_of_mem_upto hc
    simp only [R.CUBE_ACC_STATUS, R.CUBE_STATUS, F.CUBE_STATUS.ACC_POISON]
    omega
  all_goals
    simp only [R.VEC_POISON, R.SEQ_PC, R.SEQ_HANDLER, R.SEQ_HRET]
    omega

theorem HeatKept.unbench {d : List Byte} (hp : p < 104) (h : HeatKept b s t) : HeatKept b s (t.unbench p d) :=
  .foldl (h.putImage hp) fun _ _ _ k => k.setCube

/-- The registers that a jig leaves alone lie in its core's window. -/
theorem jigShadow_window {a : Nat} (h : jigShadow p a = true) : 0x04800000 + p * 0x10000 ≤ a ∧ a < 0x04800000 + p * 0x10000 + 0x10000 := by
  simp only [jigShadow, Bool.or_eq_true, beq_iff_eq, Bool.and_eq_true, decide_eq_true_eq] at h
  simp only [R.SEQ_PERF, R.SEQ_FAULT_PC, R.CUBE_FEED_PERF, R.CUBE_ACCSTAT, R.VEC_STATUS, R.VEC_PERF, R.SCA_QSTAT, R.CUBE_STATUS] at h
  omega

theorem HeatKept.unshadow {r : JigRun} (hp : p < 104) (h : HeatKept b s t) : HeatKept b s (t.unshadow p r) := by
  have reset : HeatKept b s (t.resetSlots (jigShadow p)) := h.resetSlots fun site => by
    cases shadow : jigShadow p (R.PLN_STATUS site) with
    | false => rfl
    | true => exact absurd rfl (offPlinth_window hp (jigShadow_window shadow).2 site)
  have words := HeatKept.foldl (f := fun s e => s.setWord e.1 e.2) (l := r.words.filter fun e => jigShadow p e.1) reset
    fun e he u k => k.setWord (offPlinth_window hp (jigShadow_window (List.mem_filter.mp he).2).2)
  unfold State.unshadow
  refine .wr (.foldl words fun c hc u k => .setCube (.setWord k (offPlinth_window hp ?_))) (offPlinth_window hp ?_)
  · have := lt_of_mem_upto hc
    unfold R.CUBE_STATUS
    omega
  · simp only [R.CORE_STATUS, F.CORE_STATUS.UNINIT_READS]
    omega

theorem HeatKept.showAwake {d : Nat} (hd : d < 2) (h : HeatKept b s t) : HeatKept b s (t.showAwake d) :=
  h.wrLow (by simp only [R.DIE_STATUS, F.DIE_STATUS.AWAKE]; omega)

theorem HeatKept.admitWakes {d : Nat} (h : HeatKept b s t) : HeatKept b s (t.admitWakes d) := h.of_parts rfl

theorem HeatKept.setCoreState {v : Nat} (hp : p < 104) (h : HeatKept b s t) : HeatKept b s (t.setCoreState p v) :=
  h.wrWindow hp (by simp only [R.CORE_STATUS, F.CORE_STATUS.STATE]; omega)

theorem HeatKept.gateCore (hp : p < 104) (h : HeatKept b s t) : HeatKept b s (t.gateCore p) := by
  have reset : HeatKept b s (t.resetSlots (inCoreWindow p)) := h.resetSlots fun site => by
    cases inside : inCoreWindow p (R.PLN_STATUS site) with
    | false => rfl
    | true =>
      simp only [inCoreWindow, Bool.and_eq_true, decide_eq_true_eq] at inside
      obtain ⟨⟨-, below⟩, -⟩ := inside
      exact absurd rfl (offPlinth_window hp (by omega) site)
  unfold State.gateCore State.loseCore
  exact .setCoreState hp (reset.setCore (fun _ _ => rfl) fun _ _ _ => rfl)

theorem look_mapValues {α : Type} (m : SMap α) (g : α → α) (i : Nat) :
    SMap.look (m.map fun e => (e.1, g e.2)) i = (SMap.look m i).map g := by
  induction m with
  | nil => rfl
  | cons x m ih =>
    simp only [List.map_cons, SMap.look]
    split
    · rfl
    · exact ih

/-- Changing each DMA engine of a core brings no descriptor into progress, where the change brings none into an engine. -/
theorem active_mapValues {m : SMap DmaEng} {g : DmaEng → DmaEng} (keeps : ∀ x, x.active = none → (g x).active = none)
    (idle : ∀ e, (SMap.lookD m e {}).active = none) (e : Nat) : (SMap.lookD (m.map fun x => (x.1, g x.2)) e {}).active = none := by
  have at_e := idle e
  unfold SMap.lookD at at_e ⊢
  rw [look_mapValues]
  cases found : SMap.look m e with
  | none => rfl
  | some x =>
    rw [found] at at_e
    exact keeps x at_e

theorem active_dropWork {k : Core} {o : Owner} (idle : ∀ e, (SMap.lookD k.dma e {}).active = none) (e : Nat) :
    (SMap.lookD (k.dropWork o).dma e {}).active = none :=
  active_mapValues (g := fun x => { x with
      queue := x.queue.filter fun q => q.2 != o, active := x.active.map fun a => if a.2 = o then (a.1.halt, a.2) else a })
    (fun x idle => by simp only [idle, Option.map_none]) idle e

theorem HeatKept.dropJig (h : HeatKept b s t) : HeatKept b s (t.setCore p (t.core p).dropJig) := by
  refine h.setCore (fun _ empty => ?posted) fun _ idle e => ?active
  case posted =>
    change List.filter _ (t.core p).posted = []
    rw [empty]
    rfl
  case active =>
    exact active_mapValues (g := fun x => { x with active := x.active.filter fun a => a.2 != Fin.ofNat 17 jigCtx, jig := (1, 0, 0) })
      (fun x idle => by simp only [idle, Option.filter_none]) (active_dropWork idle) e

theorem HeatKept.leaveJig (hp : p < 104) (h : HeatKept b s t) : HeatKept b s (t.leaveJig p) := by
  have shown : HeatKept b s (t.wr R.JIG_STATUS F.JIG_STATUS.STATE 0) := h.wrLow (by decide)
  unfold State.leaveJig
  cases (t.core p).jig with
  | none => exact h
  | some r =>
    exact .ite (.admitWakes (.showAwake (by omega) (shown.dropJig.gateCore hp))) ((shown.dropJig.unbench hp).unshadow hp)

theorem HeatKept.abandonRun (hp : p < 104) (h : HeatKept b s t) : HeatKept b s (t.abandonRun p) := by
  unfold State.abandonRun
  cases (t.core p).jig with
  | none => exact h
  | some r =>
    exact (h.leaveJig hp).wrLow (by simp only [R.JIG_CORE_STATUS, F.JIG_CORE_STATUS.LAST_RESULT]; omega)

/-! ### The clamp (R15, R401, R402) -/

theorem HeatKept.showEmergency (h : HeatKept b s t) : HeatKept b s t.showEmergency := by
  have status {u : State} {f : Field} {v : Nat} (k : HeatKept b s u) (low : f.lo < 64) : HeatKept b s (u.wr R.CLP_STATUS f v) :=
    k.wrLow (by unfold R.CLP_STATUS; omega)
  unfold State.showEmergency
  extract_lets b2n hot stack opt cur volt em was s1 s2 s3 s4 s5 s6 s7 s8 since
  have emergencies : HeatKept b s s5 := status (status (status (status (status h (by decide)) (by decide)) (by decide)) (by decide)) (by decide)
  have shown : HeatKept b s s7 := status (status emergencies (by decide)) (by decide)
  have counted : HeatKept b s s8 := .ite (shown.wrLow (by decide)) shown
  exact counted.of_parts rfl

theorem HeatKept.setDieClamp {d : Nat} {x : DieClamp} (h : HeatKept b s t) : HeatKept b s (t.setDieClamp d x) := h.of_parts rfl

theorem HeatKept.setClock {d v : Nat} (h : HeatKept b s t) : HeatKept b s (t.setClock d v) := by
  unfold State.setClock
  split <;> exact h.wrLow (by decide)

theorem HeatKept.clampDie {d : Nat} (h : HeatKept b s t) : HeatKept b s (t.clampDie d).1 := by
  unfold State.clampDie
  extract_lets target x v
  have lowered : HeatKept b s v := .ite h.setClock h
  split
  · exact h.setClock
  · split
    · exact lowered
    · exact lowered.setDieClamp

theorem HeatKept.postVid (h : HeatKept b s t) : HeatKept b s t.postVid := by
  unfold State.postVid
  exact .emit (h.of_parts rfl)

theorem HeatKept.endRuns {d : Nat} (hd : d < 2) (h : HeatKept b s t) : HeatKept b s (t.endRuns d) := by
  unfold State.endRuns
  refine .ite (.foldl h fun p hp u k => k.abandonRun ?_) h
  have := mem_natsFrom (52 * d) 52 p hp
  omega

theorem HeatKept.clampApply (h : HeatKept b s t) : HeatKept b s t.clampApply := by
  unfold State.clampApply
  dsimp only
  exact .endRuns (by decide) (.endRuns (by decide) (.ite h.showEmergency.clampDie.clampDie.postVid h.showEmergency.clampDie.clampDie))

/-! ### Reports (R316, R356) -/

theorem HeatKept.signal {v : Nat} (h : HeatKept b s t) : HeatKept b s (t.signal v) := h.of_parts rfl

theorem HeatKept.withEvtLost {x : Bool} (h : HeatKept b s t) : HeatKept b s { t with evtLost := x } := h.of_parts rfl

theorem HeatKept.withMbx {m : Memory} (h : HeatKept b s t) : HeatKept b s { t with mbx := m } := h.of_parts rfl

theorem HeatKept.event {typ : Nat} {payload : List Byte} (h : HeatKept b s t) : HeatKept b s (t.event typ payload) := by
  have mailbox {u : State} {f : Field} {v : Nat} (k : HeatKept b s u) : HeatKept b s (u.wr R.MBX_EVT f v) :=
    k.wr (offPlinth_high (by unfold R.MBX_EVT; omega))
  unfold State.event
  exact .ite (mailbox h).withEvtLost (mailbox h.withMbx).signal

theorem HeatKept.freePayload (h : HeatKept b s t) : HeatKept b s t.freePayload.1 := h.of_parts rfl

theorem HeatKept.pauseRuns (h : HeatKept b s t) : HeatKept b s t.pauseRuns := h.of_parts rfl

end

end Sys2Proof.Proofs
end

section
/-!
PROOFS. What follows a record (R347 to R358) keeps the heat of the stacks and the bytes of HBM: cairns, the fence of a context, and the reset that a
record may begin.
-/
namespace Sys2Proof.Proofs
open Sys2Proof.Machine Sys2Proof.Laws

section
variable {s t : State} {p : Nat}

/-! ### Cairns (R362 to R365) -/

theorem HeatKept.setLog {b : Bool} {d : Nat} {x : ErrLog} (h : HeatKept b s t) : HeatKept b s (t.setLog d x) := h.of_parts rfl
theorem HeatKept.withRecov {b : Bool} {x : Recov} (h : HeatKept b s t) : HeatKept b s { t with recov := x } := h.of_parts rfl
theorem HeatKept.withCdc {b : Bool} {x : List CdcWait} (h : HeatKept b s t) : HeatKept b s { t with cdc := x } := h.of_parts rfl
theorem HeatKept.draw {b : Bool} (h : HeatKept b s t) : HeatKept b s t.draw := h.of_parts rfl
theorem HeatKept.stamp {b : Bool} {u : Nat} (h : HeatKept b s t) : HeatKept b s (t.stamp u) := h.of_parts rfl

theorem HeatKept.withFault {b : Bool} (h : HeatKept b s t) : HeatKept b s { t with pins := { t.pins with fault := true } } := h.of_parts rfl

theorem HeatKept.showEsc {b : Bool} (h : HeatKept b s t) : HeatKept b s t.showEsc := (h.wrLow (by decide)).wrLow (by decide)

theorem HeatKept.keepSummary {b : Bool} {c : Cairn} (h : HeatKept b s t) : HeatKept b s (t.keepSummary c) := by
  refine HeatKept.withRecov (.wrLow (.foldl h fun i hi u k => k.setWord (offPlinth_low ?_)) (by decide))
  have := lt_of_mem_upto hi
  unfold R.CRN_AON
  omega

theorem HeatKept.cdcMode {b : Bool} {m : Nat} (h : HeatKept b s t) : HeatKept b s (t.cdcMode m) := by
  have shown := h.wrLow (r := R.MGT_CDC) (f := F.MGT_CDC.MODE) (v := m) (by decide)
  unfold State.cdcMode
  exact .ite h (.ite shown (shown.withCdc.wrLow (by decide)))

theorem HeatKept.nextCairn {b : Bool} (h : HeatKept b s t) : HeatKept b s t.nextCairn := by
  unfold State.nextCairn
  dsimp only
  split
  · exact .cdcMode (h.withRecov.withRecov.wrLow (by decide))
  · exact h.withRecov

theorem HeatKept.assertFault {b : Bool} {cause : Nat} (h : HeatKept b s t) : HeatKept b s (t.assertFault cause) := by
  unfold State.assertFault
  exact .ite h (.emit (.showEsc (h.keepSummary.withFault.wrLow (by decide))))

theorem HeatKept.storeCairn {b : Bool} {c : Cairn} {logs : List Nat} {truncated : Bool} {bad : BitVec 8} (h : HeatKept b s t) :
    HeatKept b s (t.storeCairn c logs truncated bad) := by
  have kept (c : Cairn) : HeatKept b s (t.draw.keepSummary c) := h.draw.keepSummary
  unfold State.storeCairn
  refine .nextCairn (.cdcMode (.wrLow (.withRecov ?_) (by decide)))
  cases t.takingSlot bad with
  | none => exact kept _
  | some k => exact (kept _).withRecov.wrLow (by decide)

theorem HeatKept.endCairn {b : Bool} {run : ResetRun} {truncated : Bool} {bad : BitVec 8} (h : HeatKept b s t) :
    HeatKept b s (t.endCairn run truncated bad) := by
  unfold State.endCairn
  cases t.recov.cairn with
  | none => exact h
  | some c => exact .ite h.storeCairn h

theorem HeatKept.preempt {b : Bool} {d : Nat} (h : HeatKept b s t) : HeatKept b s (t.preempt d) := by
  unfold State.preempt
  dsimp only
  split
  · exact h
  · exact h.setLog

/-! ### The fence of a context (R352, R353), which drops what waited -/

theorem HeatKept.setCtx {c : Nat} {x : Ctx} (h : HeatKept false s t) : HeatKept false s (t.setCtx c x) :=
  h.trans ⟨rfl, id, fun _ => rfl, fun _ => rfl, nofun⟩

theorem HeatKept.withBiWait {x : List BiWait} (h : HeatKept false s t) : HeatKept false s { t with biWait := x } :=
  h.trans ⟨rfl, id, fun _ => rfl, fun _ => rfl, nofun⟩

theorem offPlinth_splice {r : Nat} (f : Field) (h : 0x0A000000 ≤ r) : OffPlinth (r + 8 * (f.lo / 64)) := offPlinth_high (by omega)

theorem HeatKept.dropColl {c g : Nat} {x : Group} {k : Coll} (h : HeatKept false s t) : HeatKept false s (t.dropColl c g x k) := by
  have released {f : Nat → Out} {l : List Nat} : HeatKept false s (l.foldl (fun s n => s.emit (f n)) t) := .foldl h fun _ _ _ k => k.emit
  have die (f : Field) : OffPlinth (R.SPL_STATUS x.die + 8 * (f.lo / 64)) := offPlinth_splice f (by unfold R.SPL_STATUS; omega)
  unfold State.dropColl
  exact .ite ((released.wr (die _)).wr (die _)) (released.wr (die _))

theorem HeatKept.freeGroups {c : Nat} (h : HeatKept false s t) : HeatKept false s (t.freeGroups c) := by
  unfold State.freeGroups
  refine .setCtx (.foldl h fun g _ u k => .setWord (.wr ?dropped (offPlinth_splice _ ?status)) (offPlinth_high ?group))
  case dropped =>
    cases g.2.cur with
    | none => exact k
    | some x => exact HeatKept.dropColl (k.withBiWait (x := _))
  case status => unfold R.SPL_STATUS; omega
  case group => unfold R.SPL_GSTATE; omega

theorem HeatKept.fenceQueues {c : Nat} (h : HeatKept false s t) : HeatKept false s (t.fenceQueues c) := by
  unfold State.fenceQueues
  refine .foldl h fun q hq u k => .ite (k.wrLow ?_) k
  have := lt_of_mem_upto hq
  simp only [R.CXL_Q_STATUS, F.CXL_Q_STATUS.STATE]
  omega

theorem HeatKept.forgetReaders {gone : Reader → Bool} (h : HeatKept false s t) : HeatKept false s (t.forgetReaders gone) := by
  unfold State.forgetReaders
  exact .ite h (.foldl h fun _ _ _ k => .wrFill (k.setPlinth nofun nofun) (by decide) (by decide) (by decide))

theorem HeatKept.stopBiv {c : Nat} (h : HeatKept false s t) : HeatKept false s (t.stopBiv c) := by
  have shown {u : State} {f : Field} {v : Nat} (low : f.lo < 64) (k : HeatKept false s u) : HeatKept false s (u.wr (R.BIV_STATUS c) f v) :=
    k.wr (offPlinth_between (by unfold R.BIV_STATUS; omega))
  have dropped (x : Ctx) (l : List BiWait) : HeatKept false s { t.setCtx c x with biWait := l } := h.setCtx.withBiWait
  unfold State.stopBiv
  exact .ite (dropped _ _) (shown (by decide) (shown (by decide) (shown (by decide) (shown (by decide) (dropped _ _)))))

theorem HeatKept.squash {b : Bool} (hp : p < 104) (h : HeatKept b s t) : HeatKept b s (t.squash p) := by
  have dropped : HeatKept b s (t.setCore p { t.core p with ahead := none }) := h.setCore_same rfl rfl
  unfold State.squash
  cases (t.core p).window with
  | none => exact h
  | some w => exact dropped.wrWindow hp (by simp only [R.SEQ_PERF, F.SEQ_PERF.SQUASHED_INSNS]; omega)

theorem HeatKept.dmaHead {e : Nat} (h : HeatKept false s t) : HeatKept false s (t.dmaHead p e) := by
  unfold State.dmaHead
  exact .stamp (h.setCore nofun nofun)

theorem HeatKept.showDma {b : Bool} {e : Nat} (hp : p < 104) (he : e < 4) (h : HeatKept b s t) : HeatKept b s (t.showDma p e) := by
  have shown {u : State} {f : Field} {v : Nat} (low : f.lo < 64) (k : HeatKept b s u) : HeatKept b s (u.wr (R.DMA_STATUS p e) f v) :=
    k.wrWindow hp (by unfold R.DMA_STATUS; omega)
  exact shown (by decide) (shown (by decide) h)

theorem HeatKept.dropOn {c : Nat} (hp : p < 104) (h : HeatKept false s t) : HeatKept false s (t.dropOn p c) := by
  have dropped : HeatKept false s (t.setCore p ((t.core p).dropWork (Fin.ofNat 17 c))) := h.setCore nofun nofun
  unfold State.dropOn
  exact .foldl dropped fun e he u k => .showDma hp (lt_of_mem_upto he) (.ite k k.dmaHead)

theorem HeatKept.fenceCtx {c : Nat} (h : HeatKept false s t) : HeatKept false s (t.fenceCtx c) := by
  unfold State.fenceCtx
  refine .ite h (.foldl h.freeGroups.fenceQueues.forgetReaders.stopBiv.setCtx fun e _ u k => .ite ?_ (k.dropOn e.phys.isLt))
  exact (((k.abandonRun e.phys.isLt).squash e.phys.isLt).dropOn e.phys.isLt).setCore nofun nofun

theorem HeatKept.fenceDomain {run : ResetRun} (h : HeatKept false s t) : HeatKept false s (t.fenceDomain run) := by
  unfold State.fenceDomain
  exact .foldl h fun _ _ _ k => .ite k.fenceCtx k

/-! ### Records and the resets they begin (R347 to R358) -/

theorem HeatKept.beginReset {d : Nat} {r : ErrRec} {noCairn : Bool} (h : HeatKept false s t) : HeatKept false s (t.beginReset d r noCairn) := by
  have faulted {u : State} {end_ : Option Word} {recent : Word → Prop} [∀ t, Decidable (recent t)] (k : HeatKept false s u) :
      HeatKept false s (match end_ with | some t => if recent t then u.assertFault 2 else u | none => u) := by
    cases end_ with
    | none => exact k
    | some t => exact .ite k.assertFault k
  unfold State.beginReset
  extract_lets target run taken s1 waits r1 s2 s3 r2 s4 s5 s6 r3 s7
  have preempted : HeatKept false s s1 := .foldl h fun _ _ _ k => .ite k k.preempt
  have ended : HeatKept false s s3 := .foldl preempted.withRecov fun _ _ _ k => k.endCairn
  have fenced : HeatKept false s s5 := ended.withRecov.fenceDomain
  have chip : HeatKept false s s6 := .ite (faulted fenced) fenced
  have cairn : HeatKept false s s7 := .ite chip.withRecov.nextCairn chip
  exact .ite h (.ite h (.ite h cairn.showEsc))

theorem HeatKept.lostReset {d : Nat} (h : HeatKept false s t) : HeatKept false s (t.lostReset d) := by
  unfold State.lostReset
  exact .ite h h.draw.setLog.beginReset.withRecov

theorem HeatKept.enter {d : Nat} {r : ErrRec} {mayAct noCairn : Bool} (h : HeatKept false s t) :
    HeatKept false s (t.enter d r mayAct noCairn) := by
  unfold State.enter
  refine .ite h.setLog.lostReset (.ite h.setLog (.ite h.setLog.showEsc ?_))
  split
  · exact h.setLog.beginReset
  · exact .ite h.setLog.beginReset h.setLog.showEsc

theorem HeatKept.file {cls sev unit : Nat} {ctx : Option Nat} {addr detail : Nat} (h : HeatKept false s t) :
    HeatKept false s (t.file cls sev unit ctx addr detail) := by
  unfold State.file
  exact h.enter

end

end Sys2Proof.Proofs
end

section
/-!
PROOFS. The thermal states of a stack (R213, R214): the plinth's part of a reading, the retry of what waited once a stack leaves STOPPED, the notices
of a pause, and the statement about them.
-/
namespace Sys2Proof.Proofs
open Sys2Proof.Machine Sys2Proof.Laws

section
variable {b : Bool} {s t : State}

/-! ### The plinth (R204, R206, R214) -/

theorem HeatKept.queueRetrain {site c : Nat} (h : HeatKept b s t) : HeatKept b s (t.queueRetrain site c) := by
  unfold State.queueRetrain
  exact .ite h (h.setPlinth (fun _ => rfl) fun _ => rfl)

theorem HeatKept.driftRetrain {site temp : Nat} (h : HeatKept b s t) : HeatKept b s (t.driftRetrain site temp) := by
  have noted : HeatKept b s (if (t.plinth site).temp.isNone then t.setPlinth site { t.plinth site with temp := some temp } else t) :=
    .ite (h.setPlinth (fun _ => rfl) fun _ => rfl) h
  unfold State.driftRetrain
  exact .ite noted (.foldl noted fun _ _ _ k => .ite k.queueRetrain k)

theorem HeatKept.specHbm {a n : Nat} (h : HeatKept b s t) : HeatKept b s (t.specHbm a n).1 := by
  have dropped : HeatKept b s (t.count (R.PLN_COUNT (t.siteOf (a / 2048))) F.PLN_COUNT.SPEC_DROPS 1) :=
    h.wr (offPlinth_between (by simp only [R.PLN_COUNT, F.PLN_COUNT.SPEC_DROPS]; omega))
  unfold State.specHbm
  extract_lets i m drop
  split
  · exact dropped
  · cases m.st with
    | poison => exact dropped
    | unwritten =>
      dsimp only
      split
      · exact h
      · split
        · exact dropped
        · exact h
    | sealed =>
      dsimp only
      split
      · exact dropped
      · split
        · exact h
        · split
          · exact dropped
          · exact h

theorem HeatKept.replaySpec {x : SpecWait} (h : HeatKept b s t) : HeatKept b s (t.replaySpec x) := by
  have read : HeatKept b s (t.specHbm x.addr x.n).1 := h.specHbm
  unfold State.replaySpec
  split
  · exact h
  · split
    all_goals
      next e =>
        rw [e] at read
        exact read.emit

theorem HeatKept.showShelf {site : Nat} (h : HeatKept b s t) : HeatKept b s (t.showShelf site) :=
  (h.wrFill (by decide) (by decide) (by decide)).wrFill (by decide) (by decide) (by decide)

/-- A shelf in which no request is parked replays no more than SPEC requests. -/
theorem HeatKept.replayShelf {site : Nat} (h : HeatKept b s t) (empty : (t.plinth site).parked = []) : HeatKept b s (t.replayShelf site) := by
  unfold State.replayShelf
  dsimp only
  rw [empty]
  exact .showShelf (.foldl (h.setPlinth (fun _ => empty.symm) fun _ => rfl) fun _ _ _ k => k.replaySpec)

/-- The end of a pause that no notice has announced sends nothing. -/
theorem HeatKept.endPause {site : Nat} (h : HeatKept b s t) (empty : (t.plinth site).notices = []) : HeatKept b s (t.endPause site) := by
  unfold State.endPause
  dsimp only
  rw [empty]
  exact h.setPlinth (fun _ => rfl) fun _ => empty.symm

end

/-! ### Nothing waits for memory: a retry of what waits finds nothing (R206, R214, R373) -/

/-- `t` is `s` but for the cores and the contexts. -/
def WorkOnly (s t : State) : Prop := t = { s with cores := t.cores, ctxs := t.ctxs }

section
variable {s t : State}

theorem WorkOnly.refl (s : State) : WorkOnly s s := rfl

theorem WorkOnly.setCore {p : Nat} {x : Core} (h : WorkOnly s t) : WorkOnly s (t.setCore p x) := by
  unfold WorkOnly at h ⊢
  rw [h]
  rfl

theorem WorkOnly.setCtx {c : Nat} {x : Ctx} (h : WorkOnly s t) : WorkOnly s (t.setCtx c x) := by
  unfold WorkOnly at h ⊢
  rw [h]
  rfl

/-- A core and a context put back as they are. -/
theorem quiet_setCore_self (h : s.quiet) (p : Nat) : (s.setCore p (s.core p)).quiet := by
  have same (q : Nat) : (s.setCore p (s.core p)).core q = s.core q := by
    by_cases e : q = p
    · rw [e, core_setCore_same]
    · rw [core_setCore_ne s p q _ e]
  obtain ⟨retry, biWait, cores, todo⟩ := h
  refine ⟨retry, biWait, fun q => ?_, todo⟩
  unfold State.dmaEng
  rw [same]
  exact cores q

theorem quiet_setCtx_self (h : s.quiet) (c : Nat) : (s.setCtx c (s.ctx c)).quiet := by
  obtain ⟨retry, biWait, cores, todo⟩ := h
  refine ⟨retry, biWait, cores, fun d => ?_⟩
  by_cases e : d = c
  · rw [e, ctx_setCtx_same]
    exact todo c
  · rw [ctx_setCtx_ne s c d _ e]
    exact todo d

theorem drainPosted_none {p : Nat} (empty : (s.core p).posted = []) : s.drainPosted p = s.setCore p (s.core p) := by
  unfold State.drainPosted
  rw [empty]
  dsimp only [List.foldl_nil]
  rw [← empty]

theorem dmaRun_none {p e : Nat} (idle : (s.dmaEng p e).active = none) : s.dmaRun p e = s := by
  unfold State.dmaRun
  rw [idle]

theorem scaGoOn_none {c : Nat} (empty : (s.ctx c).scaTodo = []) : s.scaGoOn c = s.setCtx c (s.ctx c) := by
  unfold State.scaGoOn
  rw [empty]
  dsimp only [List.foldl_nil]
  rw [← empty]

theorem finishWaits_none (empty : s.biWait = []) : s.finishWaits = s := by
  unfold State.finishWaits
  rw [empty]
  dsimp only [List.foldl_nil]
  rw [← empty]

theorem settleAll_none (empty : s.retry = []) : s.settleAll = s := by
  have once : s.settleOnce = s := by
    unfold State.settleOnce
    rw [empty]
    dsimp only [List.foldl_nil]
    rw [List.append_nil, ← empty]
  simp only [State.settleAll, once]

theorem settle_none (empty : s.retry = []) : s.settle = s := by
  unfold State.settle
  rw [settleAll_none empty]
  exact if_neg (Nat.lt_irrefl _)

/-- The state is still quiet, and is `s` but for the cores and the contexts. -/
def StillQuiet (s t : State) : Prop := WorkOnly s t ∧ t.quiet

theorem resumeWrites_quiet (h : s.quiet) : StillQuiet s s.resumeWrites := by
  have drained (u : State) (p : Nat) (k : StillQuiet s u) : StillQuiet s (u.drainPosted p) := by
    obtain ⟨work, quiet⟩ := k
    obtain ⟨-, -, cores, -⟩ := id quiet
    obtain ⟨posted, -⟩ := cores p
    rw [drainPosted_none posted]
    exact ⟨work.setCore, quiet_setCore_self quiet p⟩
  have run (u : State) (p e : Nat) (k : StillQuiet s u) : StillQuiet s (u.dmaRun p e) := by
    obtain ⟨-, quiet⟩ := id k
    obtain ⟨-, -, cores, -⟩ := quiet
    obtain ⟨-, idle⟩ := cores p
    rwa [dmaRun_none (idle e)]
  have went (u : State) (c : Nat) (k : StillQuiet s u) : StillQuiet s (u.scaGoOn c) := by
    obtain ⟨work, quiet⟩ := k
    obtain ⟨-, -, -, todo⟩ := id quiet
    rw [scaGoOn_none (todo c)]
    exact ⟨work.setCtx, quiet_setCtx_self quiet c⟩
  unfold State.resumeWrites
  extract_lets s1 s2
  have cores : StillQuiet s s1 := List.foldlRecOn _ _ ⟨.refl s, h⟩ fun u k kc _ =>
    List.foldlRecOn _ _ (drained u kc.1 k) fun v j e _ => run v kc.1 e.1 j
  have ctxs : StillQuiet s s2 := by
    refine List.foldlRecOn _ _ cores fun u k kc _ => ?_
    split
    · exact k
    · exact went u kc.1 k
  obtain ⟨-, -, biWait, -⟩ := id ctxs
  rwa [finishWaits_none biWait]

theorem retryAll_quiet (h : s.quiet) : WorkOnly s s.retryAll := by
  obtain ⟨work, quiet⟩ := resumeWrites_quiet h
  obtain ⟨retry, -⟩ := quiet
  unfold State.retryAll
  rwa [settle_none retry]

theorem heatKept_retryAll (h : s.quiet) : HeatKept false s s.retryAll := by
  have work := retryAll_quiet h
  unfold WorkOnly at work
  rw [work]
  exact ⟨rfl, id, fun _ => rfl, fun _ => rfl, nofun⟩

end

/-! ### A reading (R213, R25, Table 71) -/

theorem thermNext_lt (cur temp : Nat) : thermNext cur temp < 4 := by
  unfold thermNext
  repeat' split
  all_goals decide

/-- Table 71, by the reading: what each threshold does in each state. -/
theorem thermNext_table {cur : Nat} (h : cur < 4) (t : Nat) :
    (110 ≤ t → thermNext cur t = 3) ∧ (105 ≤ t → t < 110 → thermNext cur t = if cur = 3 then 3 else 2) ∧
    (100 ≤ t → t < 105 → thermNext cur t = 2) ∧ (97 ≤ t → t < 100 → thermNext cur t = if 2 ≤ cur then 2 else 1) ∧
    (95 ≤ t → t < 97 → thermNext cur t = if cur = 3 then 2 else 1) ∧
    (92 ≤ t → t < 95 → cur ≠ 3 → thermNext cur t = if 1 ≤ cur then 1 else 0) ∧ (t < 92 → cur ≠ 3 → thermNext cur t = 0) := by
  unfold thermNext
  refine ⟨?_, ?_, ?_, ?_, ?_, ?_, ?_⟩ <;> intros <;> repeat' split
  all_goals omega

section
variable {s : State} {site : SiteId}

/-- `t` is `s` but for the plinths. -/
def PlinthsOnly (s t : State) : Prop := t = { s with plinths := t.plinths }

theorem PlinthsOnly.setPlinth {t : State} {i : Nat} {x : Plinth} (h : PlinthsOnly s t) : PlinthsOnly s (t.setPlinth i x) := by
  unfold PlinthsOnly at h ⊢
  rw [h]
  rfl

theorem PlinthsOnly.ite {t u : State} {c : Prop} [Decidable c] (h : PlinthsOnly s t) (k : PlinthsOnly s u) :
    PlinthsOnly s (if c then t else u) := by
  split
  · exact h
  · exact k

theorem PlinthsOnly.pins {t : State} (h : PlinthsOnly s t) : t.pins = s.pins := by
  unfold PlinthsOnly at h
  rw [h]

theorem PlinthsOnly.fuses {t : State} (h : PlinthsOnly s t) : t.fuses = s.fuses := by
  unfold PlinthsOnly at h
  rw [h]

/-- Requests for retraining are noted at the plinth alone. -/
theorem driftRetrain_frame (s : State) (i temp : Nat) : PlinthsOnly s (s.driftRetrain i temp) := by
  have noted : PlinthsOnly s (if (s.plinth i).temp.isNone then s.setPlinth i { s.plinth i with temp := some temp } else s) :=
    .ite (.setPlinth rfl) rfl
  unfold State.driftRetrain
  exact .ite noted (List.foldlRecOn _ _ noted fun t h c _ => .ite (.ite h h.setPlinth) h)

theorem HeatKept.tripAt {b : Bool} {t : State} {src : TripSrc} {i temp : Nat} (h : HeatKept b s t) : HeatKept b s (t.tripAt src i temp) := by
  unfold State.tripAt
  refine .ite h (h.trans ⟨rfl, fun _ => rfl, fun _ => rfl, fun _ => rfl, fun _ => ?_⟩)
  exact ⟨rfl, rfl, rfl, fun _ => rfl, fun _ => rfl, fun _ k => k, fun _ k => k⟩

/-- From 115 °C on the comparators of the always-on domain assert THERM_TRIP_N, if they have not before. -/
theorem tripAt_trips {temp : Nat} (present : s.stackPresent site = true) (hot : 115 ≤ temp) (aon : s.pins.aon = true) :
    (s.tripAt .stack site temp).pins.trip = true := by
  have above : ¬ temp < tripPoint .stack := Nat.not_lt.mpr hot
  cases already : s.pins.trip <;> simp [State.tripAt, State.tripThere, aon, already, present, above]

/-- So they do once the drift of the temperature has been noted. -/
theorem driftRetrain_tripAt_trips {t : Nat} (present : s.stackPresent site = true) (hot : 115 ≤ t) (aon : s.pins.aon = true) :
    ((s.driftRetrain site t).tripAt .stack site t).pins.trip = true := by
  have drift := driftRetrain_frame s site t
  refine tripAt_trips ?_ hot ?_
  · rw [State.stackPresent, drift.fuses]
    exact present
  · rw [drift.pins]
    exact aon

end

theorem HeatKept.weaken {b : Bool} {s t : State} (h : HeatKept b s t) : HeatKept false s t := { h with waiting := nofun }

/-- What follows a change of a stack's thermal state from `cur` to `new` (R213, R214): the report, the record of STOPPED, the clamp's rules, and
where the stack leaves STOPPED the end of the pause and the retry of what waited. -/
def afterChange (s : State) (site : SiteId) (cur new : Nat) : State :=
  let s := s.freePayload.1.event 0x8004 s.freePayload.2
  let s := if new = 3 then (s.setPlinth site { s.plinth site with stoppedAt := some s.time }).file clsThermalStop 0 (uPlinth site) none 0 0 else s
  let s := s.clampApply.pauseRuns
  if cur = 3 then
    let s := s.endPause site
    if (s.plinth site).hold.isSome then s.retryAll else (s.replayShelf site).retryAll
  else s

/-- The reading is shown, drift calls for retraining, and the comparator sees it. -/
def afterReading (s : State) (site : SiteId) (t : Nat) : State :=
  ((s.wr (R.PLN_STATUS site) F.PLN_STATUS.TEMP t).driftRetrain site t).tripAt .stack site t

theorem stackThermalEval_eq {s : State} {site : SiteId} (present : s.stackPresent site = true) (temp : BitVec 8) :
    exec (.stackThermalEval site temp) s = .next (
      let cur := s.rd (R.PLN_STATUS site) F.PLN_STATUS.THERM_STATE
      let new := thermNext cur temp.toNat
      let t := afterReading s site temp.toNat
      if new = cur then t else afterChange (t.wr (R.PLN_STATUS site) F.PLN_STATUS.THERM_STATE new) site cur new) := by
  change execStackThermalEval site temp s = _
  unfold execStackThermalEval
  rw [present]
  rfl

section
variable {s : State} {site : SiteId} {cur new : Nat}

/-- What leaving STOPPED asks for: nothing waits for memory, and the plinth has parked and announced nothing. -/
structure NothingWaits (s : State) (site : SiteId) : Prop where
  quiet : s.quiet
  parked : (s.plinth site).parked = []
  notices : (s.plinth site).notices = []

theorem NothingWaits.of_heatKept {t : State} (k : NothingWaits s site) (h : HeatKept true s t) : NothingWaits t site := by
  have waits := h.waiting rfl
  exact ⟨waits.quiet k.quiet, (waits.parked site).trans k.parked, (waits.notices site).trans k.notices⟩

theorem endStopped_heatKept (h : NothingWaits s site) :
    HeatKept false s (if ((s.endPause site).plinth site).hold.isSome then (s.endPause site).retryAll
      else ((s.endPause site).replayShelf site).retryAll) := by
  have ended : HeatKept true s (s.endPause site) := (HeatKept.refl true s).endPause h.notices
  have waits := h.of_heatKept ended
  have replayed : HeatKept true s ((s.endPause site).replayShelf site) := ended.replayShelf waits.parked
  exact .ite (ended.weaken.trans (heatKept_retryAll waits.quiet)) (replayed.weaken.trans (heatKept_retryAll (h.of_heatKept replayed).quiet))

theorem afterChange_heatKept (changes : new ≠ cur) (h : cur = 3 → NothingWaits s site) : HeatKept false s (afterChange s site cur new) := by
  have reported (b : Bool) : HeatKept b s (s.freePayload.1.event 0x8004 s.freePayload.2) := (HeatKept.refl b s).freePayload.event
  unfold afterChange
  by_cases leaves : cur = 3
  · have stays : new ≠ 3 := leaves ▸ changes
    simp only [if_pos leaves, if_neg stays]
    have clamped := (reported true).clampApply.pauseRuns
    exact clamped.weaken.trans (endStopped_heatKept ((h leaves).of_heatKept clamped))
  · simp only [if_neg leaves]
    exact (HeatKept.ite ((reported false).setPlinth nofun nofun).file (reported false)).clampApply.pauseRuns

theorem afterReading_heatKept (s : State) (site : SiteId) (t : Nat) :
    HeatKept true (s.wr (R.PLN_STATUS site) F.PLN_STATUS.TEMP t) (afterReading s site t) := (HeatKept.refl true _).driftRetrain.tripAt

theorem afterReading_hbm (t : Nat) : (afterReading s site t).hbm = s.hbm := by
  rw [(afterReading_heatKept s site t).hbm, wr_hbm]

theorem afterReading_temp (temp : BitVec 8) : (afterReading s site temp.toNat).rd (R.PLN_STATUS site) F.PLN_STATUS.TEMP = temp.toNat := by
  rw [(afterReading_heatKept s site temp.toNat).temp, rd_wr_same s _ _ _ (by decide)]
  exact Nat.mod_eq_of_lt temp.isLt

theorem afterReading_therm (t : Nat) : (afterReading s site t).rd (R.PLN_STATUS site) F.PLN_STATUS.THERM_STATE =
    s.rd (R.PLN_STATUS site) F.PLN_STATUS.THERM_STATE := by
  rw [(afterReading_heatKept s site t).therm, rd_wr_field s _ _ _ t (by decide) (by decide)]

theorem NothingWaits.wr {r : Nat} {f : Field} {v : Nat} (h : NothingWaits s site) : NothingWaits (s.wr r f v) site :=
  ⟨h.quiet, h.parked, h.notices⟩

theorem afterReading_waits (t : Nat) (h : NothingWaits s site) : NothingWaits (afterReading s site t) site :=
  h.wr.of_heatKept (afterReading_heatKept s site t)

theorem afterReading_trips {t : Nat} (present : s.stackPresent site = true) (hot : 115 ≤ t) (aon : s.pins.aon = true) :
    (afterReading s site t).pins.trip = true := by
  have present : (s.wr (R.PLN_STATUS site) F.PLN_STATUS.TEMP t).stackPresent site = true := by
    rw [State.stackPresent, wr_fuses]
    exact present
  have aon : (s.wr (R.PLN_STATUS site) F.PLN_STATUS.TEMP t).pins.aon = true := by
    rw [wr_pins]
    exact aon
  unfold afterReading
  exact driftRetrain_tripAt_trips present hot aon

/-- A reading of a present stack: TEMP shows it, THERM_STATE is Table 71's, HBM keeps its bytes, and from 115 °C on THERM_TRIP_N asserts. -/
theorem stackThermalEval_result (present : s.stackPresent site = true) (temp : BitVec 8)
    (waits : s.rd (R.PLN_STATUS site) F.PLN_STATUS.THERM_STATE = 3 → NothingWaits s site) :
    ∃ u, exec (.stackThermalEval site temp) s = .next u ∧ u.rd (R.PLN_STATUS site) F.PLN_STATUS.TEMP = temp.toNat ∧ u.hbm = s.hbm ∧
      (115 ≤ temp.toNat → s.pins.aon = true → u.pins.trip = true) ∧ u.rd (R.PLN_STATUS site) F.PLN_STATUS.THERM_STATE =
        thermNext (s.rd (R.PLN_STATUS site) F.PLN_STATUS.THERM_STATE) temp.toNat := by
  refine ⟨_, stackThermalEval_eq present temp, ?_⟩
  dsimp only
  split
  case isTrue same =>
    exact ⟨afterReading_temp temp, afterReading_hbm _, afterReading_trips present, (afterReading_therm _).trans same.symm⟩
  case isFalse changes =>
    have kept := afterChange_heatKept (s := (afterReading s site temp.toNat).wr (R.PLN_STATUS site) F.PLN_STATUS.THERM_STATE
      (thermNext (s.rd (R.PLN_STATUS site) F.PLN_STATUS.THERM_STATE) temp.toNat)) changes
      fun stopped => (afterReading_waits temp.toNat (waits stopped)).wr
    refine ⟨?temp, ?hbm, fun hot aon => kept.trip ?trip, ?therm⟩
    case hbm => rw [kept.hbm, wr_hbm, afterReading_hbm]
    case trip => rw [wr_pins, afterReading_trips present hot aon]
    case temp => rw [kept.temp, rd_wr_field _ _ _ _ _ (by decide) (by decide), afterReading_temp]
    case therm =>
      rw [kept.therm, rd_wr_same _ _ _ _ (by decide)]
      exact Nat.mod_eq_of_lt (thermNext_lt _ _)

end

/-! ### The notices of a pause (R214, R257 to R259) -/

/-- `t` is `s` but for what its ports have sent. -/
def SentOnly (s t : State) : Prop := t = { s with ports := t.ports, outbox := t.outbox }

theorem SentOnly.emit {s t : State} {o : Out} (h : SentOnly s t) : SentOnly s (t.emit o) := by
  unfold SentOnly at h ⊢
  rw [h]
  unfold State.emit
  cases o.link <;> rfl

/-- The parts of the state that a notice bears on stay. -/
theorem SentOnly.parts {s t : State} (h : SentOnly s t) :
    t.regs = s.regs ∧ t.plinths = s.plinths ∧ t.noticeSeq = s.noticeSeq ∧ t.hbm = s.hbm := by
  unfold SentOnly at h
  rw [h]
  exact ⟨rfl, rfl, rfl, rfl⟩

theorem flood_sentOnly (s : State) (endp : Bool) (n : Notice) (but : Nat) : SentOnly s (s.flood endp n but) := by
  unfold State.flood
  refine List.foldlRecOn _ _ ?_ fun t h w _ => ?_
  · split
    · exact SentOnly.emit rfl
    · rfl
  · split
    · exact h.emit
    · exact h

theorem WorkOnly.ite {s t u : State} {c : Prop} [Decidable c] (h : WorkOnly s t) (k : WorkOnly s u) : WorkOnly s (if c then t else u) := by
  split
  · exact h
  · exact k

theorem WorkOnly.onColl {s t : State} {c g : Nat} {f : Coll → Coll} (h : WorkOnly s t) : WorkOnly s (t.onColl c g f) := by
  unfold State.onColl
  split
  · exact h
  · exact h.setCtx

theorem extendPauses_workOnly (s : State) (chip : BitVec 17) (site bound : Nat) : WorkOnly s (s.extendPauses chip site bound) := by
  unfold State.extendPauses
  refine List.foldlRecOn _ _ (List.foldlRecOn _ _ (.refl s) fun t h kc _ => List.foldlRecOn _ _ h fun u k gx _ => .ite k ?groups)
    fun t h kp _ => ?waits
  case groups =>
    dsimp only
    split
    · exact k.onColl
    · exact k.onColl.setCtx
  case waits =>
    split
    · exact .ite h.setCore h
    · exact h

/-- One notice of a pause: it takes the next number, goes out, and is noted and counted. -/
def announce (site : SiteId) (bound : Nat) (s : State) (box : BitVec 40) : State :=
  let seq := s.noticeSeq
  let s := { s with noticeSeq := seq + 1 }
  let s := s.flood false { src := BitVec.ofNat 17 s.ownChip, site := BitVec.ofNat 3 site, bound := BitVec.ofNat 16 bound,
                           box := box, seq := seq } 99
  let k := s.plinth site
  (s.setPlinth site { k with notices := k.notices ++ [(seq, box)] }).count R.LNK_PAUSE F.LNK_PAUSE.SENT 1

/-- The bound that a pause of a stack announces, in milliseconds. -/
def pauseBound (s : State) (site : SiteId) : Nat :=
  if s.rd (R.PLN_THERM_CTRL site) F.PLN_THERM_CTRL.PAUSE_BOUND_MS = 0 then 100 else s.rd (R.PLN_THERM_CTRL site) F.PLN_THERM_CTRL.PAUSE_BOUND_MS

theorem thermalPauseSend_eq {s : State} {site : SiteId} (stopped : s.stopped site = true) (fresh : (s.plinth site).notices = [])
    (since : (s.plinth site).stoppedAt ≠ none) :
    exec (.thermalPauseSend site) s = .next ((s.liveRoutes.foldl (announce site (pauseBound s site)) s).extendPauses
      (BitVec.ofNat 17 (s.liveRoutes.foldl (announce site (pauseBound s site)) s).ownChip) site (pauseBound s site)) := by
  have goes : ¬ (!s.stopped site || !(s.plinth site).notices.isEmpty || (s.plinth site).stoppedAt.isNone) = true := by
    cases at_ : (s.plinth site).stoppedAt with
    | none => exact absurd at_ since
    | some t => simp [stopped, fresh]
  change Host.Outcome.next _ = _
  exact congrArg Host.Outcome.next (if_neg goes)

/-- `t` has announced the pause of a stack to the routes `l`, in their order. -/
structure Announced (site : SiteId) (l : List (BitVec 40)) (s t : State) : Prop where
  notices : (t.plinth site).notices.map Prod.snd = (s.plinth site).notices.map Prod.snd ++ l
  number : t.noticeSeq = s.noticeSeq + BitVec.ofNat 16 l.length
  hbm : t.hbm = s.hbm
  sent : t.rd R.LNK_PAUSE F.LNK_PAUSE.SENT = (s.rd R.LNK_PAUSE F.LNK_PAUSE.SENT + l.length) % 2 ^ F.LNK_PAUSE.SENT.n

theorem announce_announced (site : SiteId) (bound : Nat) (s : State) (box : BitVec 40) : Announced site [box] s (announce site bound s box) := by
  unfold announce
  extract_lets seq s1 s2 k
  have flooded : SentOnly s1 s2 := flood_sentOnly ..
  obtain ⟨regs, plinths, noticeSeq, hbm⟩ := flooded.parts
  have plinth : s2.plinth site = s.plinth site := by
    rw [State.plinth, plinths]
    rfl
  refine ⟨?notices, ?number, ?hbm, ?sent⟩
  case notices => rw [plinth_count, plinth_setPlinth_same, List.map_append, List.map_singleton, ← plinth]
  case number =>
    rw [count_noticeSeq, setPlinth_noticeSeq, noticeSeq]
    rfl
  case hbm => rw [count_hbm, setPlinth_hbm, hbm]
  case sent => rw [State.count, rd_wr_same _ _ F.LNK_PAUSE.SENT _ (by decide), rd_setPlinth, rd_regs s s2 regs, List.length_singleton]

theorem Announced.cons {site : SiteId} {box : BitVec 40} {l : List (BitVec 40)} {s t u : State} (h : Announced site [box] s t)
    (k : Announced site l t u) : Announced site (box :: l) s u where
  notices := by rw [k.notices, h.notices, List.append_assoc, List.singleton_append]
  number := by
    rw [k.number, h.number, BitVec.add_assoc, ← BitVec.ofNat_add, List.length_singleton, List.length_cons, Nat.add_comm 1]
  hbm := k.hbm.trans h.hbm
  sent := by rw [k.sent, h.sent, Nat.mod_add_mod, Nat.add_assoc, List.length_singleton, List.length_cons, Nat.add_comm 1]

theorem foldl_announce_announced (site : SiteId) (bound : Nat) (s : State) (l : List (BitVec 40)) :
    Announced site l s (l.foldl (announce site bound) s) := by
  induction l generalizing s with
  | nil => exact ⟨(List.append_nil _).symm, (BitVec.add_zero _).symm, rfl, (Nat.mod_eq_of_lt (rd_lt s _ _)).symm⟩
  | cons box l ih =>
    rw [List.foldl_cons]
    exact (announce_announced site bound s box).cons (ih _)

/-! ### The statement -/

/-- Settles O45: a reading sets TEMP and Table 71's state, and what follows a change keeps both; each route of a live context takes one notice. -/
theorem stackThermal : Obligations.StackThermal := by
  intro s site
  refine ⟨fun temp present waits => ?reading, fun stopped fresh since => ?pause⟩
  case reading =>
    obtain ⟨u, runs, shown, hbm, trips, therm⟩ := stackThermalEval_result present temp fun stopped =>
      let ⟨quiet, parked, notices⟩ := waits stopped
      ⟨quiet, parked, notices⟩
    have table := thermNext_table (rd_lt s (R.PLN_STATUS site) F.PLN_STATUS.THERM_STATE) temp.toNat
    rw [← therm] at table
    exact ⟨u, runs, shown, hbm, trips, table⟩
  case pause =>
    refine ⟨_, thermalPauseSend_eq stopped fresh since, ?_⟩
    have announced := foldl_announce_announced site (pauseBound s site) s s.liveRoutes
    generalize s.liveRoutes.foldl (announce site (pauseBound s site)) s = t at announced
    have extended := extendPauses_workOnly t (BitVec.ofNat 17 t.ownChip) site (pauseBound s site)
    unfold WorkOnly at extended
    rw [extended]
    refine ⟨?_, announced.number, announced.hbm, announced.sent⟩
    exact announced.notices.trans (by rw [fresh, List.map_nil, List.nil_append])

end Sys2Proof.Proofs
end

section
/-!
PROOFS. Responses of the fabric and timeouts (R229 to R232): a request that ends leaves the list of the outstanding ones, its engine takes the answer,
and the statement about them.
-/
namespace Sys2Proof.Proofs
open Sys2Proof.Machine Sys2Proof.Laws

/-! ### The outstanding request of a tag -/

section
variable {l : List OutReq} {tag : BitVec 16} {q : OutReq}

theorem tag_of_only (only : l.filter (fun y => y.tag == tag) = [q]) : q.tag = tag := by
  have member : q ∈ l.filter (fun y => y.tag == tag) := by
    rw [only]
    exact List.mem_singleton_self q
  exact beq_iff_eq.mp (List.mem_filter.mp member).2

theorem find_only (only : l.filter (fun y => y.tag == tag) = [q]) {r : OutReq → Bool} (meets : r q = true) :
    l.find? (fun y => y.tag == tag && r y) = some q := by
  have found := List.find?_filter (xs := l) (p := fun y => y.tag == tag) (q := r)
  rw [only, List.find?_singleton, if_pos meets] at found
  simpa only [Bool.decide_and, Bool.decide_eq_true] using found.symm

theorem any_only (only : l.filter (fun y => y.tag == tag) = [q]) (r : OutReq → Bool) : l.any (fun y => y.tag == tag && r y) = r q := by
  rw [← List.any_filter, only, List.any_cons, List.any_nil, Bool.or_false]

end

/-! ### A request leaves the list (R232) -/

/-- `t` is `s` but for registers and the windows of witness reports. -/
def WitnessOnly (s t : State) : Prop := t = { s with regs := t.regs, wits := t.wits }

theorem WitnessOnly.wr {s t : State} {r : Nat} {f : Field} {v : Nat} (h : WitnessOnly s t) : WitnessOnly s (t.wr r f v) := by
  unfold WitnessOnly at h ⊢
  rw [h]
  rfl

theorem WitnessOnly.trans {s t u : State} (h : WitnessOnly s t) (k : WitnessOnly t u) : WitnessOnly s u := by
  unfold WitnessOnly at h k ⊢
  rw [k, h]

theorem fileWitness_witnessOnly (s : State) (suspect unit fclass : Nat) : WitnessOnly s (s.fileWitness suspect unit fclass) := by
  unfold State.fileWitness
  extract_lets key w
  split
  · rfl
  · exact WitnessOnly.wr rfl

theorem word_fileWitness_ne (s : State) (suspect unit fclass : Nat) {a : Nat} (other : a ≠ R.LNK_WITNESS) :
    (s.fileWitness suspect unit fclass).word a = s.word a := by
  unfold State.fileWitness
  extract_lets key w
  split
  · rfl
  · exact word_count_low_ne _ _ _ _ _ (by decide) other

/-- `t` holds no request of the tag; its other requests, its cores, the messages it has for itself and the bytes of HBM are those of `s`, and the same
contexts are fenced. -/
structure Released (tag : BitVec 16) (s t : State) : Prop where
  out : t.out = s.out.filter (fun y => y.tag != tag)
  cores : t.cores = s.cores
  fenced : ∀ c, (t.ctx c).fenced = (s.ctx c).fenced
  retry : t.retry = s.retry
  hbm : t.hbm = s.hbm

/-- A request has ended: what a statement sees of `Released` once the engine has its answer. -/
def Ended (tag : BitVec 16) (s u : State) : Prop :=
  (∀ y ∈ u.out, y.tag ≠ tag) ∧ (∀ y ∈ s.out, y.tag ≠ tag → y ∈ u.out) ∧ u.hbm = s.hbm

theorem fenced_dropReq (s : State) (tag : BitVec 16) (c : Nat) : ((s.dropReq tag).ctx c).fenced = (s.ctx c).fenced := by
  unfold State.dropReq State.ctx SMap.lookD
  rw [look_mapValues s.ctxs fun x => { x with inval := x.inval.filter (fun t => t != tag) }]
  cases SMap.look s.ctxs c <;> rfl

section
variable {s t u : State} {tag : BitVec 16}

theorem dropReq_released (h : WitnessOnly s t) : Released tag s (t.dropReq tag) := by
  unfold WitnessOnly at h
  rw [h]
  exact ⟨rfl, rfl, fenced_dropReq _ tag, rfl, rfl⟩

theorem Released.fileWitness (h : Released tag s t) (suspect unit fclass : Nat) : Released tag s (t.fileWitness suspect unit fclass) := by
  have only := fileWitness_witnessOnly t suspect unit fclass
  unfold WitnessOnly at only
  rw [only]
  exact ⟨h.out, h.cores, h.fenced, h.retry, h.hbm⟩

theorem Released.core (h : Released tag s t) (p : Nat) : t.core p = s.core p := by
  unfold State.core
  rw [h.cores]

theorem Released.idle (h : Released tag s t) (idle : ∀ p e, (s.dmaEng p e).active = none) (p e : Nat) : (t.dmaEng p e).active = none := by
  unfold State.dmaEng
  rw [h.core]
  exact idle p e

theorem Released.ended (h : Released tag s t) (out : u.out = t.out) (hbm : u.hbm = t.hbm) : Ended tag s u := by
  unfold Ended
  rw [out, h.out, hbm, h.hbm]
  refine ⟨fun y member => ?_, fun y member other => ?_, rfl⟩
  · exact bne_iff_ne.mp (List.mem_filter.mp member).2
  · exact List.mem_filter.mpr ⟨member, bne_iff_ne.mpr other⟩

end

/-! ### What the sequencer takes (R229, R230) -/

/-- A core whose scalar load has data, poisoned or not, or the zeros of an error. -/
def withLoad (k : Core) (l : LoadWait) (d : List Byte) (poison err : Bool) : Core := { k with load := some { l with data := some (d, poison), err := err } }

/-- A core whose posted store of a request has its acknowledgement. -/
def withoutPosted (k : Core) (tag : BitVec 16) : Core := { k with posted := k.posted.filter (fun y => y.tag != some tag) }

section
variable {s : State} {q : OutReq}

theorem answer_seq_data {l : LoadWait} (plain : q.biv = false) (seq : q.eng = .seq) (read : q.cls = 1) (free : (s.ctx q.ctx).fenced = false)
    (load : (s.core q.core).load = some l) (waits : l.tag = some q.tag) (d : List Byte) (poison : Bool) (m : Option TileMeta) :
    s.answer q 0 d poison m = s.setCore q.core (withLoad (s.core q.core) l d poison false) := by
  simp [State.answer, withLoad, plain, seq, read, free, load, waits]

theorem answer_seq_error {l : LoadWait} {err : Nat} (plain : q.biv = false) (seq : q.eng = .seq) (read : q.cls = 1)
    (free : (s.ctx q.ctx).fenced = false) (load : (s.core q.core).load = some l) (waits : l.tag = some q.tag) (failed : err ≠ 0) (d : List Byte)
    (poison : Bool) (m : Option TileMeta) :
    s.answer q err d poison m = s.setCore q.core (withLoad (s.core q.core) l (List.replicate q.len 0) true true) := by
  have status : (err != 0) = true := bne_iff_ne.mpr failed
  simp [State.answer, withLoad, plain, seq, read, free, load, waits, failed, status]

theorem answer_seq_store (plain : q.biv = false) (seq : q.eng = .seq) (write : q.cls = 2) (d : List Byte) (poison : Bool) (m : Option TileMeta) :
    s.answer q 0 d poison m = s.setCore q.core (withoutPosted (s.core q.core) q.tag) := by
  simp [State.answer, withoutPosted, plain, seq, write]

theorem answer_seq_inc (plain : q.biv = false) (seq : q.eng = .seq) (inc : q.cls = 3) (d : List Byte) (poison : Bool) (m : Option TileMeta) :
    s.answer q 0 d poison m = s := by
  simp [State.answer, plain, seq, inc]

end

/-! ### A response arrives (R229, R232) -/

/-- A response of class `cls` is the answer of the engine that sent request `q`. -/
def handOver (t : State) (q : OutReq) (cls : Nat) (h : FabHdr) (d : List Byte) : State :=
  t.answer q (if cls = 0xB then max 1 h.status.toNat else 0) (slice d q.skew (d.length - q.skew)) h.poison (metaOf h)

section
variable {s : State} {cls : Nat} {h : FabHdr} {d : List Byte} {q : OutReq}

/-- A response that is no UNROUTABLE finds the request of its tag and its class, which leaves the list, and is handed over. Only read data may write a
register, where it came poisoned. -/
theorem deliver_only (only : s.out.filter (fun y => y.tag == h.tag) = [q]) (fabric : q.cls ≤ 3) (fits : cls = 0xB ∨ cls = q.cls + 7)
    (routed : cls = 0xB → h.status ≠ 7) :
    ∃ t, Released h.tag s t ∧ (cls ≠ 8 → t.regs = s.regs) ∧ s.deliver cls h d = handOver t q cls h d := by
  have found : s.out.find? (fun y => y.tag == h.tag && y.cls ≤ 3 && (cls == 0xB || cls == y.cls + 7)) = some q := by
    have := find_only only (r := fun y => decide (y.cls ≤ 3) && (cls == 0xB || cls == y.cls + 7)) (by simpa using ⟨fabric, fits⟩)
    simpa only [Bool.and_assoc] using this
  have stays : (cls = 0xB && h.status == 7 && s.mayReplay q && q.port.any (fun w => decide (24 ≤ w))) = false := by
    have : (decide (cls = 0xB) && h.status == 7) = false := by simpa using routed
    rw [this, Bool.false_and, Bool.false_and]
  have dropped : Released h.tag s (s.dropReq h.tag) := dropReq_released rfl
  unfold State.deliver
  rw [found]
  dsimp only
  rw [stays, tag_of_only only]
  refine ⟨_, ?released, ?regs, rfl⟩
  case released =>
    split
    · exact dropped.fileWitness ..
    · exact dropped
  case regs =>
    intro other
    simp only [other, decide_false, Bool.false_and, Bool.false_eq_true, if_false]
    rfl

theorem deliver_discards (unasked : ∀ y ∈ s.out, y.tag ≠ h.tag) : s.deliver cls h d = s := by
  have lost : s.out.find? (fun y => y.tag == h.tag && y.cls ≤ 3 && (cls == 0xB || cls == y.cls + 7)) = none :=
    List.find?_eq_none.mpr fun y member => by simp [unasked y member]
  unfold State.deliver
  rw [lost]

/-- The DMA engines have nothing to run. -/
theorem dmaRuns_none (idle : ∀ p e, (s.dmaEng p e).active = none) (cores : SMap Core) :
    cores.foldl (fun s kc => kc.2.dma.foldl (fun s e => s.dmaRun kc.1 e.1) s) s = s := by
  refine List.foldlRecOn (motive := fun t => t = s) _ _ rfl fun t same kc _ => ?_
  refine List.foldlRecOn (motive := fun t => t = s) _ _ same fun t same e _ => ?_
  rw [same, dmaRun_none (idle kc.1 e.1)]

/-- Where no DMA descriptor is at work and this chip has no message for itself, nothing follows a response but its delivery. -/
theorem response_eq_deliver {u : State} (own : h.dst.toNat = s.ownChip) (ours : s.out.any (fun y => y.tag == h.tag && y.biv) = false)
    (delivered : s.deliver cls h d = u) (retry : u.retry = []) (idle : ∀ p e, (u.dmaEng p e).active = none) : s.response cls h d = u := by
  unfold State.response
  rw [if_neg (not_not_intro own), ours, delivered]
  dsimp only
  rw [if_neg Bool.false_ne_true, dmaRuns_none idle, settle_none retry]

theorem idle_setCore {p : Nat} {x : Core} (idle : ∀ p e, (s.dmaEng p e).active = none) (same : x.dma = (s.core p).dma) (k e : Nat) :
    ((s.setCore p x).dmaEng k e).active = none := by
  unfold State.dmaEng
  by_cases here : k = p
  · subst here
    rw [core_setCore_same, same]
    exact idle k e
  · rw [core_setCore_ne s p k x here]
    exact idle k e

end

section
variable {s : State} {cls : Nat} {h : FabHdr} {d : List Byte} {q : OutReq} (own : h.dst.toNat = s.ownChip) (retry : s.retry = [])
  (idle : ∀ p e, (s.dmaEng p e).active = none)
include own retry idle

theorem response_discards (unasked : ∀ y ∈ s.out, y.tag ≠ h.tag) : s.response cls h d = s :=
  response_eq_deliver own (List.any_eq_false.mpr fun y member => by simp [unasked y member]) (deliver_discards unasked) retry idle

variable (only : s.out.filter (fun y => y.tag == h.tag) = [q]) (plain : q.biv = false)
include only plain

/-- A response that is handed over as `x` in the place of the core that asked: the request has ended, and that is the core. -/
theorem response_setCore (x : Core) (fabric : q.cls ≤ 3) (fits : cls = 0xB ∨ cls = q.cls + 7) (routed : cls = 0xB → h.status ≠ 7)
    (dma : x.dma = (s.core q.core).dma) (answered : ∀ t, Released h.tag s t → handOver t q cls h d = t.setCore q.core x) :
    Ended h.tag s (s.response cls h d) ∧ (s.response cls h d).core q.core = x := by
  obtain ⟨t, released, -, delivered⟩ := deliver_only (d := d) only fabric fits routed
  rw [answered t released] at delivered
  have ours := (any_only only OutReq.biv).trans plain
  have same : x.dma = (t.core q.core).dma := by rw [dma, released.core]
  rw [response_eq_deliver own ours delivered (released.retry.trans retry) (idle_setCore (released.idle idle) same)]
  exact ⟨released.ended rfl rfl, core_setCore_same ..⟩

variable (seq : q.eng = .seq)
include seq

theorem response_store (write : q.cls = 2) : Ended h.tag s (s.response 9 h d) ∧
    (s.response 9 h d).core q.core = withoutPosted (s.core q.core) q.tag := by
  refine response_setCore own retry idle only plain _ (by omega) (.inr (by omega)) nofun rfl fun t k => ?_
  rw [handOver, if_neg (by decide), answer_seq_store plain seq write, k.core]

/-- An acknowledged increment has no part of the engine to end (R228). -/
theorem response_inc (inc : q.cls = 3) : Ended h.tag s (s.response 10 h d) ∧ (s.response 10 h d).regs = s.regs := by
  obtain ⟨t, released, regs, delivered⟩ := deliver_only (cls := 10) (d := d) only (by omega) (.inr (by omega)) nofun
  rw [handOver, if_neg (by decide), answer_seq_inc plain seq inc] at delivered
  have ours := (any_only only OutReq.biv).trans plain
  rw [response_eq_deliver own ours delivered (released.retry.trans retry) (released.idle idle)]
  exact ⟨released.ended rfl rfl, regs (by decide)⟩

variable {l : LoadWait} (read : q.cls = 1) (free : (s.ctx q.ctx).fenced = false) (load : (s.core q.core).load = some l) (waits : l.tag = some q.tag)
include read free load waits

theorem response_data : Ended h.tag s (s.response 8 h d) ∧
    (s.response 8 h d).core q.core = withLoad (s.core q.core) l (slice d q.skew (d.length - q.skew)) h.poison false := by
  refine response_setCore own retry idle only plain _ (by omega) (.inr (by omega)) nofun rfl fun t k => ?_
  rw [handOver, if_neg (by decide), answer_seq_data plain seq read ((k.fenced _).trans free) ((congrArg _ (k.core _)).trans load) waits, k.core]

theorem response_error (routed : h.status ≠ 7) : Ended h.tag s (s.response 11 h d) ∧
    (s.response 11 h d).core q.core = withLoad (s.core q.core) l (List.replicate q.len 0) true true := by
  refine response_setCore own retry idle only plain _ (by omega) (.inl rfl) (fun _ => routed) rfl fun t k => ?_
  have failed : max 1 h.status.toNat ≠ 0 := by omega
  rw [handOver, if_pos rfl, answer_seq_error plain seq read ((k.fenced _).trans free) ((congrArg _ (k.core _)).trans load) waits failed, k.core]

end

/-! ### A deadline passes (R232) -/

section
variable {s : State} {q : OutReq}

/-- A pause in force moves the deadline of the request. -/
def deferTo (s : State) (tag : BitVec 16) (t : Word) : State :=
  { s with out := s.out.map (fun y => if y.tag == tag then { y with deadline := t } else y) }

/-- A timeout is counted and reported, and its request leaves the list. -/
def timedOut (s : State) (q : OutReq) : State :=
  ((s.bump R.JNR_ERR F.JNR_ERR.TIMEOUTS 1).fileWitness q.chip.toNat 0 1).dropReq q.tag

theorem remoteTimeout_paused {t : Word} (only : s.out.filter (fun y => y.tag == q.tag) = [q]) (fabric : q.cls ≤ 3)
    (passed : q.deadline.toNat ≤ s.time.toNat) (paused : s.pausedUntil q.chip = some t) :
    exec (.remoteTimeout q.tag) s = .next (deferTo s q.tag t) := by
  change execRemoteTimeout q.tag s = _
  unfold execRemoteTimeout
  rw [find_only only (decide_eq_true fabric)]
  dsimp only
  rw [if_neg (Nat.not_lt.mpr passed), paused]
  rfl

theorem remoteTimeout_ends (only : s.out.filter (fun y => y.tag == q.tag) = [q]) (fabric : q.cls ≤ 3)
    (passed : q.deadline.toNat ≤ s.time.toNat) (paused : s.pausedUntil q.chip = none) (plain : q.biv = false) :
    exec (.remoteTimeout q.tag) s = .next ((timedOut s q).answer q 6 [] false none).settle := by
  change execRemoteTimeout q.tag s = _
  unfold execRemoteTimeout
  rw [find_only only (decide_eq_true fabric)]
  dsimp only
  rw [if_neg (Nat.not_lt.mpr passed), paused, plain]
  rfl

theorem deadline_deferTo {t : Word} {tag : BitVec 16} {y : OutReq} (member : y ∈ (deferTo s tag t).out) (same : y.tag = tag) : y.deadline = t := by
  obtain ⟨x, -, rfl⟩ := List.mem_map.mp member
  by_cases here : x.tag = tag
  · simp [here]
  · simp [here] at same

theorem timedOut_released (s : State) (q : OutReq) : Released q.tag s (timedOut s q) := by
  refine dropReq_released ?_
  have counted : WitnessOnly s (s.bump R.JNR_ERR F.JNR_ERR.TIMEOUTS 1) := .wr rfl
  exact counted.trans (fileWitness_witnessOnly ..)

theorem rd_timedOut (s : State) (q : OutReq) : (timedOut s q).rd R.JNR_ERR F.JNR_ERR.TIMEOUTS =
    min (s.rd R.JNR_ERR F.JNR_ERR.TIMEOUTS + 1) (2 ^ F.JNR_ERR.TIMEOUTS.n - 1) := by
  have filed := rd_eq_of_word (f := F.JNR_ERR.TIMEOUTS) (by decide)
    (word_fileWitness_ne (s.bump R.JNR_ERR F.JNR_ERR.TIMEOUTS 1) q.chip.toNat 0 1 (a := R.JNR_ERR) (by decide))
  exact filed.trans (rd_bump_same _ _ _ _ (by decide))

/-- A load whose request has timed out has an error. -/
theorem timedOut_load {l : LoadWait} (retry : s.retry = []) (plain : q.biv = false) (seq : q.eng = .seq) (read : q.cls = 1)
    (free : (s.ctx q.ctx).fenced = false) (load : (s.core q.core).load = some l) (waits : l.tag = some q.tag) :
    let u := ((timedOut s q).answer q 6 [] false none).settle
    (∀ y ∈ u.out, y.tag ≠ q.tag) ∧
      u.rd R.JNR_ERR F.JNR_ERR.TIMEOUTS = min (s.rd R.JNR_ERR F.JNR_ERR.TIMEOUTS + 1) (2 ^ F.JNR_ERR.TIMEOUTS.n - 1) ∧
      (u.core q.core).load = some { l with data := some (List.replicate q.len 0, true), err := true } ∧ u.hbm = s.hbm := by
  have released := timedOut_released s q
  rw [answer_seq_error plain seq read ((released.fenced _).trans free) ((congrArg _ (released.core _)).trans load) waits (by decide), settle_none]
  · obtain ⟨gone, -, hbm⟩ := released.ended rfl rfl
    exact ⟨gone, rd_timedOut s q, congrArg Core.load (core_setCore_same ..), hbm⟩
  · exact released.retry.trans retry

end

/-! ### The statement -/

/-- Settles O32: the request of the tag leaves the list, and its sequencer's load, store or increment takes the answer; a pause moves the deadline. -/
theorem fabricResponsesAndTimeouts : Obligations.FabricResponsesAndTimeouts := by
  refine ⟨fun s h q own retry idle => ⟨?read, ?acknowledged, ?discarded⟩, fun s q only fabric passed => ⟨?paused, ?late⟩⟩
  case read =>
    intro d l found only plain seq free load waits
    have read : q.cls = 1 := by
      have meets := List.find?_some found
      exact beq_iff_eq.mp (Bool.and_eq_true_iff.mp meets).2
    refine ⟨?data, fun routed => ?error⟩
    case data =>
      obtain ⟨ended, core⟩ := response_data (d := d) own retry idle only plain seq read free load waits
      exact ⟨_, rfl, ended, congrArg Core.load core⟩
    case error =>
      obtain ⟨ended, core⟩ := response_error (d := []) own retry idle only plain seq read free load waits routed
      exact ⟨_, rfl, ended, congrArg Core.load core⟩
  case acknowledged =>
    intro only plain seq
    refine ⟨fun write => ?_, fun inc => ⟨_, rfl, response_inc own retry idle only plain seq inc⟩⟩
    obtain ⟨ended, core⟩ := response_store (d := []) own retry idle only plain seq write
    exact ⟨_, rfl, ended, congrArg Core.posted core⟩
  case discarded =>
    intro unasked d
    have stays (cls : Nat) (d : List Byte) : s.response cls h d = s := response_discards own retry idle unasked
    exact ⟨congrArg _ (stays 8 d), congrArg _ (stays 9 []), congrArg _ (stays 10 []), congrArg _ (stays 11 [])⟩
  case paused =>
    intro t paused
    exact ⟨_, remoteTimeout_paused only fabric passed paused, rfl, fun y => deadline_deferTo⟩
  case late =>
    intro l clear retry plain seq read free load waits
    exact ⟨_, remoteTimeout_ends only fabric passed clear plain, timedOut_load retry plain seq read free load waits⟩

end Sys2Proof.Proofs
end
